-- ==== Sys2Proof/Word.lean ====
section
/-! DEFINITION. The word types of the WX48: what its ports, lines and counters carry as bits. -/

namespace Sys2Proof

/-- One byte of a frame (R69, R194). -/
abbrev Byte := BitVec 8

/-- A 16-bit word: a passage number, a sequence, a revision, a generation, a sweep serial, a CRC. -/
abbrev Word16 := BitVec 16

/-- A site counter: 16-bit and saturating (conventions, "Counters, revisions and serials"). -/
abbrev Counter := BitVec 16

/-- A train serial, 32-bit (conventions). -/
abbrev Serial := BitVec 32

/-- A store stamp, 32-bit (conventions). -/
abbrev Stamp := BitVec 32

/-- A tag code, 64-bit (R68, R166). -/
abbrev TagCode := BitVec 64

end Sys2Proof
end

