-- ==== Sys2Proof/Machine/Kinds.lean ====
section
/-! DEFINITION. The named values of the manual, one constructor each (introduction, Conventions, and the chapters named). -/

namespace Sys2Proof

/-- Direction of a crossing or a passage (conventions, "Sides, rails and directions"). -/
inductive Dir where
  | ab | ba
  deriving DecidableEq, Repr

/-- The four detection points, from the A-end (chapter 1). -/
inductive PointId where
  | pa | ga | gb | pb
  deriving DecidableEq, Repr

/-- The two gate points (conventions, "Gate point"). -/
inductive Gate where
  | ga | gb
  deriving DecidableEq, Repr

/-- Head 1 (A side) or head 2 (B side) of a point. -/
inductive HeadNo where
  | one | two
  deriving DecidableEq, Repr

/-- The level of a head line: low while the head is occupied (R1). -/
inductive Level where
  | occupied | clear
  deriving DecidableEq, Repr

/-- Health of a head (chapter 1, Health states). -/
inductive HeadHealth where
  | inService | standing | cutOff
  deriving DecidableEq, Repr

/-- Condition of a point (R7). -/
inductive Condition where
  | normal | degraded | out
  deriving DecidableEq, Repr

/-- States of a crossing machine (R8, R9, R12). -/
inductive CrossState where
  | idle | lead1 | over1 | trail1 | lead2 | over2 | trail2 | settling
  deriving DecidableEq, Repr

/-- The passage state (chapter 2). -/
inductive PassagePhase where
  | idle | arming | armed | inPassage | standstill | clearing
  deriving DecidableEq, Repr

/-- The outcome of a passage (R39, R42, R145). -/
inductive PassageOutcome where
  | complete | withdrawn | timedOut
  deriving DecidableEq, Repr

/-- The causes of a record's cause set, in the order of R146's table. -/
inductive Cause where
  | unannounced | lateArm | lateModule | openedLate | directionMismatch | opposingApproach | gateSubstituted
  | gateCountFault | countUnchecked | standstill | rollback | rosterFull | vehicleFull | groupingLimit
  | groupingUncertain | tagConflict | moduleMissing | orphanReports | clockUnset | clockChanged
  | findingsOverflow | deferredPresent
  deriving DecidableEq, Repr

/-- The eighteen flags, in bit order (R204). -/
inductive Flag where
  | trainClosed | gradeAlarm | deferredWaiting | recordLost | headCutOff | gatesOut | moduleMissing | moduleSuspect
  | opposingApproach | watchRaised | watchEscalated | watchFull | leaseExpired | sweepDone | storeFault
  | settingsDefaulted | storeEntryLost | clockUnset
  deriving DecidableEq, Repr

/-- Standing of the roster (R45). -/
inductive RosterStanding where
  | none | live | final
  deriving DecidableEq, Repr

/-- State of an axle entry (R47, R50). -/
inductive EntryState where
  | present | retracted
  deriving DecidableEq, Repr

/-- Class of a gap (R56). -/
inductive GapClass where
  | bogie | coupling | body | unknown
  deriving DecidableEq, Repr

/-- Rail 1 or rail 2. -/
inductive Rail where
  | one | two
  deriving DecidableEq, Repr

/-- A vehicle's own side (conventions). -/
inductive Side where
  | s1 | s2
  deriving DecidableEq, Repr

/-- A vehicle's own end (conventions). -/
inductive VehicleEnd where
  | one | two
  deriving DecidableEq, Repr

/-- State of a vehicle (R57, R58). -/
inductive VehicleState where
  | opened | closed
  deriving DecidableEq, Repr

/-- Tag state of a vehicle (R62): NONE, SINGLE, CONFIRMED, CONFLICT. -/
inductive TagState where
  | untagged | single | confirmed | conflict
  deriving DecidableEq, Repr

/-- Orientation of a vehicle (R64). -/
inductive Orientation where
  | end1Leading | end2Leading | unknown
  deriving DecidableEq, Repr

/-- Watch levels, rising (conventions). -/
inductive WatchLevel where
  | observe | restrict | withdraw
  deriving DecidableEq, Repr

/-- Grades, rising (conventions). -/
inductive Grade where
  | clear | note | caution | alarm | stop
  deriving DecidableEq, Repr

/-- Reasons of an unmeasured value, in the order of R195: NOT_FITTED, MISSING, OUT_OF_BAND, TOO_FEW, NO_AMBIENT, PARTIAL,
RETRACTED. -/
inductive Reason where
  | notFitted | missing | outOfBand | tooFew | noAmbient | partialItem | retracted
  deriving DecidableEq, Repr

/-- Quality of a report's value (chapter 4; R67 gives the coding order). -/
inductive Quality where
  | good | noisy | clipped | failed
  deriving DecidableEq, Repr

/-- Kind of a module (chapter 4). -/
inductive ModuleKind where
  | bay | scanner | tagReader | ambientUnit
  deriving DecidableEq, Repr

/-- Arming state of a module (chapter 4). -/
inductive Arming where
  | idle | arming | ready | missing | notFitted
  deriving DecidableEq, Repr

/-- Health of a module (R79). -/
inductive ModuleHealth where
  | inService | suspect
  deriving DecidableEq, Repr

/-- Last-close outcome of a module (R77). -/
inductive LastClose where
  | ready | missing | notFitted
  deriving DecidableEq, Repr

/-- A receiver between frames, or inside one (R69, R193). -/
inductive Receiver where
  | hunting | inFrame
  deriving DecidableEq, Repr

/-- The fifteen quantities, in the order of R127's table. -/
inductive QuantityName where
  | wheelLoad | wheelImpact | impactExcess | impactRatio | bearingTemp | bearingRise | axleLoad | axleSideSplit
  | bearingCross | bearingTrainExcess | vehicleLoad | vehicleEndSplit | vehicleSideSplit | trainLoad | trainSpeed
  deriving DecidableEq, Repr

/-- Scope of a quantity (R127). -/
inductive Scope where
  | wheel | axle | vehicle | train
  deriving DecidableEq, Repr

/-- Predicate of a criterion (R126, R127). -/
inductive Predicate where
  | ge | gt | le | lt
  deriving DecidableEq, Repr

/-- Unmeasured treatment of a criterion (R134). -/
inductive Treatment where
  | ignore | meet | defer
  deriving DecidableEq, Repr

/-- Which threshold a test used (R131). -/
inductive ThresholdKind where
  | normal | watched
  deriving DecidableEq, Repr

/-- State of a finding (R135). -/
inductive FindingState where
  | final | deferred | resolved
  deriving DecidableEq, Repr

/-- Basis of a finding's axle index (R135). -/
inductive IndexBasis where
  | fromEnd1 | fromLeading
  deriving DecidableEq, Repr

/-- Kind of a finding (R135): the criterion of index `n` (number n + 1), or WATCHED_VEHICLE. -/
inductive FindingKind where
  | criterion (n : Fin 24)
  | watchedVehicle
  deriving DecidableEq, Repr

/-- State of a train slot that is not FREE (R144). -/
inductive RecordPhase where
  | opened | closing | closed
  deriving DecidableEq, Repr

/-- The two request ports (chapter 10). -/
inductive Port where
  | siteLink | servicePort
  deriving DecidableEq, Repr

/-- Origin of a watch entry (R166). -/
inductive Origin where
  | enrolled | raised
  deriving DecidableEq, Repr

/-- State of the sweep (R186). -/
inductive SweepState where
  | idle | running | suspended
  deriving DecidableEq, Repr

/-- State of the store (R220). -/
inductive StoreState where
  | online | offline
  deriving DecidableEq, Repr

/-- The 514 items of the store (R220). -/
inductive StoreItem where
  | slot (n : Fin 512)
  | settings
  | serial
  deriving DecidableEq, Repr

/-- Statuses of an answer (R201). -/
inductive Status where
  | ok | busy | notReady | unknownRequest | badLength | badValue | denied | notFound | exists | stale | heldByOther
  | notHeld | holdLimit | full | notClosed | wrongState | storeOffline
  deriving DecidableEq, Repr

/-- LOADING and RUNNING are the site states (R203); `held` is the part while RSTN is low or power is lost (R224). -/
inductive SiteMode where
  | held | loading | running
  deriving DecidableEq, Repr

/-- Privilege classes of requests (R200). -/
inductive Privilege where
  | read | hold | write | site
  deriving DecidableEq, Repr

/-- What the loading reads next (R224: "the settings block, the serial and the 512 slot images in turn"). -/
inductive LoadStep where
  | settings
  | serial
  | slots (next : Nat)
  deriving DecidableEq, Repr

/-- The steps of a composition (R132). `contribute` stands from step 6 to the record being CLOSED. -/
inductive CompStep where
  | derive | test | watched | select | verdict | contribute
  deriving DecidableEq, Repr

/-- The thirty settings, in the order of their name numbers (R217). -/
inductive Setting where
  | stuckLimit | quietPeriod | gaHeadSpacing | gbHeadSpacing | armLimit | armTimeout | standstillTime | clearTime
  | passageLimit | bogieGapMax | couplingGapMax | readerLag | modulesFitted | loadSpeedMin | loadSpeedMax
  | minGoodBays | heatSpeedMin | heatSpeedMax | trainMeanMin | holdLease | escalateCount | clearRun | riseTrendStep
  | impactTrendStep | admissionReserve | forgetSweeps | serviceWrites | clockTrim | sweepTime | sweepDays
  deriving DecidableEq, Repr

/-- The five timers of the passage controller, in the order of R44. -/
inductive TimerName where
  | arm | armTimeout | standstill | clear | limit
  deriving DecidableEq, Repr

/-- The request catalogue (chapter 10). -/
inductive RequestKind where
  | identify | status | flagsClear | enablesSet | countersRead | countersClear | siteReset | pointStatus | headRestore
  | passageStatus | rosterRead | vehicleRead | moduleStatus | criterionRead | criterionWrite | trainList | trainRead
  | trainHold | trainRelease | trainResolve | trainRetire | watchFind | watchScan | watchEnrol | watchAmend
  | watchRetire | watchHold | watchRelease | sweepNow | clockRead | clockSet | settingRead | settingWrite
  | storeSave | storeRetry
  deriving DecidableEq, Repr

end Sys2Proof
end

