-- ==== Sys2Proof/Machine/Records.lean ====
section
/-! DEFINITION. The records of the WX48, block by block: what each block of the introduction's block diagram owns, as plain
data. A value that a rule computes from these is a function elsewhere, not a field. -/

namespace Sys2Proof

/-! ### Clock values -/

/-- A date-time with its weekday (conventions, R212). -/
structure DateTime where
  year : Nat
  month : Nat
  day : Nat
  hour : Nat
  minute : Nat
  second : Nat
  weekday : Nat
  deriving DecidableEq, Repr, Inhabited

/-- A date (R140, R166). -/
structure Date where
  year : Nat
  month : Nat
  day : Nat
  deriving DecidableEq, Repr, Inhabited

/-! ### Point unit (chapter 1) -/

/-- One head of eight by name: its point and its number there (R1). -/
structure HeadId where
  point : PointId
  no : HeadNo
  deriving DecidableEq, Repr

/-- The filtered levels of the two head lines of one point (R1). -/
structure LinePair where
  one : Level
  two : Level
  deriving DecidableEq, Repr

/-- The filtered levels of HD1 to HD8 (R1; pins table). -/
structure HeadLines where
  pa : LinePair
  ga : LinePair
  gb : LinePair
  pb : LinePair
  deriving DecidableEq, Repr

/-- One wheel head: level, health, time of its last change (R1 to R4). -/
structure Head where
  level : Level
  health : HeadHealth
  lastChange : Nat
  deriving DecidableEq, Repr

/-- The record of a point's last crossing (R15, R18). `sinceSet`: made since the counting direction was last set to AB or BA
(R13, R16). -/
structure LastCrossing where
  dir : Dir
  interval : Option Nat
  degraded : Bool
  sinceSet : Bool
  deriving DecidableEq, Repr

/-- One detection point: heads, crossing machine, net count, spurious-reverse counter, last crossing (R8 to R17). -/
structure Point where
  head1 : Head
  head2 : Head
  machine : CrossState
  lead : Option Nat
  interval : Option Nat
  rocked : Bool
  net : Nat
  spurious : Counter
  last : Option LastCrossing
  deriving DecidableEq, Repr

/-- The point unit: four points and the counting direction (R16). `everSet`: the counting direction has been set to AB or BA
since cold start, the model's own field (log 26). -/
structure PointUnit where
  pa : Point
  ga : Point
  gb : Point
  pb : Point
  direction : Option Dir
  everSet : Bool
  deriving DecidableEq, Repr

/-! ### Settings block (R126, R217) -/

/-- One entry of the criteria table (R126). -/
structure Criterion where
  enabled : Bool
  quantity : QuantityName
  predicate : Predicate
  normal : Int
  watched : Int
  grade : Grade
  treatment : Treatment
  deriving DecidableEq, Repr

/-- The settings block: thirty settings, 24 criteria, the criteria generation number (R126, R217, R220). The latched passage
settings of R20 have the same shape. -/
structure SettingsBlock where
  values : Vector Int 30
  criteria : Vector Criterion 24
  generation : Word16
  deriving DecidableEq, Repr

/-! ### Passage controller (R19) -/

/-- The last counting-gate crossing (R19, R35). -/
structure GateCrossing where
  time : Nat
  dir : Dir
  speed : Option Nat
  deriving DecidableEq, Repr

/-- The counting-gate speed tally (R33). -/
structure SpeedTally where
  count : Nat
  sum : Nat
  least : Nat
  greatest : Nat
  deriving DecidableEq, Repr

/-- The five timers: the instant each was started, or none when stopped (R19, R44). -/
structure PassageTimers where
  arm : Option Nat
  armTimeout : Option Nat
  standstill : Option Nat
  clear : Option Nat
  limit : Option Nat
  deriving DecidableEq, Repr

/-- The passage controller (R19). -/
structure Passage where
  phase : PassagePhase
  held : Bool
  expected : Option Dir
  direction : Option Dir
  serial : Option Serial
  armedMoment : Nat
  gate : Option Gate
  checkSet : BitVec 4
  pending : BitVec 22
  latched : SettingsBlock
  lastGate : Option GateCrossing
  tally : SpeedTally
  timers : PassageTimers
  outcomeToBe : Option PassageOutcome
  falseApproaches : Counter
  deriving DecidableEq, Repr

/-! ### Roster unit (R45) -/

/-- A bay's value for one rail: forces, FAILED without forces (R87), or unmeasured with a reason (R47). -/
inductive BayValue where
  | forces (peak mean : Nat) (quality : Quality)
  | failed
  | unmeasured (reason : Reason)
  deriving DecidableEq, Repr

/-- A scanner's value: a temperature, FAILED without one (R87), or unmeasured with a reason (R47). -/
inductive BearingValue where
  | temp (value : Int) (quality : Quality)
  | failed
  | unmeasured (reason : Reason)
  deriving DecidableEq, Repr

/-- One bay's values for both rails. -/
structure BayPair where
  rail1 : BayValue
  rail2 : BayValue
  deriving DecidableEq, Repr

/-- An axle entry (chapter 3, the entry table). `bays` holds modules 1 to 4, `bearings` modules 5 and 6, `recross` the
re-crossing counts of modules 1 to 6. -/
structure AxleEntry where
  ordinal : Nat
  state : EntryState
  crossingTime : BitVec 32
  speed : Option Nat
  gap : Option Nat
  gapClass : GapClass
  vehicle : Nat
  position : Nat
  axleIndex : Option Nat
  bays : Vector BayPair 4
  bearings : Vector BearingValue 2
  recross : Vector Nat 6
  reversedOver : Bool
  deriving DecidableEq, Repr

/-- A vehicle of the vehicle list (R57, R62, R63, R64). -/
structure Vehicle where
  position : Nat
  firstOrdinal : Nat
  axleCount : Nat
  state : VehicleState
  tagState : TagState
  tagCode : Option TagCode
  taggedEnd : Option VehicleEnd
  readPosition : Option Nat
  orientation : Orientation
  snapshot : Vector (Option WatchLevel) 13
  deriving DecidableEq, Repr

/-- The roster unit (R45). -/
structure RosterUnit where
  entries : List AxleEntry
  vehicles : List Vehicle
  serial : Option Serial
  standing : RosterStanding
  generation : Word16
  net : Nat
  earlyTags : Counter
  lateTags : Counter
  unplacedTags : Counter
  failedReads : Counter
  deriving DecidableEq, Repr

/-! ### Module line controller (chapter 4) -/

/-- A module frame from the module kind to the payload, with the CRC received or sent (R69). The length byte is the
payload's length plus 6. -/
structure ModuleFrame where
  kind : Byte
  passage : Word16
  sequence : Word16
  code : Byte
  payload : List Byte
  crc : Word16
  deriving DecidableEq, Repr

/-- Why a module line discards a frame before its passage check: a length byte outside 6 to 17, a bad stop bit, or a whole
frame that fails the CRC or the form check (R69, R70). -/
inductive ModuleDiscard where
  | length (n : Byte)
  | stopBit
  | frame (f : ModuleFrame)
  deriving DecidableEq, Repr

/-- One module line and its module (R71 to R91). `sending` holds the frames given to the line and not yet sent, first
given first. -/
structure ModuleLine where
  arming : Arming
  health : ModuleHealth
  lastClose : Option LastClose
  cursor : Nat
  beyond : Nat
  expected : Word16
  crcTally : Counter
  orphanTally : Counter
  crcErrors : Counter
  malformed : Counter
  stale : Counter
  outOfSequence : Counter
  missingReports : Counter
  orphans : Counter
  sendSeq : Word16
  sending : List ModuleFrame
  receiver : Receiver
  deriving DecidableEq, Repr

/-- The module line controller (chapter 4). -/
structure ModuleUnit where
  lines : Vector ModuleLine 8
  passageNumber : Option Word16
  reversed : Bool
  ambient : Option Int
  deriving DecidableEq, Repr

/-! ### Quantities and findings (chapters 5 to 7) -/

/-- A quantity of an item: a number, or unmeasured with one reason (conventions, R93, R112). -/
inductive Measure where
  | value (v : Int)
  | unmeasured (r : Reason)
  deriving DecidableEq, Repr

/-- The quantities of wheel scope (R97 to R100, R116, R118), with the wheel's own train excess (R121). -/
structure WheelQuantities where
  load : Measure
  impact : Measure
  excess : Measure
  ratio : Measure
  temp : Measure
  rise : Measure
  trainExcess : Measure
  deriving DecidableEq, Repr

/-- The quantities of one axle entry: both wheels and the axle scope (R101, R102, R119, R121). -/
structure AxleQuantities where
  wheel1 : WheelQuantities
  wheel2 : WheelQuantities
  load : Measure
  sideSplit : Measure
  cross : Measure
  trainExcess : Measure
  deriving DecidableEq, Repr

/-- The quantities of one vehicle (R104 to R106). -/
structure VehicleQuantities where
  load : Measure
  endSplit : Measure
  sideSplit : Measure
  deriving DecidableEq, Repr

/-- The derived working set of a composition (R92, R111): axles in ordinal order, vehicles in position order, the train, the
train means of rail 1 and rail 2 (R120). -/
structure Derived where
  axles : List AxleQuantities
  vehicles : List VehicleQuantities
  trainLoad : Measure
  trainSpeed : Measure
  mean1 : Option Int
  mean2 : Option Int
  deriving DecidableEq, Repr

/-- The place a finding counts its axle index from, with the index (R135). -/
structure FindingIndex where
  index : Nat
  basis : IndexBasis
  deriving DecidableEq, Repr

/-- A finding (R135). `number` is 0 until selection gives one (R137). `measure` holds value or reason, and is absent for a
WATCHED_VEHICLE finding (R136). -/
structure Finding where
  number : Nat
  kind : FindingKind
  vehicle : Option Nat
  ordinal : Option Nat
  rail : Option Rail
  side : Option Side
  index : Option FindingIndex
  measure : Option Measure
  threshold : ThresholdKind
  grade : Grade
  state : FindingState
  resolvedGrade : Option Grade
  deriving DecidableEq, Repr

/-! ### Contributions and watch entries (chapter 9) -/

/-- The key of a watch entry: tag code and axle index 0 to 12 (R166). -/
structure WatchKey where
  tag : TagCode
  index : Nat
  deriving DecidableEq, Repr

/-- The per-side values of a PASSAGE contribution (R140). -/
structure SideValues where
  rise1 : Option Int
  rise2 : Option Int
  excess1 : Option Int
  excess2 : Option Int
  deriving DecidableEq, Repr

/-- A contribution (R167). -/
inductive Contribution where
  | passage (key : WatchKey) (serial : Serial) (date : Date) (grade : Grade) (deferred : Bool) (sides : SideValues)
  | resolution (key : WatchKey) (grade : Grade)
  | sweep (serial : Word16)
  deriving DecidableEq, Repr

/-- A hold: the holding port and the lease expiry on the running time base (R157, R173). -/
structure Hold where
  port : Port
  expiry : Nat
  deriving DecidableEq, Repr

/-- A watch entry (R166), without its store stamp, which the slot keeps. -/
structure WatchEntry where
  key : WatchKey
  origin : Origin
  level : WatchLevel
  floor : Option WatchLevel
  rise1 : List Int
  rise2 : List Int
  excess1 : List Int
  excess2 : List Int
  passages : Counter
  exceedances : Counter
  cleanRun : Nat
  lastSerial : Option Serial
  lastDate : Option Date
  unseen : Nat
  stale : Bool
  sweepStamp : Word16
  revision : Word16
  note : List Byte
  hold : Option Hold
  pending : List Contribution
  deriving DecidableEq, Repr

/-- A watch slot: FREE or LIVE (R165), the stamp of the last image written for it (R166), and the broken-hold notice of each
port (R176). -/
structure WatchSlot where
  entry : Option WatchEntry
  stamp : Stamp
  noticeLink : Bool
  noticeService : Bool
  deriving DecidableEq, Repr

/-- The watch table (R165, R186). -/
structure WatchTable where
  slots : Vector WatchSlot 512
  sweepSerial : Word16
  sweepState : SweepState
  cursor : Nat
  startPending : Bool
  deriving DecidableEq, Repr

/-! ### Composition (R132) -/

/-- A composition in flight: the step to take next, the copies made at the close (R77, R132), the working set, the findings
made, those kept with the overflow count (R137), and the contributions not yet handed over (R142). Bit n − 1 of `suspect` is
set when module n was SUSPECT. -/
structure Composition where
  step : CompStep
  latched : SettingsBlock
  suspect : BitVec 8
  ambient : Option Int
  derived : Derived
  made : List Finding
  kept : List Finding
  overflow : Nat
  contributions : List Contribution
  deriving DecidableEq, Repr

/-! ### Train table (R144, R145) -/

/-- A vehicle of a record's vehicle copy (R139). -/
structure VehicleCopy where
  position : Nat
  firstOrdinal : Nat
  axleCount : Nat
  tagCode : Option TagCode
  tagState : TagState
  orientation : Orientation
  load : Measure
  worst : Grade
  highest : Option WatchLevel
  deriving DecidableEq, Repr

/-- What a record takes at the close (R43, R123, R145). -/
structure CloseFigures where
  closed : DateTime
  outcome : PassageOutcome
  net : Nat
  speedMin : Option Nat
  speedMax : Option Nat
  speedMean : Option Nat
  ambient : Option Int
  deriving DecidableEq, Repr

/-- What a record takes at step 5 of its composition (R139, R145). -/
structure Verdict where
  grade : Grade
  findings : List Finding
  overflow : Nat
  deferred : Nat
  trainLoad : Measure
  mean1 : Option Int
  mean2 : Option Int
  rosterLength : Nat
  retracted : Nat
  vehicleCount : Nat
  vehicles : List VehicleCopy
  deriving DecidableEq, Repr

/-- A train record (R145). -/
structure TrainRecord where
  serial : Serial
  direction : Dir
  opened : DateTime
  phase : RecordPhase
  close : Option CloseFigures
  verdict : Option Verdict
  causes : BitVec 22
  readMark : Bool
  hold : Option Hold
  generation : Word16
  rank : Nat
  deriving DecidableEq, Repr

/-! ### Ports (chapter 10) -/

/-- An answer made (R194): its frame's tag, kind, status and body. -/
structure Answer where
  tag : Byte
  kind : Byte
  status : Status
  body : List Byte
  deriving DecidableEq, Repr

/-- The line side of one port (R193, R198): its rate, its receiver, its answer queue, oldest first. -/
structure PortLine where
  fast : Bool
  receiver : Receiver
  answers : List Answer
  deriving DecidableEq, Repr

/-- A request frame that fails: the length field, a bad stop bit, or a whole frame with the CRC received (R196). -/
inductive RequestDiscard where
  | length (n : Word16)
  | stopBit
  | frame (tag kind : Byte) (body : List Byte) (crc : Word16)
  deriving DecidableEq, Repr

/-- The site counters that belong to the ports, the train table and the watch table (R208 orders 1, 6, 7). -/
structure Counts where
  linkFrameErrors : Counter
  linkDropped : Counter
  serviceFrameErrors : Counter
  serviceDropped : Counter
  reclaimedUnread : Counter
  deferredAbandoned : Counter
  raisesRefused : Counter
  contributionsDiscarded : Counter
  deriving DecidableEq, Repr

/-- The hold count of each port (R157). -/
structure HoldCounts where
  link : Nat
  service : Nat
  deriving DecidableEq, Repr

/-! ### Clock and store (chapter 11) -/

/-- The site clock (R212, R213). `spanSecond` is the second of the span of 64 now running, `secondLength` its length in
crystal periods. -/
structure Clock where
  reading : DateTime
  isSet : Bool
  spanSecond : Nat
  secondLength : Nat
  deriving DecidableEq, Repr

/-- What reading or building an image gives: erased (R225), a CRC that does not match, or contents with their stamp. -/
inductive Image (α : Type) where
  | blank
  | torn
  | sound (contents : α) (stamp : Stamp)
  deriving DecidableEq, Repr

/-- The contents of a slot image: the FREE mark, or the stored fields of an entry (R220). -/
inductive SlotContents where
  | free
  | live (entry : WatchEntry)
  deriving DecidableEq, Repr

/-- The contents of an image being written (R220). -/
inductive ImageContents where
  | slot (c : SlotContents)
  | settings (b : SettingsBlock)
  | serial (n : Serial)
  deriving DecidableEq, Repr

/-- The write in flight, with the image it sends: the contents, the stamp and the CRC-16 over them (R220). -/
structure Write where
  item : StoreItem
  changed : Bool
  contents : ImageContents
  stamp : Stamp
  crc : Word16
  deriving DecidableEq, Repr

/-- The waiting STORE_SAVE of the site link (R223). `imageOlder`: a write of SETTINGS was in flight when it was taken and has
not ended, so that image was built before the request. -/
structure WaitingSave where
  tag : Byte
  imageOlder : Bool
  deriving DecidableEq, Repr

/-- The store controller (R220), with the progress of loading (R224 to R226) and the next train serial (R20). -/
structure StoreUnit where
  state : StoreState
  queue : List StoreItem
  inFlight : Option Write
  failures : Nat
  nextStamp : Stamp
  nextSerial : Serial
  waiting : Option WaitingSave
  faults : Counter
  entriesLost : Counter
  loading : LoadStep
  highest : Option Stamp
  deriving DecidableEq, Repr

/-! ### The site -/

/-- Everything but the two port lines and the queue of commands: the ten blocks of the introduction. `freeDraws` is the model's
own field: how many answers have drawn free values (log 15). -/
structure Site where
  mode : SiteMode
  now : Nat
  pins : HeadLines
  points : PointUnit
  passage : Passage
  roster : RosterUnit
  modules : ModuleUnit
  settings : SettingsBlock
  composition : Option Composition
  train : Vector (Option TrainRecord) 4
  watch : WatchTable
  flags : BitVec 18
  enables : BitVec 18
  counts : Counts
  holds : HoldCounts
  clock : Clock
  store : StoreUnit
  freeDraws : Nat
  deriving DecidableEq, Repr

end Sys2Proof
end

