-- ==== Sys2Proof/Syntax.lean ====
section
/-! DEFINITION. The commands: one constructor per row of the table of operations and events (opcode_table.json), in its order.
The table gives no operands; they are what the row's rules say arrives. Line n of a `Fin 8` is module line n + 1. A request
carries its port, its frame's tag and its body bytes; its kind is the constructor (R194). -/

namespace Sys2Proof

/-- A command: one step of the part, whole and indivisible (spec 95). -/
inductive Instr where
  /-- COLD_START (R224): the levels of the rate straps (R193). -/
  | coldStart (lrateHigh srateHigh : Bool)
  /-- LOAD_SETTINGS_IMAGE (R225): what the read of the image gave. -/
  | loadSettingsImage (image : Image SettingsBlock)
  /-- LOAD_SERIAL_IMAGE (R225): what the read of the image gave. -/
  | loadSerialImage (image : Image Serial)
  /-- LOAD_SLOT_IMAGE (R226): what the read of the next slot's image gave. -/
  | loadSlotImage (image : Image SlotContents)
  /-- LOADING_END (R226). -/
  | loadingEnd
  /-- HEAD_CHANGE (R1): the head and the new filtered level of its line. -/
  | headChange (head : HeadId) (level : Level)
  /-- STUCK_TIMER_EXPIRY (R2): the head. -/
  | stuckTimerExpiry (head : HeadId)
  /-- QUIET_TIMER_EXPIRY (R4): the head. -/
  | quietTimerExpiry (head : HeadId)
  /-- ARM_TIMER_EXPIRY (R23). -/
  | armTimerExpiry
  /-- ARM_TIMEOUT_EXPIRY (R24). -/
  | armTimeoutExpiry
  /-- STANDSTILL_TIMER_EXPIRY (R36). -/
  | standstillTimerExpiry
  /-- CLEAR_TIMER_EXPIRY (R39). -/
  | clearTimerExpiry
  /-- PASSAGE_LIMIT_EXPIRY (R42). -/
  | passageLimitExpiry
  /-- MODULE_BYTE_GAP (R69): the line, and the byte that arrives after the gap. -/
  | moduleByteGap (line : Fin 8) (next : Byte)
  /-- MODULE_READY (R74): the line and the frame taken whole. -/
  | moduleReady (line : Fin 8) (frame : ModuleFrame)
  /-- BAY_SCANNER_REPORT (R81): the line and the frame taken whole. -/
  | bayScannerReport (line : Fin 8) (frame : ModuleFrame)
  /-- TAG_REPORT (R61): the frame taken whole on line 7. -/
  | tagReport (frame : ModuleFrame)
  /-- COMPOSE_DERIVE (R92). -/
  | composeDerive
  /-- COMPOSE_TEST_CRITERIA (R133). -/
  | composeTestCriteria
  /-- COMPOSE_WATCHED_VEHICLES (R136). -/
  | composeWatchedVehicles
  /-- COMPOSE_SELECT (R137). -/
  | composeSelect
  /-- COMPOSE_VERDICT (R139). -/
  | composeVerdict
  /-- PASSAGE_CONTRIBUTION (R168). -/
  | passageContribution
  /-- COMPOSITION_END (R143). -/
  | compositionEnd
  /-- TRAIN_LEASE_EXPIRY (R159): the train slot. -/
  | trainLeaseExpiry (slot : Fin 4)
  /-- WATCH_LEASE_EXPIRY (R177): the watch slot. -/
  | watchLeaseExpiry (slot : Fin 512)
  /-- SWEEP_VISIT (R189). -/
  | sweepVisit
  /-- CLOCK_SECOND (R212). -/
  | clockSecond
  /-- STORE_WRITE_START (R220). -/
  | storeWriteStart
  /-- STORE_ACK_TIMEOUT (R221). -/
  | storeAckTimeout
  /-- STORE_WRITE_END (R221): whether the image read back equals the image sent. -/
  | storeWriteEnd (readBackSame : Bool)
  /-- PORT_BYTE_GAP (R196): the port, and the byte that arrives after the gap. -/
  | portByteGap (port : Port) (next : Byte)
  /-- REQUEST_FRAME_DISCARD (R196): the port, and what is wrong with the frame. -/
  | requestFrameDiscard (port : Port) (what : RequestDiscard)
  /-- ANSWER_SENT (R198): the port. -/
  | answerSent (port : Port)
  /-- UNKNOWN_REQUEST (R199): the port and the frame's tag, kind and body. -/
  | unknownRequest (port : Port) (tag kind : Byte) (body : List Byte)
  /-- IDENTIFY (R202): the sending port, the frame's tag and its body. -/
  | identify (port : Port) (tag : Byte) (body : List Byte)
  /-- STATUS (R203): the sending port, the frame's tag and its body. -/
  | status (port : Port) (tag : Byte) (body : List Byte)
  /-- FLAGS_CLEAR (R205): the sending port, the frame's tag and its body. -/
  | flagsClear (port : Port) (tag : Byte) (body : List Byte)
  /-- ENABLES_SET (R206): the sending port, the frame's tag and its body. -/
  | enablesSet (port : Port) (tag : Byte) (body : List Byte)
  /-- COUNTERS_READ (R208): the sending port, the frame's tag and its body. -/
  | countersRead (port : Port) (tag : Byte) (body : List Byte)
  /-- COUNTERS_CLEAR (R209): the sending port, the frame's tag and its body. -/
  | countersClear (port : Port) (tag : Byte) (body : List Byte)
  /-- SITE_RESET (R210): the sending port, the frame's tag and its body. -/
  | siteReset (port : Port) (tag : Byte) (body : List Byte)
  /-- POINT_STATUS (R18): the sending port, the frame's tag and its body. -/
  | pointStatus (port : Port) (tag : Byte) (body : List Byte)
  /-- HEAD_RESTORE (R6): the sending port, the frame's tag and its body. -/
  | headRestore (port : Port) (tag : Byte) (body : List Byte)
  /-- PASSAGE_STATUS (R44): the sending port, the frame's tag and its body. -/
  | passageStatus (port : Port) (tag : Byte) (body : List Byte)
  /-- ROSTER_READ (R67): the sending port, the frame's tag and its body. -/
  | rosterRead (port : Port) (tag : Byte) (body : List Byte)
  /-- VEHICLE_READ (R68): the sending port, the frame's tag and its body. -/
  | vehicleRead (port : Port) (tag : Byte) (body : List Byte)
  /-- MODULE_STATUS (R91): the sending port, the frame's tag and its body. -/
  | moduleStatus (port : Port) (tag : Byte) (body : List Byte)
  /-- CRITERION_READ (R128): the sending port, the frame's tag and its body. -/
  | criterionRead (port : Port) (tag : Byte) (body : List Byte)
  /-- CRITERION_WRITE (R129): the sending port, the frame's tag and its body. -/
  | criterionWrite (port : Port) (tag : Byte) (body : List Byte)
  /-- TRAIN_LIST (R152): the sending port, the frame's tag and its body. -/
  | trainList (port : Port) (tag : Byte) (body : List Byte)
  /-- TRAIN_READ (R153): the sending port, the frame's tag and its body. -/
  | trainRead (port : Port) (tag : Byte) (body : List Byte)
  /-- TRAIN_HOLD (R158): the sending port, the frame's tag and its body. -/
  | trainHold (port : Port) (tag : Byte) (body : List Byte)
  /-- TRAIN_RELEASE (R159): the sending port, the frame's tag and its body. -/
  | trainRelease (port : Port) (tag : Byte) (body : List Byte)
  /-- TRAIN_RESOLVE (R160): the sending port, the frame's tag and its body. -/
  | trainResolve (port : Port) (tag : Byte) (body : List Byte)
  /-- TRAIN_RETIRE (R163): the sending port, the frame's tag and its body. -/
  | trainRetire (port : Port) (tag : Byte) (body : List Byte)
  /-- WATCH_FIND (R181): the sending port, the frame's tag and its body. -/
  | watchFind (port : Port) (tag : Byte) (body : List Byte)
  /-- WATCH_SCAN (R182): the sending port, the frame's tag and its body. -/
  | watchScan (port : Port) (tag : Byte) (body : List Byte)
  /-- WATCH_ENROL (R183): the sending port, the frame's tag and its body. -/
  | watchEnrol (port : Port) (tag : Byte) (body : List Byte)
  /-- WATCH_AMEND (R184): the sending port, the frame's tag and its body. -/
  | watchAmend (port : Port) (tag : Byte) (body : List Byte)
  /-- WATCH_RETIRE (R185): the sending port, the frame's tag and its body. -/
  | watchRetire (port : Port) (tag : Byte) (body : List Byte)
  /-- WATCH_HOLD (R173): the sending port, the frame's tag and its body. -/
  | watchHold (port : Port) (tag : Byte) (body : List Byte)
  /-- WATCH_RELEASE (R178): the sending port, the frame's tag and its body. -/
  | watchRelease (port : Port) (tag : Byte) (body : List Byte)
  /-- SWEEP_NOW (R188): the sending port, the frame's tag and its body. -/
  | sweepNow (port : Port) (tag : Byte) (body : List Byte)
  /-- CLOCK_READ (R214): the sending port, the frame's tag and its body. -/
  | clockRead (port : Port) (tag : Byte) (body : List Byte)
  /-- CLOCK_SET (R215): the sending port, the frame's tag and its body. -/
  | clockSet (port : Port) (tag : Byte) (body : List Byte)
  /-- SETTING_READ (R218): the sending port, the frame's tag and its body. -/
  | settingRead (port : Port) (tag : Byte) (body : List Byte)
  /-- SETTING_WRITE (R219): the sending port, the frame's tag and its body. -/
  | settingWrite (port : Port) (tag : Byte) (body : List Byte)
  /-- STORE_SAVE (R223): the sending port, the frame's tag and its body. -/
  | storeSave (port : Port) (tag : Byte) (body : List Byte)
  /-- STORE_RETRY (R222): the sending port, the frame's tag and its body. -/
  | storeRetry (port : Port) (tag : Byte) (body : List Byte)
  /-- RSTN_LOW_OR_POWER_LOSS (R224). -/
  | rstnLowOrPowerLoss
  /-- MODULE_FRAME_DISCARD (R70): the line, and what is wrong with the frame. -/
  | moduleFrameDiscard (line : Fin 8) (what : ModuleDiscard)
  deriving DecidableEq, Repr

end Sys2Proof
end

