-- ==== Sys2Proof/Machine/Codes.lean ====
section
/-! DEFINITION. The codes of named values (R195: "0 for the first value in the list that defines the field, 1 for the next, and
so on"), the bits of sets (R146, R195, R204), the numbers of settings (R217) and the request catalogue (chapter 10). -/

namespace Sys2Proof

/-- Bit of a cause in a cause set: its place in R146's table (R195). -/
def Cause.bit : Cause → Nat
  | .unannounced => 0
  | .lateArm => 1
  | .lateModule => 2
  | .openedLate => 3
  | .directionMismatch => 4
  | .opposingApproach => 5
  | .gateSubstituted => 6
  | .gateCountFault => 7
  | .countUnchecked => 8
  | .standstill => 9
  | .rollback => 10
  | .rosterFull => 11
  | .vehicleFull => 12
  | .groupingLimit => 13
  | .groupingUncertain => 14
  | .tagConflict => 15
  | .moduleMissing => 16
  | .orphanReports => 17
  | .clockUnset => 18
  | .clockChanged => 19
  | .findingsOverflow => 20
  | .deferredPresent => 21

/-- Bit of a flag (R204). -/
def Flag.bit : Flag → Nat
  | .trainClosed => 0
  | .gradeAlarm => 1
  | .deferredWaiting => 2
  | .recordLost => 3
  | .headCutOff => 4
  | .gatesOut => 5
  | .moduleMissing => 6
  | .moduleSuspect => 7
  | .opposingApproach => 8
  | .watchRaised => 9
  | .watchEscalated => 10
  | .watchFull => 11
  | .leaseExpired => 12
  | .sweepDone => 13
  | .storeFault => 14
  | .settingsDefaulted => 15
  | .storeEntryLost => 16
  | .clockUnset => 17

/-- Bit of a point in the check set (R44, R195). -/
def PointId.bit : PointId → Nat
  | .pa => 0
  | .ga => 1
  | .gb => 2
  | .pb => 3

/-- Code of a direction (R18, R44). -/
def Dir.code : Dir → Nat
  | .ab => 0
  | .ba => 1

/-- Code of a head level (R18). -/
def Level.code : Level → Nat
  | .occupied => 0
  | .clear => 1

/-- Code of a head's health (R18). -/
def HeadHealth.code : HeadHealth → Nat
  | .inService => 0
  | .standing => 1
  | .cutOff => 2

/-- Code of a point's condition (R18). -/
def Condition.code : Condition → Nat
  | .normal => 0
  | .degraded => 1
  | .out => 2

/-- Code of a crossing machine's state (R18). -/
def CrossState.code : CrossState → Nat
  | .idle => 0
  | .lead1 => 1
  | .over1 => 2
  | .trail1 => 3
  | .lead2 => 4
  | .over2 => 5
  | .trail2 => 6
  | .settling => 7

/-- Code of the passage state (R44, R203). -/
def PassagePhase.code : PassagePhase → Nat
  | .idle => 0
  | .arming => 1
  | .armed => 2
  | .inPassage => 3
  | .standstill => 4
  | .clearing => 5

/-- Code of an outcome (R145; R44 lists the first two). -/
def PassageOutcome.code : PassageOutcome → Nat
  | .complete => 0
  | .withdrawn => 1
  | .timedOut => 2

/-- Code of a counting gate (R44). -/
def Gate.code : Gate → Nat
  | .ga => 0
  | .gb => 1

/-- Code of an entry's state (R67). -/
def EntryState.code : EntryState → Nat
  | .present => 0
  | .retracted => 1

/-- Code of a gap class (R67). -/
def GapClass.code : GapClass → Nat
  | .bogie => 0
  | .coupling => 1
  | .body => 2
  | .unknown => 3

/-- Code of a vehicle's state (R68). -/
def VehicleState.code : VehicleState → Nat
  | .opened => 0
  | .closed => 1

/-- Code of a tag state (R68). -/
def TagState.code : TagState → Nat
  | .untagged => 0
  | .single => 1
  | .confirmed => 2
  | .conflict => 3

/-- Code of an orientation (R68). -/
def Orientation.code : Orientation → Nat
  | .end1Leading => 0
  | .end2Leading => 1
  | .unknown => 2

/-- Code and rank of a watch level (R68, R166; conventions). -/
def WatchLevel.code : WatchLevel → Nat
  | .observe => 0
  | .restrict => 1
  | .withdraw => 2

/-- The watch level a byte names (R183, R184). -/
def WatchLevel.ofCode : Nat → Option WatchLevel
  | 0 => some .observe
  | 1 => some .restrict
  | 2 => some .withdraw
  | _ => none

/-- Code and rank of a grade: the whole grade scale (R195; conventions). -/
def Grade.code : Grade → Nat
  | .clear => 0
  | .note => 1
  | .caution => 2
  | .alarm => 3
  | .stop => 4

/-- The grade a byte names (R160, R195). -/
def Grade.ofCode : Nat → Option Grade
  | 0 => some .clear
  | 1 => some .note
  | 2 => some .caution
  | 3 => some .alarm
  | 4 => some .stop
  | _ => none

/-- The reason byte of an unmeasured value (R195). -/
def Reason.code : Reason → Nat
  | .notFitted => 1
  | .missing => 2
  | .outOfBand => 3
  | .tooFew => 4
  | .noAmbient => 5
  | .partialItem => 6
  | .retracted => 7

/-- Code of a quality (R67). -/
def Quality.code : Quality → Nat
  | .good => 0
  | .noisy => 1
  | .clipped => 2
  | .failed => 3

/-- Code of a module kind in MODULE_STATUS (R91). -/
def ModuleKind.code : ModuleKind → Nat
  | .bay => 0
  | .scanner => 1
  | .tagReader => 2
  | .ambientUnit => 3

/-- Module kind byte of a frame (R69). -/
def ModuleKind.frameByte : ModuleKind → Nat
  | .bay => 1
  | .scanner => 2
  | .tagReader => 3
  | .ambientUnit => 4

/-- Code of an arming state (R91). -/
def Arming.code : Arming → Nat
  | .idle => 0
  | .arming => 1
  | .ready => 2
  | .missing => 3
  | .notFitted => 4

/-- Code of a module's health (R91). -/
def ModuleHealth.code : ModuleHealth → Nat
  | .inService => 0
  | .suspect => 1

/-- Code of a last-close outcome (R91). -/
def LastClose.code : LastClose → Nat
  | .ready => 0
  | .missing => 1
  | .notFitted => 2

/-- Code of a quantity: its place in R127's table. -/
def QuantityName.code : QuantityName → Nat
  | .wheelLoad => 0
  | .wheelImpact => 1
  | .impactExcess => 2
  | .impactRatio => 3
  | .bearingTemp => 4
  | .bearingRise => 5
  | .axleLoad => 6
  | .axleSideSplit => 7
  | .bearingCross => 8
  | .bearingTrainExcess => 9
  | .vehicleLoad => 10
  | .vehicleEndSplit => 11
  | .vehicleSideSplit => 12
  | .trainLoad => 13
  | .trainSpeed => 14

/-- The quantity a byte names (R129). -/
def QuantityName.ofCode : Nat → Option QuantityName
  | 0 => some .wheelLoad
  | 1 => some .wheelImpact
  | 2 => some .impactExcess
  | 3 => some .impactRatio
  | 4 => some .bearingTemp
  | 5 => some .bearingRise
  | 6 => some .axleLoad
  | 7 => some .axleSideSplit
  | 8 => some .bearingCross
  | 9 => some .bearingTrainExcess
  | 10 => some .vehicleLoad
  | 11 => some .vehicleEndSplit
  | 12 => some .vehicleSideSplit
  | 13 => some .trainLoad
  | 14 => some .trainSpeed
  | _ => none

/-- Code of a predicate (R126). -/
def Predicate.code : Predicate → Nat
  | .ge => 0
  | .gt => 1
  | .le => 2
  | .lt => 3

/-- The predicate a byte names (R129). -/
def Predicate.ofCode : Nat → Option Predicate
  | 0 => some .ge
  | 1 => some .gt
  | 2 => some .le
  | 3 => some .lt
  | _ => none

/-- Code of an unmeasured treatment (R126). -/
def Treatment.code : Treatment → Nat
  | .ignore => 0
  | .meet => 1
  | .defer => 2

/-- The unmeasured treatment a byte names (R129). -/
def Treatment.ofCode : Nat → Option Treatment
  | 0 => some .ignore
  | 1 => some .meet
  | 2 => some .defer
  | _ => none

/-- Code of a threshold kind (R135). -/
def ThresholdKind.code : ThresholdKind → Nat
  | .normal => 0
  | .watched => 1

/-- Code of a finding's state (R135). -/
def FindingState.code : FindingState → Nat
  | .final => 0
  | .deferred => 1
  | .resolved => 2

/-- Code of an index basis (R135). -/
def IndexBasis.code : IndexBasis → Nat
  | .fromEnd1 => 0
  | .fromLeading => 1

/-- Code of a side (R135). -/
def Side.code : Side → Nat
  | .s1 => 0
  | .s2 => 1

/-- A rail's number (R135: values 1, 2). -/
def Rail.number : Rail → Nat
  | .one => 1
  | .two => 2

/-- A vehicle end's number (R68: values 1, 2). -/
def VehicleEnd.number : VehicleEnd → Nat
  | .one => 1
  | .two => 2

/-- Code of a port as a present holder (R166). -/
def Port.code : Port → Nat
  | .siteLink => 0
  | .servicePort => 1

/-- Code of an origin (R166). -/
def Origin.code : Origin → Nat
  | .enrolled => 0
  | .raised => 1

/-- Code of the sweep state (R182, R203). -/
def SweepState.code : SweepState → Nat
  | .idle => 0
  | .running => 1
  | .suspended => 2

/-- Code of the store state (R203, R222). -/
def StoreState.code : StoreState → Nat
  | .online => 0
  | .offline => 1

/-- Code of a status (R201). -/
def Status.code : Status → Nat
  | .ok => 0
  | .busy => 1
  | .notReady => 2
  | .unknownRequest => 3
  | .badLength => 4
  | .badValue => 5
  | .denied => 6
  | .notFound => 7
  | .exists => 8
  | .stale => 9
  | .heldByOther => 10
  | .notHeld => 11
  | .holdLimit => 12
  | .full => 13
  | .notClosed => 14
  | .wrongState => 15
  | .storeOffline => 16

/-- Code of a slot's state: FREE, OPEN, CLOSING, CLOSED (R144, R152, R203). -/
def slotStateCode : Option RecordPhase → Nat
  | none => 0
  | some .opened => 1
  | some .closing => 2
  | some .closed => 3

/-- Place of a setting in the settings block: its name number less one (R217). -/
def Setting.index : Setting → Fin 30
  | .stuckLimit => 0
  | .quietPeriod => 1
  | .gaHeadSpacing => 2
  | .gbHeadSpacing => 3
  | .armLimit => 4
  | .armTimeout => 5
  | .standstillTime => 6
  | .clearTime => 7
  | .passageLimit => 8
  | .bogieGapMax => 9
  | .couplingGapMax => 10
  | .readerLag => 11
  | .modulesFitted => 12
  | .loadSpeedMin => 13
  | .loadSpeedMax => 14
  | .minGoodBays => 15
  | .heatSpeedMin => 16
  | .heatSpeedMax => 17
  | .trainMeanMin => 18
  | .holdLease => 19
  | .escalateCount => 20
  | .clearRun => 21
  | .riseTrendStep => 22
  | .impactTrendStep => 23
  | .admissionReserve => 24
  | .forgetSweeps => 25
  | .serviceWrites => 26
  | .clockTrim => 27
  | .sweepTime => 28
  | .sweepDays => 29

/-- The setting a name number names (R217 to R219). -/
def Setting.ofCode : Nat → Option Setting
  | 1 => some .stuckLimit
  | 2 => some .quietPeriod
  | 3 => some .gaHeadSpacing
  | 4 => some .gbHeadSpacing
  | 5 => some .armLimit
  | 6 => some .armTimeout
  | 7 => some .standstillTime
  | 8 => some .clearTime
  | 9 => some .passageLimit
  | 10 => some .bogieGapMax
  | 11 => some .couplingGapMax
  | 12 => some .readerLag
  | 13 => some .modulesFitted
  | 14 => some .loadSpeedMin
  | 15 => some .loadSpeedMax
  | 16 => some .minGoodBays
  | 17 => some .heatSpeedMin
  | 18 => some .heatSpeedMax
  | 19 => some .trainMeanMin
  | 20 => some .holdLease
  | 21 => some .escalateCount
  | 22 => some .clearRun
  | 23 => some .riseTrendStep
  | 24 => some .impactTrendStep
  | 25 => some .admissionReserve
  | 26 => some .forgetSweeps
  | 27 => some .serviceWrites
  | 28 => some .clockTrim
  | 29 => some .sweepTime
  | 30 => some .sweepDays
  | _ => none

/-- Kind code of a request (request catalogue). -/
def RequestKind.code : RequestKind → Byte
  | .identify => 0x01#8
  | .status => 0x02#8
  | .flagsClear => 0x03#8
  | .enablesSet => 0x04#8
  | .countersRead => 0x05#8
  | .countersClear => 0x06#8
  | .siteReset => 0x07#8
  | .pointStatus => 0x10#8
  | .headRestore => 0x11#8
  | .passageStatus => 0x18#8
  | .rosterRead => 0x20#8
  | .vehicleRead => 0x21#8
  | .moduleStatus => 0x28#8
  | .criterionRead => 0x30#8
  | .criterionWrite => 0x31#8
  | .trainList => 0x40#8
  | .trainRead => 0x41#8
  | .trainHold => 0x42#8
  | .trainRelease => 0x43#8
  | .trainResolve => 0x44#8
  | .trainRetire => 0x45#8
  | .watchFind => 0x50#8
  | .watchScan => 0x51#8
  | .watchEnrol => 0x52#8
  | .watchAmend => 0x53#8
  | .watchRetire => 0x54#8
  | .watchHold => 0x55#8
  | .watchRelease => 0x56#8
  | .sweepNow => 0x57#8
  | .clockRead => 0x60#8
  | .clockSet => 0x61#8
  | .settingRead => 0x62#8
  | .settingWrite => 0x63#8
  | .storeSave => 0x64#8
  | .storeRetry => 0x65#8

/-- Privilege class of a request (request catalogue; R200 makes a SETTING_WRITE of SERVICE_WRITES of the site class). -/
def RequestKind.privilege : RequestKind → Privilege
  | .identify => .read
  | .status => .read
  | .flagsClear => .site
  | .enablesSet => .site
  | .countersRead => .read
  | .countersClear => .site
  | .siteReset => .site
  | .pointStatus => .read
  | .headRestore => .write
  | .passageStatus => .read
  | .rosterRead => .read
  | .vehicleRead => .read
  | .moduleStatus => .read
  | .criterionRead => .read
  | .criterionWrite => .write
  | .trainList => .read
  | .trainRead => .read
  | .trainHold => .hold
  | .trainRelease => .hold
  | .trainResolve => .write
  | .trainRetire => .write
  | .watchFind => .read
  | .watchScan => .read
  | .watchEnrol => .write
  | .watchAmend => .write
  | .watchRetire => .write
  | .watchHold => .hold
  | .watchRelease => .hold
  | .sweepNow => .write
  | .clockRead => .read
  | .clockSet => .write
  | .settingRead => .read
  | .settingWrite => .write
  | .storeSave => .site
  | .storeRetry => .write

/-- Least and greatest body length of a request (request catalogue, Body bytes). -/
def RequestKind.bodyBytes : RequestKind → Nat × Nat
  | .identify => (1, 1)
  | .status => (0, 0)
  | .flagsClear => (4, 4)
  | .enablesSet => (4, 4)
  | .countersRead => (0, 0)
  | .countersClear => (0, 0)
  | .siteReset => (0, 0)
  | .pointStatus => (0, 0)
  | .headRestore => (1, 1)
  | .passageStatus => (0, 0)
  | .rosterRead => (8, 8)
  | .vehicleRead => (8, 8)
  | .moduleStatus => (0, 0)
  | .criterionRead => (1, 1)
  | .criterionWrite => (14, 14)
  | .trainList => (0, 0)
  | .trainRead => (8, 8)
  | .trainHold => (4, 4)
  | .trainRelease => (4, 4)
  | .trainResolve => (6, 6)
  | .trainRetire => (4, 4)
  | .watchFind => (9, 9)
  | .watchScan => (4, 4)
  | .watchEnrol => (11, 27)
  | .watchAmend => (8, 24)
  | .watchRetire => (4, 4)
  | .watchHold => (2, 2)
  | .watchRelease => (2, 2)
  | .sweepNow => (0, 0)
  | .clockRead => (0, 0)
  | .clockSet => (8, 8)
  | .settingRead => (1, 1)
  | .settingWrite => (5, 5)
  | .storeSave => (0, 0)
  | .storeRetry => (0, 0)

/-- Every request of the catalogue. -/
def RequestKind.all : List RequestKind :=
  [.identify, .status, .flagsClear, .enablesSet, .countersRead, .countersClear, .siteReset, .pointStatus,
   .headRestore, .passageStatus, .rosterRead, .vehicleRead, .moduleStatus, .criterionRead, .criterionWrite,
   .trainList, .trainRead, .trainHold, .trainRelease, .trainResolve, .trainRetire, .watchFind, .watchScan,
   .watchEnrol, .watchAmend, .watchRetire, .watchHold, .watchRelease, .sweepNow, .clockRead, .clockSet,
   .settingRead, .settingWrite, .storeSave, .storeRetry]

/-- The kind byte is in the catalogue (R199, row 1). -/
def inCatalogue (kind : Byte) : Bool := RequestKind.all.any (fun k => k.code == kind)

end Sys2Proof
end

