-- ==== Sys2Proof/Machine/Factory.lean ====
section
/-! DEFINITION. Ranges and factory values of the settings, the quantities' threshold ranges and the factory criteria (the
settings tables of chapters 1 to 11; R93, R112, R127, R130, R217). -/

namespace Sys2Proof

/-- Range of a setting (settings tables; R217 for the sets). -/
def Setting.range : Setting → Int × Int
  | .stuckLimit => (5, 3600)
  | .quietPeriod => (10, 3600)
  | .gaHeadSpacing => (100, 2000)
  | .gbHeadSpacing => (100, 2000)
  | .armLimit => (2, 60)
  | .armTimeout => (30, 1800)
  | .standstillTime => (5, 600)
  | .clearTime => (2, 120)
  | .passageLimit => (5, 240)
  | .bogieGapMax => (1000, 4000)
  | .couplingGapMax => (1500, 8000)
  | .readerLag => (0, 24)
  | .modulesFitted => (0, 255)
  | .loadSpeedMin => (0, 3000)
  | .loadSpeedMax => (0, 3000)
  | .minGoodBays => (1, 4)
  | .heatSpeedMin => (0, 3000)
  | .heatSpeedMax => (0, 3000)
  | .trainMeanMin => (1, 1024)
  | .holdLease => (10, 3600)
  | .escalateCount => (1, 31)
  | .clearRun => (1, 31)
  | .riseTrendStep => (1, 500)
  | .impactTrendStep => (1, 2000)
  | .admissionReserve => (0, 256)
  | .forgetSweeps => (1, 999)
  | .serviceWrites => (0, 1)
  | .clockTrim => (-255, 255)
  | .sweepTime => (0, 1439)
  | .sweepDays => (0, 127)

/-- The value lies in the setting's own range (R219). -/
def Setting.inRange (n : Setting) (v : Int) : Bool := decide (n.range.1 ≤ v) && decide (v ≤ n.range.2)

/-- The setting belongs to the passage group, latched by R20; the others are live (R217). -/
def Setting.isPassage : Setting → Bool
  | .gaHeadSpacing | .gbHeadSpacing | .armLimit | .armTimeout | .standstillTime | .clearTime | .passageLimit
  | .bogieGapMax | .couplingGapMax | .readerLag | .modulesFitted | .loadSpeedMin | .loadSpeedMax | .minGoodBays
  | .heatSpeedMin | .heatSpeedMax | .trainMeanMin => true
  | .stuckLimit | .quietPeriod | .holdLease | .escalateCount | .clearRun | .riseTrendStep | .impactTrendStep
  | .admissionReserve | .forgetSweeps | .serviceWrites | .clockTrim | .sweepTime | .sweepDays => false

/-- Factory values, by name number (settings tables). -/
def factoryValues : Vector Int 30 :=
  #v[120, 300, 450, 450, 15, 600, 30, 10, 90, 2100,
     4200, 6, 255, 50, 900, 2, 80, 1400, 8, 300,
     2, 5, 50, 200, 32, 180, 0, 0, 180, 127]

/-- Scope of a quantity (R127). -/
def QuantityName.scope : QuantityName → Scope
  | .wheelLoad | .wheelImpact | .impactExcess | .impactRatio | .bearingTemp | .bearingRise => .wheel
  | .axleLoad | .axleSideSplit | .bearingCross | .bearingTrainExcess => .axle
  | .vehicleLoad | .vehicleEndSplit | .vehicleSideSplit => .vehicle
  | .trainLoad | .trainSpeed => .train

/-- Threshold range of a quantity (R127). -/
def QuantityName.range : QuantityName → Int × Int
  | .wheelLoad | .wheelImpact | .impactExcess | .impactRatio => (0, 10000)
  | .bearingTemp => (-600, 2500)
  | .bearingRise => (-3100, 3100)
  | .axleLoad => (0, 20000)
  | .axleSideSplit => (0, 1000)
  | .bearingCross => (0, 3100)
  | .bearingTrainExcess => (-3100, 3100)
  | .vehicleLoad => (0, 20480000)
  | .vehicleEndSplit | .vehicleSideSplit => (0, 1000)
  | .trainLoad => (0, 20480000)
  | .trainSpeed => (0, 3000)

/-- The threshold lies in the quantity's range (R127, R129). -/
def QuantityName.inRange (q : QuantityName) (v : Int) : Bool := decide (q.range.1 ≤ v) && decide (v ≤ q.range.2)

/-- An enabled factory criterion with predicate GE (R130). -/
def factoryCriterion (q : QuantityName) (normal watched : Int) (g : Grade) (t : Treatment) : Criterion :=
  { enabled := true, quantity := q, predicate := .ge, normal := normal, watched := watched, grade := g, treatment := t }

/-- Entries 14 to 24 of the factory criteria (R130). -/
def spareCriterion : Criterion :=
  { enabled := false, quantity := .wheelLoad, predicate := .ge, normal := 10000, watched := 10000, grade := .note,
    treatment := .ignore }

/-- The factory criteria (R130). -/
def factoryCriteria : Vector Criterion 24 :=
  #v[factoryCriterion .impactExcess 3500 3000 .stop .ignore,
     factoryCriterion .impactExcess 2500 2000 .alarm .ignore,
     factoryCriterion .impactExcess 1500 1200 .caution .ignore,
     factoryCriterion .bearingRise 900 800 .stop .defer,
     factoryCriterion .bearingRise 700 600 .alarm .defer,
     factoryCriterion .bearingRise 500 400 .caution .ignore,
     factoryCriterion .bearingCross 400 300 .caution .ignore,
     factoryCriterion .bearingTrainExcess 350 250 .caution .ignore,
     factoryCriterion .axleLoad 3600 3600 .alarm .ignore,
     factoryCriterion .axleLoad 3250 3250 .caution .ignore,
     factoryCriterion .axleSideSplit 250 200 .caution .ignore,
     factoryCriterion .vehicleEndSplit 300 250 .caution .ignore,
     factoryCriterion .trainSpeed 900 900 .note .ignore,
     spareCriterion, spareCriterion, spareCriterion, spareCriterion, spareCriterion, spareCriterion,
     spareCriterion, spareCriterion, spareCriterion, spareCriterion, spareCriterion]

/-- The settings block at its factory values, with generation number 0 (R126, R224). -/
def factoryBlock : SettingsBlock :=
  { values := factoryValues, criteria := factoryCriteria, generation := 0#16 }

/-- Every setting, in name number order (R217). -/
def Setting.all : List Setting :=
  [.stuckLimit, .quietPeriod, .gaHeadSpacing, .gbHeadSpacing, .armLimit, .armTimeout, .standstillTime, .clearTime,
   .passageLimit, .bogieGapMax, .couplingGapMax, .readerLag, .modulesFitted, .loadSpeedMin, .loadSpeedMax,
   .minGoodBays, .heatSpeedMin, .heatSpeedMax, .trainMeanMin, .holdLease, .escalateCount, .clearRun, .riseTrendStep,
   .impactTrendStep, .admissionReserve, .forgetSweeps, .serviceWrites, .clockTrim, .sweepTime, .sweepDays]

/-- A setting's value in a settings block. -/
def SettingsBlock.get (b : SettingsBlock) (n : Setting) : Int := b.values[n.index]

/-- A settings block with one setting replaced (R219). -/
def SettingsBlock.put (b : SettingsBlock) (n : Setting) (v : Int) : SettingsBlock :=
  { b with values := b.values.set n.index v }

/-- A setting that is never negative, as a number. -/
def SettingsBlock.nat (b : SettingsBlock) (n : Setting) : Nat := (b.get n).toNat

/-- A criterion within its ranges: both thresholds in the quantity's range, a grade above CLEAR (R126, R129). -/
def Criterion.inRange (c : Criterion) : Bool :=
  c.quantity.inRange c.normal && c.quantity.inRange c.watched && c.grade != .clear

/-- Every value of a settings block lies within its range (R225). -/
def SettingsBlock.inRange (b : SettingsBlock) : Bool :=
  Setting.all.all (fun n => n.inRange (b.get n)) && b.criteria.toList.all Criterion.inRange

end Sys2Proof
end

