-- ==== Sys2Proof/Machine/ColdStart.lean ====
section
/-! DEFINITION. The state at the end of the reset that starts a cold start, block by block (R224 and the chapters' "after cold
start"). Values that no rule gives are named in the log (5, 6, 7, 9, 30, 36, 37). -/

namespace Sys2Proof

/-- The clock's first reading: 2000-01-01 00:00:00, weekday 6 (R212). -/
def clockOrigin : DateTime :=
  { year := 2000, month := 1, day := 1, hour := 0, minute := 0, second := 0, weekday := 6 }

/-- A head before the end of loading reads its line (R1; level and time: log 7). -/
def Head.coldStart : Head := { level := .clear, health := .inService, lastChange := 0 }

/-- A point after cold start: machine IDLE, net count 0, no last crossing (R8, R16, R17, R18). -/
def Point.coldStart : Point :=
  { head1 := .coldStart, head2 := .coldStart, machine := .idle, lead := none, interval := none, rocked := false, net := 0,
    spurious := 0#16, last := none }

/-- The point unit after cold start (R16). -/
def PointUnit.coldStart : PointUnit :=
  { pa := .coldStart, ga := .coldStart, gb := .coldStart, pb := .coldStart, direction := none, everSet := false }

/-- Both lines of a point high, the heads clear. -/
def LinePair.bothClear : LinePair := { one := .clear, two := .clear }

/-- All eight head lines high: the model's choice for lines the spec leaves to the world (log 5). -/
def HeadLines.allClear : HeadLines := { pa := .bothClear, ga := .bothClear, gb := .bothClear, pb := .bothClear }

/-- The empty speed tally (R19). -/
def SpeedTally.empty : SpeedTally := { count := 0, sum := 0, least := 0, greatest := 0 }

/-- Every timer of the passage controller stopped (R19). -/
def PassageTimers.stopped : PassageTimers :=
  { arm := none, armTimeout := none, standstill := none, clear := none, limit := none }

/-- The passage controller at rest, with the latched settings and the false-approach counter given (R19). -/
def Passage.atRest (latched : SettingsBlock) (falseApproaches : Counter) : Passage :=
  { phase := .idle, held := false, expected := none, direction := none, serial := none, armedMoment := 0, gate := none,
    checkSet := 0#4, pending := 0#22, latched := latched, lastGate := none, tally := .empty, timers := .stopped,
    outcomeToBe := none, falseApproaches := falseApproaches }

/-- The roster unit after cold start (R45). -/
def RosterUnit.coldStart : RosterUnit :=
  { entries := [], vehicles := [], serial := none, standing := .none, generation := 0#16, net := 0, earlyTags := 0#16,
    lateTags := 0#16, unplacedTags := 0#16, failedReads := 0#16 }

/-- A module line after cold start, with the arming state given (chapter 4, Arming states; R71, R73, R79, R90). -/
def ModuleLine.coldStart (a : Arming) : ModuleLine :=
  { arming := a, health := .inService, lastClose := none, cursor := 0, beyond := 0, expected := 1#16, crcTally := 0#16,
    orphanTally := 0#16, crcErrors := 0#16, malformed := 0#16, stale := 0#16, outOfSequence := 0#16,
    missingReports := 0#16, orphans := 0#16, sendSeq := 1#16, sending := [], receiver := .hunting }

/-- The module line controller after cold start; the factory MODULES_FITTED holds all eight (R72, R73, R78). -/
def ModuleUnit.coldStart : ModuleUnit :=
  { lines := Vector.replicate 8 (ModuleLine.coldStart .idle), passageNumber := none, reversed := false, ambient := none }

/-- A FREE slot with no image behind it (R165, R224; stamp: log 30). -/
def WatchSlot.coldStart : WatchSlot := { entry := none, stamp := 0#32, noticeLink := false, noticeService := false }

/-- The watch table at the start of loading: every slot FREE (R224); the sweep's values before R186 gives them: log 52. -/
def WatchTable.coldStart : WatchTable :=
  { slots := Vector.replicate 512 .coldStart, sweepSerial := 0#16, sweepState := .idle, cursor := 0, startPending := false }

/-- Every site counter of the ports, the train table and the watch table at 0 (R208). -/
def Counts.zero : Counts :=
  { linkFrameErrors := 0#16, linkDropped := 0#16, serviceFrameErrors := 0#16, serviceDropped := 0#16,
    reclaimedUnread := 0#16, deferredAbandoned := 0#16, raisesRefused := 0#16, contributionsDiscarded := 0#16 }

/-- The clock at the end of the reset (R212, R213). -/
def Clock.coldStart : Clock := { reading := clockOrigin, isSet := false, spanSecond := 0, secondLength := 32768 }

/-- The store controller at the start of loading (R220, R224; next stamp and next serial: log 37). -/
def StoreUnit.coldStart : StoreUnit :=
  { state := .online, queue := [], inFlight := none, failures := 0, nextStamp := 1#32, nextSerial := 1#32, waiting := none,
    faults := 0#16, entriesLost := 0#16, loading := .settings, highest := none }

/-- The site at the entry to LOADING (R224), its head lines as the world holds them, the model's count of free values drawn
standing on (log 15). The flag set holds CLOCK_UNSET alone (R204). The working settings are the factory block (R224), and so,
before the end of loading gives them, are the latched ones (log 46). -/
def Site.coldStart (pins : HeadLines) (freeDraws : Nat) : Site :=
  { mode := .loading, now := 0, pins := pins, points := .coldStart, passage := .atRest factoryBlock 0#16,
    roster := .coldStart, modules := .coldStart, settings := factoryBlock, composition := none,
    train := Vector.replicate 4 none, watch := .coldStart, flags := BitVec.twoPow 18 Flag.clockUnset.bit, enables := 0#18,
    counts := .zero, holds := { link := 0, service := 0 }, clock := .coldStart, store := .coldStart,
    freeDraws := freeDraws }

/-- A port line after cold start at the rate its strap gives: high selects 115,200 baud (R193). -/
def PortLine.coldStart (fast : Bool) : PortLine := { fast := fast, receiver := .hunting, answers := [] }

end Sys2Proof
end

