-- ==== Sys2Proof/Config.lean ====
section
/-! DEFINITION. The free values: what the spec leaves unstated while the command goes on. Each is a constant without a body,
so nothing can be proved of its value (log 14 to 17 and 42). -/

namespace Sys2Proof

/-- The passage time shown when more than 4,294,967,295 ms have passed since the armed moment, as a function of those ms.
R19 gives passage time the range 0 to 4,294,967,295 and no value beyond it (log 14). -/
opaque Config.passageTimePast : Nat → BitVec 32

/-- The seconds remaining that PASSAGE_STATUS shows for a timer that is stopped, at the `n`-th such answer. R44 gives none
(log 15). -/
opaque Config.stoppedSeconds : Nat → TimerName → Word16

/-- The next scheduled sweep start that CLOCK_READ shows when, from the reading given, no second of the days and the minute given
comes before the end of 2099. R214 and R216 give none (log 16). -/
opaque Config.sweepPastEnd : DateTime → BitVec 7 → Nat → DateTime

/-- The byte that codes WATCHED_VEHICLE in a finding's kind field. R195 and R135 give none (log 17). -/
opaque Config.watchedVehicleCode : Byte

/-- The bytes of an image that its CRC-16 covers: its contents and its store stamp. R220 names what they hold and no layout
(log 42). -/
opaque Config.imageBytes : ImageContents → Stamp → List Byte

end Sys2Proof
end

