-- ==== Sys2Proof/Machine/Arith.lean ====
section
/-! DEFINITION. Saturating counters, rounding, sets of named values as bits, little-endian bytes and the two CRCs
(conventions; R69, R93, R112, R194, R195). -/

namespace Sys2Proof

/-- A counter raised by one; "a counter at 65,535 stays there" (conventions). -/
def bump (c : Counter) : Counter := if c = 65535#16 then c else c + 1#16

/-- A counter raised by `n`, saturating at 65,535. -/
def bumpBy (n : Nat) (c : Counter) : Counter := BitVec.ofNat 16 (min 65535 (c.toNat + n))

/-- Division rounded to the nearest whole unit, a half rounded towards the higher value (R93, R112). -/
def roundDiv (a b : Int) : Int := (2 * a + b) / (2 * b)

/-- Division rounded up: the whole seconds, or other units, that cover `a`. -/
def ceilDiv (a b : Nat) : Nat := (a + b - 1) / b

/-- Membership of bit `i` in a set coded as bits (R195). -/
def setHas {n : Nat} (s : BitVec n) (i : Nat) : Bool := s.getLsbD i

/-- The set with bit `i` added. -/
def setAdd {n : Nat} (s : BitVec n) (i : Nat) : BitVec n := s ||| BitVec.twoPow n i

/-- The set with bit `i` taken out. -/
def setDrop {n : Nat} (s : BitVec n) (i : Nat) : BitVec n := s &&& ~~~ (BitVec.twoPow n i)

/-- How many of the bits 0 to `k − 1` the set holds. -/
def setCount {n : Nat} (s : BitVec n) : Nat → Nat
  | 0 => 0
  | k + 1 => setCount s k + (if s.getLsbD k then 1 else 0)

/-- `k` bytes of a whole number, low byte first (R69, R194, R195). -/
def leBytes : Nat → Nat → List Byte
  | 0, _ => []
  | k + 1, v => BitVec.ofNat 8 v :: leBytes k (v / 256)

/-- `k` bytes of a signed number in two's complement, low byte first (R195). -/
def leIntBytes (k : Nat) (v : Int) : List Byte := leBytes k (v % (2 ^ (8 * k) : Nat)).toNat

/-- The whole number that bytes spell, low byte first. -/
def leValue : List Byte → Nat
  | [] => 0
  | b :: bs => b.toNat + 256 * leValue bs

/-- The signed number that bytes spell in two's complement, low byte first (R69, R195). -/
def leIntValue (bs : List Byte) : Int :=
  let v := leValue bs
  if 2 * v < 2 ^ (8 * bs.length) then (v : Int) else (v : Int) - (2 ^ (8 * bs.length) : Nat)

/-- `k` bytes of a body from byte `i` on, as a whole number. -/
def natAt (body : List Byte) (i k : Nat) : Nat := leValue ((body.drop i).take k)

/-- `k` bytes of a body from byte `i` on, as a signed number. -/
def intAt (body : List Byte) (i k : Nat) : Int := leIntValue ((body.drop i).take k)

/-- One bit of a CRC-16 division, `b` the message bit, most significant first. -/
def crcBit (poly : Word16) (c : Word16) (b : Bool) : Word16 :=
  if (c.getLsbD 15 ^^ b) then (c <<< 1) ^^^ poly else c <<< 1

/-- One byte of a CRC-16, its bits taken most significant first. -/
def crcByte (poly : Word16) (c : Word16) (b : Byte) : Word16 :=
  [7, 6, 5, 4, 3, 2, 1, 0].foldl (fun acc i => crcBit poly acc (b.getLsbD i)) c

/-- CRC-16 with initial value 0xFFFF and no final inversion (R69, R194). -/
def crc16 (poly : Word16) (bs : List Byte) : Word16 := bs.foldl (crcByte poly) 0xFFFF#16

/-- A list with its element at index `n` changed; unchanged when there is none. -/
def updateAt {α : Type} (f : α → α) : Nat → List α → List α
  | _, [] => []
  | 0, x :: xs => f x :: xs
  | n + 1, x :: xs => x :: updateAt f n xs

/-- A list mapped with the index of each element, counted from `k`. -/
def mapFrom {α β : Type} (f : Nat → α → β) : Nat → List α → List β
  | _, [] => []
  | k, x :: xs => f k x :: mapFrom f (k + 1) xs

theorem mapFrom_length {α β : Type} (f : Nat → α → β) (k : Nat) (xs : List α) : (mapFrom f k xs).length = xs.length := by
  induction xs generalizing k with
  | nil => rfl
  | cons x xs ih => exact congrArg (· + 1) (ih (k + 1))

/-- Every element of a table changed by the same function. -/
def tableMap {α β : Type} {n : Nat} (f : α → β) (v : Vector α n) : Vector β n :=
  ⟨⟨v.toList.map f⟩, by simp⟩

/-- Every element of a table changed by a function of its index. -/
def tableMapIdx {α β : Type} {n : Nat} (f : Nat → α → β) (v : Vector α n) : Vector β n :=
  ⟨⟨mapFrom f 0 v.toList⟩, by simp [mapFrom_length]⟩

/-- The polynomial of the module lines (R69). -/
def modulePoly : Word16 := 0x8005#16

/-- The polynomial of the request ports (R194). -/
def portPoly : Word16 := 0x1021#16

end Sys2Proof
end

