-- ==== Sys2Proof/Machine/Ops.lean ====
section
/-! DEFINITION. The named operations over the site: setters, points and heads, passage time, causes, the store queue, holds, and
the slots of the tables. -/

namespace Sys2Proof

/-- The site with its site state replaced. -/
def Site.setMode (s : Site) (v : SiteMode) : Site := { s with mode := v }

/-- The site with its running time replaced. -/
def Site.setNow (s : Site) (v : Nat) : Site := { s with now := v }

/-- The site with its head lines replaced. -/
def Site.setPins (s : Site) (v : HeadLines) : Site := { s with pins := v }

/-- The site with its point unit replaced. -/
def Site.setPoints (s : Site) (v : PointUnit) : Site := { s with points := v }

/-- The site with its passage controller replaced. -/
def Site.setPassage (s : Site) (v : Passage) : Site := { s with passage := v }

/-- The site with its roster unit replaced. -/
def Site.setRoster (s : Site) (v : RosterUnit) : Site := { s with roster := v }

/-- The site with its module line controller replaced. -/
def Site.setModules (s : Site) (v : ModuleUnit) : Site := { s with modules := v }

/-- The site with its settings block replaced. -/
def Site.setSettings (s : Site) (v : SettingsBlock) : Site := { s with settings := v }

/-- The site with its composition in flight replaced. -/
def Site.setComposition (s : Site) (v : Option Composition) : Site := { s with composition := v }

/-- The site with its train table replaced. -/
def Site.setTrain (s : Site) (v : Vector (Option TrainRecord) 4) : Site := { s with train := v }

/-- The site with its watch table replaced. -/
def Site.setWatch (s : Site) (v : WatchTable) : Site := { s with watch := v }

/-- The site with its flag set replaced. -/
def Site.setFlags (s : Site) (v : BitVec 18) : Site := { s with flags := v }

/-- The site with its enable set replaced. -/
def Site.setEnables (s : Site) (v : BitVec 18) : Site := { s with enables := v }

/-- The site with its site counters of ports and tables replaced. -/
def Site.setCounts (s : Site) (v : Counts) : Site := { s with counts := v }

/-- The site with its hold counts replaced. -/
def Site.setHolds (s : Site) (v : HoldCounts) : Site := { s with holds := v }

/-- The site with its clock replaced. -/
def Site.setClock (s : Site) (v : Clock) : Site := { s with clock := v }

/-- The site with its store controller replaced. -/
def Site.setStore (s : Site) (v : StoreUnit) : Site := { s with store := v }

/-- The site with the model's count of free values drawn replaced (log 15). -/
def Site.setFreeDraws (s : Site) (v : Nat) : Site := { s with freeDraws := v }

/-! ### Points and heads -/

/-- The line of a head (R1). -/
def HeadLines.pair (l : HeadLines) : PointId → LinePair
  | .pa => l.pa
  | .ga => l.ga
  | .gb => l.gb
  | .pb => l.pb

/-- The level of a head's line (R1). -/
def HeadLines.level (l : HeadLines) (h : HeadId) : Level :=
  match h.no with
  | .one => (l.pair h.point).one
  | .two => (l.pair h.point).two

/-- A pair of lines with one level changed. -/
def LinePair.put (p : LinePair) (n : HeadNo) (v : Level) : LinePair :=
  match n with
  | .one => { p with one := v }
  | .two => { p with two := v }

/-- The head lines with one level changed. -/
def HeadLines.put (l : HeadLines) (h : HeadId) (v : Level) : HeadLines :=
  match h.point with
  | .pa => { l with pa := l.pa.put h.no v }
  | .ga => { l with ga := l.ga.put h.no v }
  | .gb => { l with gb := l.gb.put h.no v }
  | .pb => { l with pb := l.pb.put h.no v }

/-- Heads 1 to 8 by number: heads 1 and 2 of PA, of GA, of GB, of PB (R1). -/
def HeadId.ofNumber : Nat → Option HeadId
  | 1 => some ⟨.pa, .one⟩
  | 2 => some ⟨.pa, .two⟩
  | 3 => some ⟨.ga, .one⟩
  | 4 => some ⟨.ga, .two⟩
  | 5 => some ⟨.gb, .one⟩
  | 6 => some ⟨.gb, .two⟩
  | 7 => some ⟨.pb, .one⟩
  | 8 => some ⟨.pb, .two⟩
  | _ => none

/-- The eight heads in track order (R1). -/
def HeadId.all : List HeadId :=
  [⟨.pa, .one⟩, ⟨.pa, .two⟩, ⟨.ga, .one⟩, ⟨.ga, .two⟩, ⟨.gb, .one⟩, ⟨.gb, .two⟩, ⟨.pb, .one⟩, ⟨.pb, .two⟩]

/-- The four points in track order. -/
def PointId.all : List PointId := [.pa, .ga, .gb, .pb]

/-- A point of the point unit. -/
def PointUnit.get (u : PointUnit) : PointId → Point
  | .pa => u.pa
  | .ga => u.ga
  | .gb => u.gb
  | .pb => u.pb

/-- The point unit with one point replaced. -/
def PointUnit.put (u : PointUnit) (p : PointId) (v : Point) : PointUnit :=
  match p with
  | .pa => { u with pa := v }
  | .ga => { u with ga := v }
  | .gb => { u with gb := v }
  | .pb => { u with pb := v }

/-- A head of a point. -/
def Point.head (p : Point) : HeadNo → Head
  | .one => p.head1
  | .two => p.head2

/-- A point with one head replaced. -/
def Point.putHead (p : Point) (n : HeadNo) (h : Head) : Point :=
  match n with
  | .one => { p with head1 := h }
  | .two => { p with head2 := h }

/-- The condition of a point (R7). -/
def Point.condition (p : Point) : Condition :=
  match p.head1.health == .cutOff, p.head2.health == .cutOff with
  | false, false => .normal
  | true, true => .out
  | _, _ => .degraded

/-- A point of the site. -/
def Site.point (s : Site) (p : PointId) : Point := s.points.get p

/-- The site with one point replaced. -/
def Site.putPoint (s : Site) (p : PointId) (v : Point) : Site := s.setPoints (s.points.put p v)

/-- The point is OUT (R7). -/
def Site.isOut (s : Site) (p : PointId) : Bool := (s.point p).condition == .out

/-- The gate point a gate is. -/
def Gate.point : Gate → PointId
  | .ga => .ga
  | .gb => .gb

/-- The gate a point is, if it is one. -/
def PointId.gate : PointId → Option Gate
  | .ga => some .ga
  | .gb => some .gb
  | .pa | .pb => none

/-- The other direction. -/
def Dir.flip : Dir → Dir
  | .ab => .ba
  | .ba => .ab

/-- The inward direction of a point: AB for PA and GA, BA for GB and PB (R13). -/
def PointId.inward : PointId → Dir
  | .pa | .ga => .ab
  | .gb | .pb => .ba

/-- The upstream approach of a direction (R19). -/
def Dir.upstream : Dir → PointId
  | .ab => .pa
  | .ba => .pb

/-- The far approach of a direction (R19). -/
def Dir.farApproach : Dir → PointId
  | .ab => .pb
  | .ba => .pa

/-- The gate a train in this direction reaches first (R19). -/
def Dir.entryGate : Dir → Gate
  | .ab => .ga
  | .ba => .gb

/-- The gate a train in this direction reaches second (R19). -/
def Dir.exitGate : Dir → Gate
  | .ab => .gb
  | .ba => .ga

/-! ### Passage state -/

/-- A passage is open while the state is IN_PASSAGE, STANDSTILL or CLEARING (chapters 1 and 2). -/
def PassagePhase.isOpen : PassagePhase → Bool
  | .inPassage | .standstill | .clearing => true
  | .idle | .arming | .armed => false

/-- A passage is open (chapter 1). -/
def Site.passageOpen (s : Site) : Bool := s.passage.phase.isOpen

/-- A composition is in flight (R43, R132). -/
def Site.composing (s : Site) : Bool := s.composition.isSome

/-- Seconds on the running time base, in its units of 0.1 ms (R1). -/
def seconds (n : Nat) : Nat := 10000 * n

/-- At least `limit` has passed since `start`. -/
def elapsed (now start limit : Nat) : Bool := decide (start + limit ≤ now)

/-- A working setting (R217). -/
def Site.setting (s : Site) (n : Setting) : Nat := s.settings.nat n

/-- A latched passage setting (R20). -/
def Site.latchedSetting (s : Site) (n : Setting) : Nat := s.passage.latched.nat n

/-- A module is in the latched MODULES_FITTED; line n is module n + 1 (R73, R217; log 32). -/
def Site.fitted (s : Site) (n : Nat) : Bool :=
  (BitVec.ofNat 8 (s.latchedSetting .modulesFitted)).getLsbD n

/-- The passage's serial, or 0 while none is held. -/
def Passage.serialOrZero (p : Passage) : Serial := p.serial.getD 0#32

/-- Passage time at an instant: ms since the armed moment, rounded down (R19); past its range a free value (log 14). -/
def Site.passageTime (s : Site) : BitVec 32 :=
  let ms := (s.now - s.passage.armedMoment) / 10
  if ms < 2 ^ 32 then BitVec.ofNat 32 ms else Config.passageTimePast ms

/-- The net count of the counting gate; 0 with no counting gate (R44). -/
def Site.gateNet (s : Site) : Nat :=
  match s.passage.gate with
  | some g => (s.point g.point).net
  | none => 0

/-! ### Causes -/

/-- A cause added to the pending causes (R19). -/
def Site.addPending (s : Site) (c : Cause) : Site :=
  s.setPassage { s.passage with pending := setAdd s.passage.pending c.bit }

/-- A record with a cause added when it is OPEN. -/
def addCauseWhenOpen (c : Cause) : Option TrainRecord → Option TrainRecord
  | some r => if r.phase = .opened then some { r with causes := setAdd r.causes c.bit } else some r
  | none => none

/-- A cause added straight to the OPEN record's cause set (R27). -/
def Site.addRecordCause (s : Site) (c : Cause) : Site := s.setTrain (tableMap (addCauseWhenOpen c) s.train)

/-- A record is OPEN (R27: exactly while the passage is open). -/
def Site.recordOpen (s : Site) : Bool := s.train.toList.any (fun r => r.any (fun r => r.phase == .opened))

/-- A cause added to the record's cause set when a record is OPEN, and to the pending causes otherwise (R74, R84). -/
def Site.addCause (s : Site) (c : Cause) : Site :=
  if s.recordOpen then s.addRecordCause c else s.addPending c

/-! ### Store queue -/

/-- A change to an item: marked when it is in flight, left when queued, else placed at the tail (R220). -/
def StoreUnit.enqueue (u : StoreUnit) (i : StoreItem) : StoreUnit :=
  match u.inFlight with
  | some w =>
    if w.item = i then { u with inFlight := some { w with changed := true } }
    else if i ∈ u.queue then u
    else { u with queue := u.queue ++ [i] }
  | none => if i ∈ u.queue then u else { u with queue := u.queue ++ [i] }

/-- An item queued with the store controller (R220). -/
def Site.enqueue (s : Site) (i : StoreItem) : Site := s.setStore (s.store.enqueue i)

/-! ### Holds -/

/-- A port's hold count (R157). -/
def HoldCounts.get (h : HoldCounts) : Port → Nat
  | .siteLink => h.link
  | .servicePort => h.service

/-- A port's hold count raised by one. -/
def HoldCounts.inc (h : HoldCounts) : Port → HoldCounts
  | .siteLink => { h with link := h.link + 1 }
  | .servicePort => { h with service := h.service + 1 }

/-- A port's hold count lowered by one. -/
def HoldCounts.dec (h : HoldCounts) : Port → HoldCounts
  | .siteLink => { h with link := h.link - 1 }
  | .servicePort => { h with service := h.service - 1 }

/-- A port gains a hold. -/
def Site.gainHold (s : Site) (p : Port) : Site := s.setHolds (s.holds.inc p)

/-- A port loses a hold: each end lowers the count by one (R157). -/
def Site.loseHold (s : Site) (p : Port) : Site := s.setHolds (s.holds.dec p)

/-- A hold taken or renewed now: its lease lies HOLD_LEASE after this moment (R157). -/
def Site.newHold (s : Site) (p : Port) : Hold := { port := p, expiry := s.now + seconds (s.setting .holdLease) }

/-- Lease remaining in seconds, rounded up (R152 for TRAIN_LIST; elsewhere the model's choice: log 51). -/
def Site.leaseLeft (s : Site) (h : Hold) : Nat := ceilDiv (h.expiry - s.now) 10000

/-! ### Train slots, watch slots, module lines -/

/-- The record in a train slot. -/
def Site.recordAt (s : Site) (i : Fin 4) : Option TrainRecord := s.train[i]

/-- The site with a train slot replaced. -/
def Site.putRecord (s : Site) (i : Fin 4) (r : Option TrainRecord) : Site := s.setTrain (s.train.set i r)

/-- The four train slots in order. -/
def slotIds : List (Fin 4) := [0, 1, 2, 3]

/-- The slot whose record has the serial (R153). -/
def Site.findRecord (s : Site) (n : Serial) : Option (Fin 4) :=
  slotIds.find? (fun i => (s.recordAt i).any (fun r => r.serial == n))

/-- A watch slot. -/
def Site.watchSlot (s : Site) (i : Fin 512) : WatchSlot := s.watch.slots[i]

/-- The site with a watch slot replaced. -/
def Site.putWatchSlot (s : Site) (i : Fin 512) (w : WatchSlot) : Site :=
  s.setWatch { s.watch with slots := s.watch.slots.set i w }

/-- The entry of a watch slot, if LIVE (R165). -/
def Site.watchEntry (s : Site) (i : Fin 512) : Option WatchEntry := (s.watchSlot i).entry

/-- The numbers of the 512 watch slots in order. -/
def watchIds : List (Fin 512) := List.finRange 512

/-- The slot of the LIVE entry with the key (R167). -/
def Site.findKey (s : Site) (k : WatchKey) : Option (Fin 512) :=
  watchIds.find? (fun i => (s.watchEntry i).any (fun e => e.key == k))

/-- The lowest-numbered FREE slot (R165). -/
def Site.lowestFree (s : Site) : Option (Fin 512) := watchIds.find? (fun i => (s.watchEntry i).isNone)

/-- The number of FREE slots (R165). -/
def Site.freeCount (s : Site) : Nat := s.watch.slots.toList.countP (fun w => w.entry.isNone)

/-- A module line; index n is line n + 1. -/
def Site.line (s : Site) (n : Fin 8) : ModuleLine := s.modules.lines[n]

/-- The site with a module line replaced. -/
def Site.putLine (s : Site) (n : Fin 8) (l : ModuleLine) : Site :=
  s.setModules { s.modules with lines := s.modules.lines.set n l }

end Sys2Proof
end

