-- ==== Sys2Proof/Machine/Flags.lean ====
section
/-! DEFINITION. Flags, enables and the attention line (R204 to R207). -/

namespace Sys2Proof

/-- A flag set; setting a flag already set leaves the set as it was (R204). -/
def Site.raise (s : Site) (f : Flag) : Site := s.setFlags (setAdd s.flags f.bit)

/-- A flag set when a condition holds. -/
def Site.raiseIf (s : Site) (b : Bool) (f : Flag) : Site := if b then s.raise f else s

/-- The flag is set. -/
def Site.hasFlag (s : Site) (f : Flag) : Bool := setHas s.flags f.bit

/-- "While the site clock is unset, CLOCK_UNSET is set again at the moment anything clears it" (R204). -/
def Site.keepClockUnset (s : Site) : Site := s.raiseIf (!s.clock.isSet) .clockUnset

/-- The named flags cleared, CLOCK_UNSET set again while the clock is unset (R204, R205). -/
def Site.clearFlags (s : Site) (named : BitVec 18) : Site := (s.setFlags (s.flags &&& ~~~ named)).keepClockUnset

/-- The attention line is asserted exactly while some flag is both set and enabled, and released while RSTN is low (R207). -/
def Site.attention (s : Site) : Bool := s.mode != .held && s.flags &&& s.enables != 0#18

end Sys2Proof
end

