-- ==== Sys2Proof/Machine/Watch.lean ====
section
/-! DEFINITION. The watch table: contributions applied, pended and raised, holds and their breaks, the sweep (R165 to R191). -/

namespace Sys2Proof

/-- A grade at least another (conventions, the grade scale). -/
def Grade.atLeast (g h : Grade) : Bool := decide (h.code ≤ g.code)

/-- A watch level above another (conventions). -/
def WatchLevel.above (l m : WatchLevel) : Bool := decide (m.code < l.code)

/-- The level one below (R169, case 4). -/
def WatchLevel.lower : WatchLevel → WatchLevel
  | .withdraw => .restrict
  | .restrict | .observe => .observe

/-- The level to which the part may demote an entry: its floor, OBSERVE for a RAISED entry (R166). -/
def WatchEntry.floorLevel (e : WatchEntry) : WatchLevel :=
  match e.origin with
  | .raised => .observe
  | .enrolled => e.floor.getD .observe

/-! ### Applying a contribution to an entry -/

/-- A value placed at the head of a list, which keeps four (R168). -/
def placeValue (v : Option Int) (l : List Int) : List Int :=
  match v with
  | some x => (x :: l).take 4
  | none => l

/-- The newest exceeds the second by at least the step, and the second the third (R170). -/
def risingTrend (step : Int) : List Int → Bool
  | a :: b :: c :: _ => decide (step ≤ a - b) && decide (step ≤ b - c)
  | _ => false

/-- A list the contribution placed a value in shows a rising trend (R170). -/
def trendAfter (step : Int) (v : Option Int) (l : List Int) : Bool := v.isSome && risingTrend step l

/-- What an application leaves: the entry, or none when the part retired it, and whether its level rose (R169). -/
structure Applied where
  entry : Option WatchEntry
  escalated : Bool
  deriving DecidableEq, Repr

/-- A rise of the level: clean run 0 and WATCH_ESCALATED (R169); no rise where the level stands there already. -/
def WatchEntry.raiseLevel (e : WatchEntry) (l : WatchLevel) : Applied :=
  if e.level = l then ⟨some e, false⟩ else ⟨some { e with level := l, cleanRun := 0 }, true⟩

/-- The level reconsidered: the first case that holds decides (R169). -/
def WatchEntry.reconsider (e : WatchEntry) (b : SettingsBlock) (g : Grade) (trend : Bool) : Applied :=
  if g = .stop then e.raiseLevel .withdraw
  else if e.level = .restrict ∧ g = .alarm then e.raiseLevel .withdraw
  else if e.level = .observe ∧ (b.nat .escalateCount ≤ e.exceedances.toNat ∨ trend = true) then e.raiseLevel .restrict
  else if b.nat .clearRun ≤ e.cleanRun ∧ e.level.above e.floorLevel = true then
    ⟨some { e with level := e.level.lower, cleanRun := 0, exceedances := 0#16 }, false⟩
  else if e.origin = .raised ∧ e.level = .observe ∧ b.nat .clearRun ≤ e.cleanRun then ⟨none, false⟩
  else ⟨some e, false⟩

/-- The counts after a grade and a DEFERRED mark (R168, the counts table). -/
def WatchEntry.countGrade (e : WatchEntry) (g : Grade) (deferred : Bool) : WatchEntry :=
  if g.atLeast .caution then { e with exceedances := bump e.exceedances, cleanRun := 0 }
  else if deferred then e
  else { e with cleanRun := min 31 (e.cleanRun + 1) }

/-- The entry after the fields of a PASSAGE contribution, before its level is reconsidered (R168). -/
def WatchEntry.takePassage (e : WatchEntry) (sweepSerial : Word16) (serial : Serial) (date : Date) (g : Grade)
    (deferred : Bool) (v : SideValues) : WatchEntry :=
  let e1 : WatchEntry :=
    { e with
      passages := bump e.passages
      lastSerial := some serial
      lastDate := some date
      unseen := 0
      stale := false
      sweepStamp := sweepSerial
      rise1 := placeValue v.rise1 e.rise1
      rise2 := placeValue v.rise2 e.rise2
      excess1 := placeValue v.excess1 e.excess1
      excess2 := placeValue v.excess2 e.excess2 }
  e1.countGrade g deferred

/-- A rising trend on a list the contribution reached, over the entry after it (R170). -/
def WatchEntry.trend (e : WatchEntry) (b : SettingsBlock) (v : SideValues) : Bool :=
  trendAfter (b.get .riseTrendStep) v.rise1 e.rise1 || trendAfter (b.get .riseTrendStep) v.rise2 e.rise2 ||
    trendAfter (b.get .impactTrendStep) v.excess1 e.excess1 || trendAfter (b.get .impactTrendStep) v.excess2 e.excess2

/-- The entry with its revision raised by one (R166). -/
def WatchEntry.revise (e : WatchEntry) : WatchEntry := { e with revision := e.revision + 1#16 }

/-- An entry unseen by one more sweep: marked STALE, or retired by the part when RAISED at OBSERVE (R186). -/
def WatchEntry.takeSweep (e : WatchEntry) (b : SettingsBlock) (serial : Word16) : Option WatchEntry :=
  let e1 : WatchEntry := { e with unseen := min 999 (e.unseen + 1), sweepStamp := serial }
  if b.nat .forgetSweeps ≤ e1.unseen then
    if e1.origin = .raised ∧ e1.level = .observe then none else some { e1 with stale := true }
  else some e1

/-- A contribution applied to an entry: none when it changes nothing (R168, R172, R186). -/
def WatchEntry.apply (e : WatchEntry) (b : SettingsBlock) (sweepSerial : Word16) : Contribution → Option Applied
  | .passage _ serial date g deferred v =>
    let e1 := (e.takePassage sweepSerial serial date g deferred v).revise
    some (e1.reconsider b g (e1.trend b v))
  | .resolution _ g => some ((e.countGrade g false).revise.reconsider b g false)
  | .sweep n => if e.sweepStamp = n then none else some ⟨e.revise.takeSweep b n, false⟩

/-! ### Slots -/

/-- A slot with its entry replaced. -/
def Site.putEntry (s : Site) (i : Fin 512) (e : WatchEntry) : Site :=
  s.putWatchSlot i { s.watchSlot i with entry := some e }

/-- A slot made FREE: its notices are cleared (R176) and it is queued for the store (R166). -/
def Site.freeSlot (s : Site) (i : Fin 512) : Site :=
  (s.putWatchSlot i { s.watchSlot i with entry := none, noticeLink := false, noticeService := false }).enqueue (.slot i)

/-- What an application left written into its slot (R166, R169). -/
def Site.putApplied (s : Site) (i : Fin 512) (a : Applied) : Site :=
  match a.entry with
  | some e => ((s.putEntry i e).enqueue (.slot i)).raiseIf a.escalated .watchEscalated
  | none => s.freeSlot i

/-- A contribution applied to the entry of a slot, with the working settings and the current sweep serial. -/
def Site.applyAt (s : Site) (i : Fin 512) (c : Contribution) : Site :=
  match s.watchEntry i with
  | some e =>
    match e.apply s.settings s.watch.sweepSerial c with
    | some a => s.putApplied i a
    | none => s
  | none => s

/-! ### Raising an entry -/

/-- A new RAISED entry for a key (R171). -/
def newRaised (k : WatchKey) (sweepSerial : Word16) : WatchEntry :=
  { key := k, origin := .raised, level := .observe, floor := none, rise1 := [], rise2 := [], excess1 := [], excess2 := [],
    passages := 0#16, exceedances := 0#16, cleanRun := 0, lastSerial := none, lastDate := none, unseen := 0, stale := false,
    sweepStamp := sweepSerial, revision := 0#16, note := [], hold := none, pending := [] }

/-- A raise is admitted: the free count is above ADMISSION_RESERVE, or the grade is ALARM or STOP and a slot is free (R171). -/
def Site.admitted (s : Site) (g : Grade) : Bool :=
  decide (s.setting .admissionReserve < s.freeCount) || (g.atLeast .alarm && decide (1 ≤ s.freeCount))

/-- A refused raise: counted, WATCH_FULL set, the contribution discarded (R171). -/
def Site.refuseRaise (s : Site) : Site :=
  (s.setCounts { s.counts with raisesRefused := bump s.counts.raisesRefused }).raise .watchFull

/-- A contribution for a key with no LIVE entry (R171). -/
def Site.raiseEntry (s : Site) (k : WatchKey) (g : Grade) (c : Contribution) : Site :=
  if g.atLeast .caution then
    match s.lowestFree with
    | some i =>
      if s.admitted g then ((s.putEntry i (newRaised k s.watch.sweepSerial)).applyAt i c).raise .watchRaised
      else s.refuseRaise
    | none => s.refuseRaise
  else s

/-! ### Holds and pending contributions -/

/-- A contribution for a key whose entry no port holds: applied, or raising one (R177). A SWEEP contribution has no key. -/
def Site.takeUnheld (s : Site) : Contribution → Site
  | .passage k serial date g deferred v =>
    match s.findKey k with
    | some i => s.applyAt i (.passage k serial date g deferred v)
    | none => s.raiseEntry k g (.passage k serial date g deferred v)
  | .resolution k g =>
    match s.findKey k with
    | some i => s.applyAt i (.resolution k g)
    | none => s.raiseEntry k g (.resolution k g)
  | .sweep _ => s

/-- Pending contributions applied in arrival order to the entry of a slot (R177). The mark tells whether that entry still
stands: once one of them retires it, the rest are taken as for a key with no LIVE entry, and SWEEP contributions are
discarded. -/
def Site.applyPending (i : Fin 512) : List Contribution → Bool → Site → Site × Bool
  | [], alive, s => (s, alive)
  | c :: cs, true, s => applyPending i cs ((s.applyAt i c).watchEntry i).isSome (s.applyAt i c)
  | c :: cs, false, s => applyPending i cs false (s.takeUnheld c)

/-- The hold of a slot's entry ended: holder, lease and pending list cleared, the holder's count lowered (R174). -/
def Site.endHold (s : Site) (i : Fin 512) : Site :=
  match s.watchEntry i with
  | some e =>
    match e.hold with
    | some h => (s.putEntry i { e with hold := none, pending := [] }).loseHold h.port
    | none => s
  | none => s

/-- The broken-hold notice of a port for a slot (R176). -/
def WatchSlot.notice (w : WatchSlot) : Port → Bool
  | .siteLink => w.noticeLink
  | .servicePort => w.noticeService

/-- A slot with a port's notice set or cleared. -/
def WatchSlot.setNotice (w : WatchSlot) (p : Port) (b : Bool) : WatchSlot :=
  match p with
  | .siteLink => { w with noticeLink := b }
  | .servicePort => { w with noticeService := b }

/-- A fifth contribution breaks the hold: LEASE_EXPIRED, a notice for the holder's port, and the five applied in order (R176). -/
def Site.breakHold (s : Site) (i : Fin 512) (h : Hold) (cs : List Contribution) : Site :=
  let s1 := (s.endHold i).raise .leaseExpired
  (Site.applyPending i cs true (s1.putWatchSlot i ((s1.watchSlot i).setNotice h.port true))).1

/-- A contribution for a held entry: added at the tail, or the fifth that breaks the hold (R175, R176). -/
def Site.pend (s : Site) (i : Fin 512) (e : WatchEntry) (h : Hold) (c : Contribution) : Site :=
  if e.pending.length < 4 then s.putEntry i { e with pending := e.pending ++ [c] }
  else s.breakHold i h (e.pending ++ [c])

/-- A contribution for the LIVE entry of a slot: applied when no port holds it, else pended (R167). -/
def Site.takeAt (s : Site) (i : Fin 512) (c : Contribution) : Site :=
  match s.watchEntry i with
  | some e =>
    match e.hold with
    | some h => s.pend i e h c
    | none => s.applyAt i c
  | none => s

/-- A PASSAGE or RESOLUTION contribution at its arrival, taken by its key (R167). -/
def Site.takeKeyed (s : Site) (k : WatchKey) (g : Grade) (c : Contribution) : Site :=
  match s.findKey k with
  | some i => s.takeAt i c
  | none => s.raiseEntry k g c

/-- A contribution handed to the watch table (R167). A SWEEP contribution is made for one entry by a visit, not handed over. -/
def Site.contribute (s : Site) : Contribution → Site
  | .passage k serial date g deferred v => s.takeKeyed k g (.passage k serial date g deferred v)
  | .resolution k g => s.takeKeyed k g (.resolution k g)
  | .sweep _ => s

/-- A hold ended by release or expiry, its pending contributions applied; with the mark of `applyPending` (R177, R178). -/
def Site.releaseEntry (s : Site) (i : Fin 512) (e : WatchEntry) : Site × Bool :=
  Site.applyPending i e.pending true (s.endHold i)

/-- The lease of the entry in a slot has run out (R177). -/
def Site.watchLeaseDue (s : Site) (i : Fin 512) : Option WatchEntry :=
  match s.watchEntry i with
  | some e => if e.hold.any (fun h => decide (h.expiry ≤ s.now)) then some e else none
  | none => none

/-! ### The sweep -/

/-- A sweep started: serial raised, cursor 0, start-pending cleared, SUSPENDED while a composition is in flight (R187). -/
def Site.startSweep (s : Site) : Site :=
  s.setWatch
    { s.watch with
      sweepSerial := s.watch.sweepSerial + 1#16
      sweepState := if s.composing then .suspended else .running
      cursor := 0
      startPending := false }

/-- The start-pending mark set or cleared (R187). -/
def Site.setStartPending (s : Site) (b : Bool) : Site := s.setWatch { s.watch with startPending := b }

/-- The sweep state changed. -/
def Site.setSweep (s : Site) (v : SweepState) : Site := s.setWatch { s.watch with sweepState := v }

/-- A sweep start taken: ignored, kept pending, or starting the sweep (R187). -/
def Site.takeSweepStart (s : Site) : Site :=
  if s.watch.sweepState = .idle then
    if s.passageOpen then s.setStartPending true else s.startSweep
  else s

/-- An opening suspends a RUNNING sweep (R190). -/
def Site.suspendSweep (s : Site) : Site := if s.watch.sweepState = .running then s.setSweep .suspended else s

/-- The end of a composition resumes a SUSPENDED sweep (R190). -/
def Site.resumeSweep (s : Site) : Site := if s.watch.sweepState = .suspended then s.setSweep .running else s

/-- The visit of a slot: FREE and stamped slots are passed by, a held entry pends, any other is swept at once (R189). -/
def Site.visit (s : Site) (i : Fin 512) : Site :=
  match s.watchEntry i with
  | some e => if e.sweepStamp = s.watch.sweepSerial then s else s.takeAt i (.sweep s.watch.sweepSerial)
  | none => s

/-- The cursor moved on; after slot 511 the sweep completes with SWEEP_DONE (R189). -/
def Site.advanceCursor (s : Site) : Site :=
  if s.watch.cursor < 511 then s.setWatch { s.watch with cursor := s.watch.cursor + 1 }
  else (s.setWatch { s.watch with cursor := 0, sweepState := .idle }).raise .sweepDone

/-- One visit of the running sweep (R189). -/
def Site.sweepVisit (s : Site) : Site :=
  if s.watch.sweepState = .running then
    if h : s.watch.cursor < 512 then (s.visit ⟨s.watch.cursor, h⟩).advanceCursor else s.advanceCursor
  else s

/-! ### Site reset -/

/-- A slot at a site reset: hold, pending list and notices cleared (R179). -/
def WatchSlot.atReset (w : WatchSlot) : WatchSlot :=
  { w with
    entry := w.entry.map (fun e => { e with hold := none, pending := [] })
    noticeLink := false
    noticeService := false }

/-- The pending contributions a slot's entry held. -/
def WatchSlot.pendings (w : WatchSlot) : List Contribution :=
  match w.entry with
  | some e => e.pending
  | none => []

/-- Every watch hold ended without flag or notice, then the pending contributions applied entry by entry in slot order, the
sweep abandoned with its stamps standing (R179, R186). -/
def Site.resetWatch (s : Site) : Site :=
  let before := s.watch.slots
  let s1 := s.setWatch
    { s.watch with
      slots := tableMap WatchSlot.atReset before
      sweepState := .idle
      cursor := 0
      startPending := false }
  watchIds.foldl (fun t i => (Site.applyPending i before[i].pendings true t).1) (s1.setHolds { link := 0, service := 0 })

end Sys2Proof
end

