-- ==== Sys2Proof/Machine/Clock.lean ====
section
/-! DEFINITION. The site clock: the calendar, the trim, the set mark and the scheduled sweep start (R212 to R216). -/

namespace Sys2Proof

/-- A leap year within 2000 to 2099 (R212). -/
def leapYear (y : Nat) : Bool := y % 4 == 0

/-- The length of a month (R212, R215). -/
def monthLength (y m : Nat) : Nat :=
  match m with
  | 2 => if leapYear y then 29 else 28
  | 4 | 6 | 9 | 11 => 30
  | _ => 31

/-- The day after a date-time's day, at 00:00:00 (R212). -/
def DateTime.nextDay (d : DateTime) : DateTime :=
  let w := if d.weekday = 6 then 0 else d.weekday + 1
  let e : DateTime := { d with hour := 0, minute := 0, second := 0, weekday := w }
  if d.day < monthLength d.year d.month then { e with day := d.day + 1 }
  else if d.month < 12 then { e with month := d.month + 1, day := 1 }
  else { e with year := d.year + 1, month := 1, day := 1 }

/-- The date-time a second later (R212). -/
def DateTime.nextSecond (d : DateTime) : DateTime :=
  if d.second < 59 then { d with second := d.second + 1 }
  else if d.minute < 59 then { d with minute := d.minute + 1, second := 0 }
  else if d.hour < 23 then { d with hour := d.hour + 1, minute := 0, second := 0 }
  else d.nextDay

/-- A date-time within the clock's range (R215). -/
def DateTime.valid (d : DateTime) : Bool :=
  decide (2000 ≤ d.year) && decide (d.year ≤ 2099) && decide (1 ≤ d.month) && decide (d.month ≤ 12) && decide (1 ≤ d.day) &&
    decide (d.day ≤ monthLength d.year d.month) && decide (d.hour ≤ 23) && decide (d.minute ≤ 59) &&
    decide (d.second ≤ 59) && decide (d.weekday ≤ 6)

/-- The length of a second in crystal periods: the last of the span of 64 is shortened by the trim, the others are 32,768
(R213). -/
def secondPeriods (spanSecond : Nat) (trim : Int) : Nat :=
  if spanSecond = 63 then ((32768 : Int) - trim).toNat else 32768

/-- The second of the span after another (R213). -/
def nextSpanSecond (n : Nat) : Nat := if n < 63 then n + 1 else 0

/-- The clock's count of spans moved to its next second, with the trim read at its start (R213). -/
def Site.nextSpan (s : Site) : Site :=
  s.setClock
    { s.clock with
      spanSecond := nextSpanSecond s.clock.spanSecond
      secondLength := secondPeriods (nextSpanSecond s.clock.spanSecond) (s.settings.get .clockTrim) }

/-- The clock past the end of 2099: unset, at its first reading, the start-pending mark cleared (R187, R204, R212). -/
def Site.clockWrap (s : Site) : Site :=
  ((s.setClock { s.clock with reading := clockOrigin, isSet := false }).setStartPending false).raise .clockUnset

/-- The clock reads the second of SWEEP_TIME on a day of SWEEP_DAYS (R216). -/
def Site.scheduledNow (s : Site) : Bool :=
  let d := s.clock.reading
  d.second == 0 && d.hour * 60 + d.minute == s.setting .sweepTime &&
    (BitVec.ofNat 7 (s.setting .sweepDays)).getLsbD d.weekday

/-- The reading advanced by one second; the set clock may come to a scheduled start (R212, R216). -/
def Site.advanceReading (s : Site) : Site :=
  let d := s.clock.reading.nextSecond
  if 2099 < d.year then s.clockWrap
  else
    let s1 := s.setClock { s.clock with reading := d }
    if s1.clock.isSet && s1.scheduledNow then s1.takeSweepStart else s1

/-- A second of the clock runs out (R212, R213). -/
def Site.clockSecond (s : Site) : Site := if s.mode = .held then s else s.nextSpan.advanceReading

/-- The clock set: the reading taken, a new second started, the set mark set (R215; the trim of a last second: log 12). -/
def Site.setReading (s : Site) (d : DateTime) : Site :=
  s.setClock
    { s.clock with
      reading := d
      isSet := true
      secondLength := secondPeriods s.clock.spanSecond (s.settings.get .clockTrim) }

/-- CLOCK_CHANGED added where a passage is open, armed, arming or held (R215). -/
def Site.noteClockChange (s : Site) : Site :=
  if s.passageOpen then s.addRecordCause .clockChanged
  else if s.passage.phase ≠ .idle ∨ s.passage.held = true then s.addPending .clockChanged
  else s

/-- The second of SWEEP_TIME on a date-time's day. -/
def DateTime.atMinute (d : DateTime) (minute : Nat) : DateTime :=
  { d with hour := minute / 60, minute := minute % 60, second := 0 }

/-- The time of day of a date-time in seconds. -/
def DateTime.secondOfDay (d : DateTime) : Nat := (d.hour * 60 + d.minute) * 60 + d.second

/-- The first scheduled second on this day or one of the next `k`, on a day of the set; `today` tells whether this day's second
still lies ahead (R216). -/
def DateTime.scheduleFrom (days : BitVec 7) (minute : Nat) : Nat → Bool → DateTime → Option DateTime
  | 0, _, _ => none
  | k + 1, today, d =>
    if today && days.getLsbD d.weekday then some (d.atMinute minute)
    else scheduleFrom days minute k true d.nextDay

/-- The next scheduled sweep start: within eight days, if any; past the end of 2099 a free value (R214, R216; log 16). -/
def Site.nextSweep (s : Site) : Option DateTime :=
  let d := s.clock.reading
  let days := BitVec.ofNat 7 (s.setting .sweepDays)
  let minute := s.setting .sweepTime
  if s.clock.isSet = false ∨ days = 0#7 then none
  else
    (d.scheduleFrom days minute 8 (decide (d.secondOfDay < minute * 60))).map
      (fun e => if e.year ≤ 2099 then e else Config.sweepPastEnd d days minute)

end Sys2Proof
end

