-- ==== Sys2Proof/Machine/Operands.lean ====
section
/-! DEFINITION. The codings of request and answer bodies (R195), and the frames of ports and module lines (R69, R194). -/

namespace Sys2Proof

/-! ### Answer fields -/

/-- A named value, or a whole number of one byte (R195). -/
def byteField (n : Nat) : List Byte := leBytes 1 n

/-- Yes or no, set or clear, on or off (R195). -/
def yesNo (b : Bool) : List Byte := byteField (if b then 1 else 0)

/-- An optional field: a presence byte, then the field's room, filled with 0 when absent (R195). -/
def optField (room : Nat) : Option (List Byte) → List Byte
  | none => byteField 0 ++ List.replicate room 0#8
  | some bs => byteField 1 ++ bs

/-- An optional whole number of `k` bytes. -/
def optNat (k : Nat) (v : Option Nat) : List Byte := optField k (v.map (leBytes k))

/-- An optional signed number of `k` bytes. -/
def optInt (k : Nat) (v : Option Int) : List Byte := optField k (v.map (leIntBytes k))

/-- A value or unmeasured: a reason byte, then the number's room, filled with 0 when unmeasured (R195). -/
def measureField (k : Nat) : Measure → List Byte
  | .value v => byteField 0 ++ leIntBytes k v
  | .unmeasured r => byteField r.code ++ List.replicate k 0#8

/-- A list of varying length of at most 255 items: a count byte, then the items (R195). -/
def listField (items : List (List Byte)) : List Byte := byteField items.length ++ items.flatten

/-- A date-time: year, month, day, hour, minute, second, weekday (R195). -/
def dateTimeField (d : DateTime) : List Byte :=
  leBytes 2 d.year ++ byteField d.month ++ byteField d.day ++ byteField d.hour ++ byteField d.minute ++
    byteField d.second ++ byteField d.weekday

/-- A date: year, month, day (R195). -/
def dateField (d : Date) : List Byte := leBytes 2 d.year ++ byteField d.month ++ byteField d.day

/-- A tag code, 8 bytes low byte first (R195). -/
def tagField (t : TagCode) : List Byte := leBytes 8 t.toNat

/-- A note: a length byte, then that many bytes (R195). -/
def noteField (n : List Byte) : List Byte := byteField n.length ++ n

/-- A direction or none: AB, BA, none (R18, R44). -/
def dirField (d : Option Dir) : List Byte := byteField ((d.map Dir.code).getD 2)

/-- A counter or another 16-bit word, 2 bytes. -/
def wordField (c : Word16) : List Byte := leBytes 2 c.toNat

/-- A serial or a stamp, 4 bytes. -/
def longField (n : BitVec 32) : List Byte := leBytes 4 n.toNat

/-- A watch level or none: OBSERVE, RESTRICT, WITHDRAW, none (R68, R155). -/
def levelOrNone (l : Option WatchLevel) : List Byte := byteField ((l.map WatchLevel.code).getD 3)

/-- The first `n` bits of a flag set or an enable set, coded as 4 bytes with bits 18 to 31 zero (R204). -/
def flagField (f : BitVec 18) : List Byte := leBytes 4 f.toNat

/-- A cause set, 4 bytes (R195: 22 members). -/
def causeField (c : BitVec 22) : List Byte := leBytes 4 c.toNat

/-- The seconds of an age, held at 65,535 (R18). -/
def saturate16 (n : Nat) : Nat := min n 65535

/-! ### Request fields -/

/-- A presence or yes/no byte: 0 or 1, and no other value names anything (R195, R201). -/
def readYesNo (body : List Byte) (i : Nat) : Option Bool :=
  match natAt body i 1 with
  | 0 => some false
  | 1 => some true
  | _ => none

/-- An optional 32-bit field at byte `i`: outer none when the presence byte is neither 0 nor 1 (R195, R201). -/
def readOptLong (body : List Byte) (i : Nat) : Option (Option (BitVec 32)) :=
  (readYesNo body i).map (fun p => if p then some (BitVec.ofNat 32 (natAt body (i + 1) 4)) else none)

/-- A note field at byte `i`, the last field of its body: none when the length byte is above 16 or differs from the bytes that
follow it (R183, R184; log 23). -/
def readNote (body : List Byte) (i : Nat) : Option (List Byte) :=
  let n := natAt body i 1
  if n ≤ 16 ∧ body.length = i + 1 + n then some (body.drop (i + 1)) else none

/-- A date-time at byte `i` (R195). -/
def readDateTime (body : List Byte) (i : Nat) : DateTime :=
  { year := natAt body i 2, month := natAt body (i + 2) 1, day := natAt body (i + 3) 1, hour := natAt body (i + 4) 1,
    minute := natAt body (i + 5) 1, second := natAt body (i + 6) 1, weekday := natAt body (i + 7) 1 }

/-! ### Port frames -/

/-- Bytes 1 to the end of the body of a request frame: what its CRC covers (R194). -/
def requestCovered (tag kind : Byte) (body : List Byte) : List Byte :=
  leBytes 2 body.length ++ tag :: kind :: body

/-- The CRC of a request frame (R194). -/
def requestCrc (tag kind : Byte) (body : List Byte) : Word16 := crc16 portPoly (requestCovered tag kind body)

/-- Bytes 1 to the end of the body of an answer frame (R194). -/
def Answer.covered (a : Answer) : List Byte :=
  leBytes 2 a.body.length ++ a.tag :: a.kind :: BitVec.ofNat 8 a.status.code :: a.body

/-- The bytes of an answer frame on the line (R194). -/
def Answer.frame (a : Answer) : List Byte :=
  0xA5#8 :: a.covered ++ leBytes 2 (crc16 portPoly a.covered).toNat

/-! ### Module frames -/

/-- Bytes 1 to the end of the payload of a module frame: what its CRC covers (R69). -/
def ModuleFrame.covered (f : ModuleFrame) : List Byte :=
  BitVec.ofNat 8 (f.payload.length + 6) :: f.kind :: leBytes 2 f.passage.toNat ++ leBytes 2 f.sequence.toNat ++
    f.code :: f.payload

/-- The CRC a module frame should carry (R69). -/
def ModuleFrame.rightCrc (f : ModuleFrame) : Word16 := crc16 modulePoly f.covered

/-- The bytes of a module frame on its line (R69). -/
def ModuleFrame.bytes (f : ModuleFrame) : List Byte := 0xC3#8 :: f.covered ++ leBytes 2 f.crc.toNat

/-- A module frame of the fields given, with its CRC computed (R69). -/
def ModuleFrame.make (kind : Byte) (passage sequence : Word16) (code : Byte) (payload : List Byte) : ModuleFrame :=
  let f : ModuleFrame := { kind := kind, passage := passage, sequence := sequence, code := code, payload := payload, crc := 0 }
  { f with crc := f.rightCrc }

end Sys2Proof
end

