-- ==== Sys2Proof/Machine/Frames.lean ====
section
/-! DEFINITION. What a frame must be: the checks of module frames (R69, R70), and the conditions under which a frame belongs to
the command that carries it (log 3). -/

namespace Sys2Proof

/-- The kind of the module on a line: lines 1 to 4 bays, 5 and 6 scanners, 7 the tag reader, 8 the ambient unit (chapter 4). -/
def lineKindOf (n : Nat) : ModuleKind :=
  if n < 4 then .bay else if n < 6 then .scanner else if n = 6 then .tagReader else .ambientUnit

/-- The kind of the module on a line (chapter 4). -/
def lineKind (n : Fin 8) : ModuleKind := lineKindOf n.val

/-- Frame code of READY (R69). -/
def readyCode : Byte := 3#8

/-- Frame code of REPORT (R69). -/
def reportCode : Byte := 4#8

/-- A frame whose length byte lies in 6 to 17 (R69). -/
def ModuleFrame.fits (f : ModuleFrame) : Bool := decide (f.payload.length ≤ 11)

/-- The payload bytes of a frame a module may send, by module kind and frame code (R69, the payload table). -/
def payloadBytes (k : ModuleKind) (code : Byte) : Option Nat :=
  if code = readyCode then
    match k with
    | .ambientUnit => some 2
    | .bay | .scanner | .tagReader => some 0
  else if code = reportCode then
    match k with
    | .bay => some 11
    | .scanner => some 4
    | .tagReader => some 10
    | .ambientUnit => none
  else none

/-- A bay or scanner report's direction byte is 1 or 2 (R70). Other frames have none. -/
def directionOk (k : ModuleKind) (f : ModuleFrame) : Bool :=
  match k with
  | .bay | .scanner => f.code != reportCode || natAt f.payload 0 1 == 1 || natAt f.payload 0 1 == 2
  | .tagReader | .ambientUnit => true

/-- The form check of R70: the kind of the line, a frame code a module sends, the length of that frame, the direction. -/
def formOk (n : Fin 8) (f : ModuleFrame) : Bool :=
  f.kind == BitVec.ofNat 8 (lineKind n).frameByte && payloadBytes (lineKind n) f.code == some f.payload.length &&
    directionOk (lineKind n) f

/-- The CRC check of R70. -/
def crcOk (f : ModuleFrame) : Bool := f.crc == f.rightCrc

/-- A request body fits its frame: "number of body bytes, 0 to 1,000" (R194). -/
def bodyFits (body : List Byte) : Bool := decide (body.length ≤ 1000)

/-- A module line's discard names a fault that is there (R69, R70). -/
def ModuleDiscard.wf (n : Fin 8) : ModuleDiscard → Bool
  | .length b => decide (b.toNat < 6) || decide (17 < b.toNat)
  | .stopBit => true
  | .frame f => f.fits && (!crcOk f || !formOk n f)

/-- A request frame's discard names a fault that is there (R196). -/
def RequestDiscard.wf : RequestDiscard → Bool
  | .length n => decide (1000 < n.toNat)
  | .stopBit => true
  | .frame tag kind body crc => bodyFits body && crc != requestCrc tag kind body

/-- The frames of MODULE_READY: a READY that fits (R69, R74). -/
def readyWf (f : ModuleFrame) : Bool := f.fits && f.code == readyCode

/-- The frames of BAY_SCANNER_REPORT: a REPORT that fits, on lines 1 to 6 (R69, R81). -/
def reportWf (n : Fin 8) (f : ModuleFrame) : Bool := decide (n.val < 6) && f.fits && f.code == reportCode

/-- The frames of TAG_REPORT: a REPORT that fits (R69, R88). -/
def tagWf (f : ModuleFrame) : Bool := f.fits && f.code == reportCode

/-- The request of UNKNOWN_REQUEST: a kind outside the catalogue (R199). -/
def unknownWf (kind : Byte) (body : List Byte) : Bool := bodyFits body && !inCatalogue kind

end Sys2Proof
end

