-- ==== Sys2Proof/Machine/Heads.lean ====
section
/-! DEFINITION. Heads and crossing machines: timers, health, restart, the crossing table, degraded points (R1 to R14). What
the passage controller does with a change of condition or a crossing stands in Passage.lean and Points.lean. -/

namespace Sys2Proof

/-! ### Timers and health -/

/-- The stuck timer of a head has run out: IN_SERVICE, occupied, for STUCK_LIMIT from its last change (R2). -/
def Head.stuckDue (h : Head) (now limit : Nat) : Bool :=
  h.health == .inService && h.level == .occupied && elapsed now h.lastChange (seconds limit)

/-- The quiet timer of a head has run out: CUT_OFF, clear, for QUIET_PERIOD from its last change (R4). -/
def Head.quietDue (h : Head) (now limit : Nat) : Bool :=
  h.health == .cutOff && h.level == .clear && elapsed now h.lastChange (seconds limit)

/-- A head is occupied and not CUT_OFF. -/
def Head.seenOccupied (h : Head) : Bool := h.health != .cutOff && h.level == .occupied

/-- The crossing machine restarted from the levels: the wheel followed is dropped (R8). -/
def Point.restart (p : Point) : Point :=
  { p with
    machine := if p.head1.seenOccupied || p.head2.seenOccupied then .settling else .idle
    lead := none
    interval := none
    rocked := false }

/-- A head's health changed; a change of condition restarts the machine (R4, R7, R8). -/
def Point.setHealth (p : Point) (n : HeadNo) (v : HeadHealth) : Point :=
  let q := p.putHead n { p.head n with health := v }
  if q.condition = p.condition then q else q.restart

/-- A head's health changed, with the flag HEAD_CUT_OFF at each entry to DEGRADED or OUT (R7). -/
def Site.setHealth (s : Site) (h : HeadId) (v : HeadHealth) : Site :=
  let old := s.point h.point
  let new := old.setHealth h.no v
  (s.putPoint h.point new).raiseIf (new.condition != old.condition && new.condition != .normal) .headCutOff

/-- Every STANDING head made CUT_OFF at a close (R3). -/
def Site.cutOffStanding (s : Site) : Site :=
  HeadId.all.foldl
    (fun t h => if ((t.point h.point).head h.no).health = .standing then t.setHealth h .cutOff else t) s

/-! ### Crossing machine -/

/-- What a change gives: the point after it, and a crossing's direction when one is made (R9, R12). -/
structure CrossStep where
  point : Point
  made : Option Dir
  deriving DecidableEq, Repr

/-- The machine back in IDLE: "every return to IDLE clears the lead time, the interval and the rocked mark" (R9). -/
def Point.toIdle (p : Point) : Point := { p with machine := .idle, lead := none, interval := none, rocked := false }

/-- The machine out of IDLE with this lead time (R9, R11). -/
def Point.leadAt (p : Point) (m : CrossState) (now : Nat) : Point := { p with machine := m, lead := some now }

/-- The step from LEAD to OVER: the interval is taken if not already taken (R9, R11). -/
def Point.toOver (p : Point) (m : CrossState) (now : Nat) : Point :=
  { p with machine := m, interval := p.interval.or (p.lead.map (fun t => now - t)) }

/-- A step back: the rocked mark is set (R9, R11). -/
def Point.stepBack (p : Point) (m : CrossState) : Point := { p with machine := m, rocked := true }

/-- SETTLING: IDLE once the heads followed are clear together, otherwise no change (R8). -/
def Point.settle (p : Point) : Point :=
  if p.head1.seenOccupied || p.head2.seenOccupied then p else p.toIdle

/-- The crossing machine of a NORMAL point takes a change of head `n` to level `v`, the levels being those after it (R9). -/
def Point.normalStep (p : Point) (n : HeadNo) (v : Level) (now : Nat) : CrossStep :=
  match p.machine, n, v with
  | .idle, .one, .occupied => ⟨p.leadAt .lead1 now, none⟩
  | .idle, .two, .occupied => ⟨p.leadAt .lead2 now, none⟩
  | .lead1, .two, .occupied => ⟨p.toOver .over1 now, none⟩
  | .lead1, .one, .clear => ⟨p.toIdle, none⟩
  | .over1, .one, .clear => ⟨{ p with machine := .trail1 }, none⟩
  | .over1, .two, .clear => ⟨p.stepBack .lead1, none⟩
  | .trail1, .one, .occupied => ⟨p.stepBack .over1, none⟩
  | .trail1, .two, .clear => ⟨p.toIdle, some .ab⟩
  | .lead2, .one, .occupied => ⟨p.toOver .over2 now, none⟩
  | .lead2, .two, .clear => ⟨p.toIdle, none⟩
  | .over2, .two, .clear => ⟨{ p with machine := .trail2 }, none⟩
  | .over2, .one, .clear => ⟨p.stepBack .lead2, none⟩
  | .trail2, .two, .occupied => ⟨p.stepBack .over2, none⟩
  | .trail2, .one, .clear => ⟨p.toIdle, some .ba⟩
  | .settling, _, _ => ⟨p.settle, none⟩
  | _, _, _ => ⟨p, none⟩

/-- The interval a crossing carries: taken, not rocked, 1 to 65,535, a 0 taken as 1 (R11). -/
def Point.crossingInterval (p : Point) : Option Nat :=
  if p.rocked then none
  else
    match p.interval with
    | some i => if max i 1 ≤ 65535 then some (max i 1) else none
    | none => none

/-- The LEAD state of the remaining head (R12). -/
def leadOf : HeadNo → CrossState
  | .one => .lead1
  | .two => .lead2

/-- The machine of a DEGRADED point takes a change of its remaining head `n`; `d` is the direction R13 gives (R12). -/
def Point.degradedStep (p : Point) (n : HeadNo) (v : Level) (now : Nat) (d : Dir) : CrossStep :=
  match p.machine, v with
  | .idle, .occupied => ⟨p.leadAt (leadOf n) now, none⟩
  | .settling, _ => ⟨p.settle, none⟩
  | .lead1, .clear => ⟨p.toIdle, some d⟩
  | .lead2, .clear => ⟨p.toIdle, some d⟩
  | _, _ => ⟨p, none⟩

/-- The last crossing at a point serves R13: the point is not OUT and its last crossing was made since the counting direction
was last set. -/
def Point.guide (p : Point) : Option Dir :=
  if p.condition = .out then none
  else
    match p.last with
    | some c => if c.sinceSet then some c.dir else none
    | none => none

/-- The counting direction, or the point's inward direction while it is NONE (R13). -/
def Site.countingOrInward (s : Site) (p : PointId) : Dir := s.points.direction.getD p.inward

/-- The direction of a crossing made at a DEGRADED point (R13). -/
def Site.degradedDir (s : Site) (p : PointId) : Dir :=
  match p with
  | .ga => (s.point .gb).guide.getD (s.countingOrInward .ga)
  | .gb => (s.point .ga).guide.getD (s.countingOrInward .gb)
  | .pa => s.countingOrInward .pa
  | .pb => s.countingOrInward .pb

/-- A change of a head's level: level and last-change time in every health state (R1); a clear ends STANDING (R3). -/
def Head.change (h : Head) (v : Level) (now : Nat) : Head :=
  { level := v, health := if h.health = .standing ∧ v = .clear then .inService else h.health, lastChange := now }

/-! ### Net counts -/

/-- The counting direction set to AB or BA: net counts 0, last crossings no longer serve R13 (R16). -/
def Point.forNewDirection (p : Point) : Point :=
  { p with net := 0, last := p.last.map (fun c => { c with sinceSet := false }) }

/-- The counting direction set to AB or BA (R16). -/
def Site.setDirection (s : Site) (d : Dir) : Site :=
  s.setPoints
    { pa := s.points.pa.forNewDirection, ga := s.points.ga.forNewDirection, gb := s.points.gb.forNewDirection,
      pb := s.points.pb.forNewDirection, direction := some d, everSet := true }

/-- The counting direction set to NONE: the net counts keep their values (R16). -/
def Site.clearDirection (s : Site) : Site := s.setPoints { s.points with direction := none }

/-- A net count under a crossing with or against the counting direction (R16): the point after it, and the old and new counts
when the count changed. -/
def Point.count (p : Point) (withIt : Bool) : Point × Option (Nat × Nat) :=
  if withIt then
    if p.net < 4095 then ({ p with net := p.net + 1 }, some (p.net, p.net + 1)) else (p, none)
  else if 0 < p.net then ({ p with net := p.net - 1 }, some (p.net, p.net - 1))
  else ({ p with spurious := bump p.spurious }, none)

/-- A point at the end of loading: levels from its lines, last change at that moment, machine restarted (R1, R8). -/
def Point.fromLines (p : Point) (l : LinePair) (now : Nat) : Point :=
  { p with
    head1 := { level := l.one, health := .inService, lastChange := now }
    head2 := { level := l.two, health := .inService, lastChange := now } }.restart

/-- A point at a site reset: heads IN_SERVICE with the reset as last change, machine restarted, net count 0, no last crossing
(R1, R3, R7, R8, R16, R18). The spurious-reverse counter is cleared with the other counters. -/
def Point.atReset (p : Point) (now : Nat) : Point :=
  { p with
    head1 := { p.head1 with health := .inService, lastChange := now }
    head2 := { p.head2 with health := .inService, lastChange := now }
    net := 0
    last := none }.restart

end Sys2Proof
end

