-- ==== Sys2Proof/Machine/Roster.lean ====
section
/-! DEFINITION. The roster and the vehicle list: append, retraction, revival, grouping, tags, orientation, sides (R45 to R66). -/

namespace Sys2Proof

/-! ### Vehicles -/

/-- The snapshot with none at every index (R57, R62). -/
def emptySnapshot : Vector (Option WatchLevel) 13 := Vector.replicate 13 none

/-- A vehicle opened with an axle (R57). -/
def newVehicle (position ordinal : Nat) : Vehicle :=
  { position := position, firstOrdinal := ordinal, axleCount := 1, state := .opened, tagState := .untagged, tagCode := none,
    taggedEnd := none, readPosition := none, orientation := .unknown, snapshot := emptySnapshot }

/-- The current vehicle: the last of the list (R57). -/
def RosterUnit.current (u : RosterUnit) : Option Vehicle := u.vehicles.getLast?

/-- The vehicle at a position. -/
def RosterUnit.vehicleAt (u : RosterUnit) (position : Nat) : Option Vehicle :=
  if position = 0 then none else u.vehicles[position - 1]?

/-- The entry of an ordinal. -/
def RosterUnit.entryAt (u : RosterUnit) (ordinal : Nat) : Option AxleEntry :=
  if ordinal = 0 then none else u.entries[ordinal - 1]?

/-- The roster with the vehicle at a position changed. -/
def RosterUnit.updateVehicle (u : RosterUnit) (position : Nat) (f : Vehicle → Vehicle) : RosterUnit :=
  if position = 0 then u else { u with vehicles := updateAt f (position - 1) u.vehicles }

/-- The roster with the entry of an ordinal changed. -/
def RosterUnit.updateEntry (u : RosterUnit) (ordinal : Nat) (f : AxleEntry → AxleEntry) : RosterUnit :=
  if ordinal = 0 then u else { u with entries := updateAt f (ordinal - 1) u.entries }

/-- Every entry of a vehicle's run with its axle index changed (R62, R65). -/
def RosterUnit.setIndexes (u : RosterUnit) (position : Nat) (f : Nat → Option Nat) : RosterUnit :=
  { u with
    entries := u.entries.map (fun e => if e.vehicle = position then { e with axleIndex := f e.position } else e) }

/-- The tagged end leads: twice the read position is at most the axle count (R64). -/
def Vehicle.taggedEndLeads (v : Vehicle) : Bool := decide (2 * v.readPosition.getD 0 ≤ v.axleCount)

/-- The orientation R64's table gives. -/
def Vehicle.orientationFromTag (v : Vehicle) : Orientation :=
  match v.taggedEnd, v.taggedEndLeads with
  | some .one, true => .end1Leading
  | some .one, false => .end2Leading
  | some .two, true => .end2Leading
  | some .two, false => .end1Leading
  | none, _ => .unknown

/-- An orientation may be fixed: CLOSED, SINGLE or CONFIRMED, at most 12 axles (R64). -/
def Vehicle.orientable (v : Vehicle) : Bool :=
  v.state == .closed && (v.tagState == .single || v.tagState == .confirmed) && decide (v.axleCount ≤ 12)

/-- The axle index of a position from leading (R65). -/
def axleIndexOf (o : Orientation) (count position : Nat) : Option Nat :=
  match o with
  | .end1Leading => some position
  | .end2Leading => some (count + 1 - position)
  | .unknown => none

/-- The orientation of the vehicle at a position fixed, where it may be, with its entries' axle indexes (R64, R65). -/
def RosterUnit.fixOrientation (u : RosterUnit) (position : Nat) : RosterUnit :=
  match u.vehicleAt position with
  | some v =>
    if v.orientable then
      (u.updateVehicle position (fun v => { v with orientation := v.orientationFromTag })).setIndexes position
        (axleIndexOf v.orientationFromTag v.axleCount)
    else u
  | none => u

/-- The vehicle at a position CLOSED, which can fix its orientation (R58, R64). -/
def RosterUnit.closeVehicle (u : RosterUnit) (position : Nat) : RosterUnit :=
  (u.updateVehicle position (fun v => { v with state := .closed })).fixOrientation position

/-- A new vehicle opened with an axle (R57). -/
def RosterUnit.openVehicle (u : RosterUnit) (ordinal : Nat) : RosterUnit :=
  { u with vehicles := u.vehicles ++ [newVehicle (u.vehicles.length + 1) ordinal] }

/-- An axle joining the vehicle at a position (R57). -/
def RosterUnit.joinVehicle (u : RosterUnit) (position : Nat) : RosterUnit :=
  u.updateVehicle position (fun v => { v with axleCount := v.axleCount + 1 })

/-! ### Append -/

/-- The class of a gap (R56). -/
def gapClassOf (b : SettingsBlock) : Option Nat → GapClass
  | none => .unknown
  | some g => if g ≤ b.nat .bogieGapMax then .bogie else if g ≤ b.nat .couplingGapMax then .coupling else .body

/-- Where an appended axle goes: which vehicle to close first, whether a new one opens, and the causes added (R57 to R59). -/
structure Placement where
  closeCurrent : Bool
  openNew : Bool
  uncertain : Bool
  limit : Bool
  full : Bool
  deriving DecidableEq, Repr

/-- The placement of an axle of class `c` behind the current vehicle (R57 to R59). -/
def placementOf (current : Option Vehicle) (c : GapClass) : Placement :=
  match current with
  | none => { closeCurrent := false, openNew := true, uncertain := false, limit := false, full := false }
  | some v =>
    if v.position = 256 then
      { closeCurrent := false, openNew := false, uncertain := c == .unknown, limit := false,
        full := c == .coupling || decide (12 ≤ v.axleCount) }
    else
      match v.state with
      | .opened =>
        { closeCurrent := c == .coupling, openNew := c == .coupling, uncertain := c == .unknown, limit := false, full := false }
      | .closed =>
        { closeCurrent := false, openNew := true, uncertain := c == .unknown, limit := c != .coupling, full := false }

/-- The vehicle list after a placement, before the entry stands (R57). -/
def RosterUnit.place (u : RosterUnit) (p : Placement) (ordinal : Nat) : RosterUnit :=
  let last := u.vehicles.length
  let u1 := if p.closeCurrent then u.closeVehicle last else u
  if p.openNew then u1.openVehicle ordinal else u1.joinVehicle last

/-- The reason of an unread value: MISSING for a fitted module, NOT_FITTED otherwise (R47). -/
def Site.unreadReason (s : Site) (n : Nat) : Reason := if s.fitted n then .missing else .notFitted

/-- The entry appended for an axle (R47): `vehicle` and `position` are those of its vehicle after placement. -/
def Site.newEntry (s : Site) (ordinal : Nat) (time : BitVec 32) (speed gap : Option Nat) (c : GapClass)
    (vehicle position : Nat) : AxleEntry :=
  { ordinal := ordinal, state := .present, crossingTime := time, speed := speed, gap := gap, gapClass := c, vehicle := vehicle,
    position := position, axleIndex := none
    bays := tableMapIdx (fun n _ => ⟨.unmeasured (s.unreadReason n), .unmeasured (s.unreadReason n)⟩)
      (Vector.replicate 4 ())
    bearings := tableMapIdx (fun n _ => .unmeasured (s.unreadReason (n + 4))) (Vector.replicate 2 ())
    recross := Vector.replicate 6 0, reversedOver := false }

/-- A module's place moved into the roster by an append (R85). -/
def ModuleLine.intoRoster (l : ModuleLine) : ModuleLine :=
  if 0 < l.beyond then { l with cursor := l.cursor + 1, beyond := l.beyond - 1 } else l

/-- Every cursor moved onto an appended entry where its module stands beyond (R85). Modules 7 and 8 stay at 0. -/
def Site.cursorsIntoRoster (s : Site) : Site :=
  s.setModules { s.modules with lines := tableMap ModuleLine.intoRoster s.modules.lines }

/-- A cause added to the record's cause set when a condition holds. -/
def Site.addRecordCauseIf (s : Site) (b : Bool) (c : Cause) : Site := if b then s.addRecordCause c else s

/-- The roster generation raised by one (R55). -/
def RosterUnit.newGeneration (u : RosterUnit) : RosterUnit := { u with generation := u.generation + 1#16 }

/-- A vehicle other than vehicle 256 is CLOSED the moment its axle count reaches 12 (R58, R59). -/
def RosterUnit.closeAtTwelve (u : RosterUnit) : RosterUnit :=
  match u.current with
  | some v =>
    if v.state = VehicleState.opened ∧ 12 ≤ v.axleCount ∧ v.position ≠ 256 then u.closeVehicle u.vehicles.length else u
  | none => u

/-- The roster after an append (R47, R55 to R59). -/
def Site.rosterAppended (s : Site) (time : BitVec 32) (speed gap : Option Nat) : RosterUnit :=
  let n := s.roster.entries.length + 1
  let gap1 := if n = 1 then none else gap
  let c := gapClassOf s.passage.latched gap1
  let u := s.roster.place (placementOf s.roster.current c) n
  let first := (u.current.map Vehicle.firstOrdinal).getD n
  let e := s.newEntry n time speed gap1 c u.vehicles.length (n - first + 1)
  { u with entries := u.entries ++ [e] }.closeAtTwelve.newGeneration

/-- An entry appended, with its vehicle, its causes and the cursors (R47, R57, R59, R85). -/
def Site.appendAxle (s : Site) (time : BitVec 32) (speed gap : Option Nat) : Site :=
  let gap1 := if s.roster.entries.length = 0 then none else gap
  let p := placementOf s.roster.current (gapClassOf s.passage.latched gap1)
  let s1 := s.setRoster (s.rosterAppended time speed gap)
  (((s1.addRecordCauseIf p.uncertain .groupingUncertain).addRecordCauseIf p.limit .groupingLimit).addRecordCauseIf
    p.full .vehicleFull).cursorsIntoRoster

/-! ### Rises, falls, fill -/

/-- The entry of an ordinal revived (R51). -/
def AxleEntry.revive (e : AxleEntry) : AxleEntry := { e with state := .present, reversedOver := true }

/-- The entry of an ordinal retracted (R50). -/
def AxleEntry.retract (e : AxleEntry) : AxleEntry := { e with state := .retracted }

/-- The entry marked REVERSED_OVER (R52, R83). -/
def AxleEntry.markReversed (e : AxleEntry) : AxleEntry := { e with reversedOver := true }

/-- A rise of the counting gate's net count to `m`: append, revive, or ROSTER_FULL (R48, R49, R51). -/
def Site.rosterRise (s : Site) (m : Nat) (time : BitVec 32) (speed gap : Option Nat) : Site :=
  if 1024 < m then s.addRecordCause .rosterFull
  else if s.roster.entries.length < m then s.appendAxle time speed gap
  else s.setRoster (s.roster.updateEntry m AxleEntry.revive).newGeneration

/-- A fall of the counting gate's net count from `n`: the entry of ordinal `n` RETRACTED, where there is one (R49, R50). -/
def Site.rosterFall (s : Site) (n : Nat) : Site :=
  if (s.roster.entryAt n).isSome then s.setRoster (s.roster.updateEntry n AxleEntry.retract).newGeneration else s

/-- `k` entries appended for a held opening: crossing time 0, no speed, no gap (R53). -/
def fillAxles : Nat → Site → Site
  | 0, s => s
  | k + 1, s => fillAxles k (s.appendAxle 0#32 none none)

/-- The fill of a held opening: at most 1,024 entries, ROSTER_FULL above (R53). -/
def Site.fillRoster (s : Site) (count : Nat) : Site :=
  (fillAxles (min count 1024) s).addRecordCauseIf (decide (1024 < count)) .rosterFull

/-- A new roster at an opening (R46). -/
def Site.startRoster (s : Site) : Site :=
  s.setRoster
    { s.roster with
      entries := []
      vehicles := []
      serial := s.passage.serial
      standing := .live
      generation := s.roster.generation + 1#16
      net := 0 }

/-- The roster closed at a close: the current vehicle CLOSED, the net axle count taken, FINAL (R60). -/
def Site.finaliseRoster (s : Site) : Site :=
  let u :=
    match s.roster.current with
    | some v => if v.state = VehicleState.opened then s.roster.closeVehicle s.roster.vehicles.length else s.roster
    | none => s.roster
  s.setRoster { u with net := s.gateNet, standing := .final }

/-- The roster at a site reset, its tag counters left to the clearing of counters (R45). -/
def RosterUnit.atReset (u : RosterUnit) : RosterUnit :=
  { u with entries := [], vehicles := [], serial := none, standing := .none, generation := u.generation + 1#16, net := 0 }

/-! ### Tags -/

/-- A tag report as the roster unit takes it: code, tagged end, and whether the read is GOOD (R61, R88). -/
structure TagRead where
  code : TagCode
  taggedEnd : VehicleEnd
  good : Bool
  deriving DecidableEq, Repr

/-- The level of the LIVE entry with a key, as it stands (R63). -/
def Site.levelOf (s : Site) (k : WatchKey) : Option WatchLevel :=
  (s.findKey k).bind (fun i => (s.watchEntry i).map WatchEntry.level)

/-- The watch snapshot of a tag code: index 0 and indexes 1 to 12 (R63). -/
def Site.snapshotOf (s : Site) (code : TagCode) : Vector (Option WatchLevel) 13 :=
  tableMapIdx (fun i _ => s.levelOf ⟨code, i⟩) emptySnapshot

/-- A vehicle whose tag state becomes SINGLE (R62). -/
def Vehicle.takeTag (v : Vehicle) (t : TagRead) (position : Nat) (snapshot : Vector (Option WatchLevel) 13) : Vehicle :=
  { v with
    tagState := .single
    tagCode := some t.code
    taggedEnd := some t.taggedEnd
    readPosition := some position
    snapshot := snapshot }

/-- A vehicle whose tag state becomes CONFLICT (R62). -/
def Vehicle.conflictTag (v : Vehicle) : Vehicle :=
  { v with
    tagState := .conflict
    tagCode := none
    taggedEnd := none
    readPosition := none
    orientation := .unknown
    snapshot := emptySnapshot }

/-- A vehicle made CONFLICT, its entries' axle indexes cleared, TAG_CONFLICT added (R62). -/
def Site.tagConflict (s : Site) (position : Nat) : Site :=
  (s.setRoster ((s.roster.updateVehicle position Vehicle.conflictTag).setIndexes position (fun _ => none))).addRecordCause
    .tagConflict

/-- A tag placed on the vehicle that holds the reference axle (R62, R63, R64). -/
def Site.assignTag (s : Site) (t : TagRead) (e : AxleEntry) : Site :=
  match s.roster.vehicleAt e.vehicle with
  | some v =>
    match v.tagState with
    | .untagged =>
      s.setRoster
        ((s.roster.updateVehicle e.vehicle (fun v => v.takeTag t e.position (s.snapshotOf t.code))).fixOrientation e.vehicle)
    | .single =>
      if v.tagCode = some t.code then
        s.setRoster (s.roster.updateVehicle e.vehicle (fun v => { v with tagState := .confirmed }))
      else s.tagConflict e.vehicle
    | .confirmed => if v.tagCode = some t.code then s else s.tagConflict e.vehicle
    | .conflict => s
  | none => s

/-- A tag report taken by the roster unit, in R61's order. -/
def Site.takeTag (s : Site) (t : TagRead) : Site :=
  let u := s.roster
  let lag := s.latchedSetting .readerLag
  if t.good = false then s.setRoster { u with failedReads := bump u.failedReads }
  else if u.standing ≠ .live then s.setRoster { u with lateTags := bump u.lateTags }
  else if s.gateNet < lag + 1 then s.setRoster { u with earlyTags := bump u.earlyTags }
  else
    match u.entryAt (s.gateNet - lag) with
    | none => s.setRoster { u with unplacedTags := bump u.unplacedTags }
    | some e => s.assignTag t e

/-! ### Sides -/

/-- The side over rail 1 (R66). -/
def sideOverRail1 (d : Dir) (o : Orientation) : Option Side :=
  match d, o with
  | .ab, .end1Leading => some .s1
  | .ab, .end2Leading => some .s2
  | .ba, .end1Leading => some .s2
  | .ba, .end2Leading => some .s1
  | _, .unknown => none

/-- The other side. -/
def Side.flip : Side → Side
  | .s1 => .s2
  | .s2 => .s1

/-- The side over a rail (R66). -/
def sideOver (d : Dir) (o : Orientation) (r : Rail) : Option Side :=
  match r with
  | .one => sideOverRail1 d o
  | .two => (sideOverRail1 d o).map Side.flip

end Sys2Proof
end

