-- ==== Sys2Proof/Machine/Modules.lean ====
section
/-! DEFINITION. The module line controller: ARM and STAND_DOWN, arming states, the arm timer, frames taken, cursors and reports,
health, close and reset (R69 to R90; the arm timer of R23). -/

namespace Sys2Proof

/-! ### Sending -/

/-- Frame code of ARM (R69). -/
def armCode : Byte := 1#8

/-- Frame code of STAND_DOWN (R69). -/
def standDownCode : Byte := 2#8

/-- The direction byte of ARM: 1 AB, 2 BA (R69). -/
def Dir.armByte : Dir → Byte
  | .ab => 1#8
  | .ba => 2#8

/-- A frame given to a line: its module kind, the passage number and the line's send sequence, which rises (R71). -/
def ModuleLine.give (l : ModuleLine) (n : Nat) (passage : Word16) (code : Byte) (payload : List Byte) : ModuleLine :=
  { l with
    sendSeq := l.sendSeq + 1#16
    sending := l.sending ++
      [ModuleFrame.make (BitVec.ofNat 8 (lineKindOf n).frameByte) passage l.sendSeq code payload] }

/-- Every module line changed by a function of its index. -/
def Site.mapLines (s : Site) (f : Nat → ModuleLine → ModuleLine) : Site :=
  s.setModules { s.modules with lines := tableMapIdx f s.modules.lines }

/-- The current passage number, or 0 while absent (R72). -/
def Site.passageWord (s : Site) : Word16 := s.modules.passageNumber.getD 0#16

/-- The module has been armed for its passage: ARMING, READY or MISSING (R70, R78). -/
def ModuleLine.inPassage (l : ModuleLine) : Bool := l.arming == .arming || l.arming == .ready || l.arming == .missing

/-- STAND_DOWN sent on each line of a fitted module (R24, R43, R71). -/
def Site.sendStandDown (s : Site) : Site :=
  s.mapLines (fun n l => if s.fitted n then l.give n s.passageWord standDownCode [] else l)

/-- A module stood down (R78). -/
def ModuleLine.standDown (l : ModuleLine) : ModuleLine := if l.inPassage then { l with arming := .idle } else l

/-- The modules stood down without a close at the arm timeout (R24, R78). -/
def Site.standDownModules (s : Site) : Site := s.sendStandDown.mapLines (fun _ l => l.standDown)

/-- A module line armed or left out for a new passage, before ARM is sent (R73). -/
def ModuleLine.arm (l : ModuleLine) (fitted : Bool) : ModuleLine :=
  { l with
    arming := if fitted then .arming else .notFitted
    cursor := 0
    beyond := 0
    expected := 1#16
    crcTally := 0#16
    orphanTally := 0#16 }

/-- ARM sent for a new passage (R73). -/
def Site.sendArm (s : Site) (d : Dir) : Site :=
  s.setModules
    { s.modules with
      lines := tableMapIdx
        (fun n l =>
          if s.fitted n then (l.arm true).give n s.passageWord armCode [d.armByte] else l.arm false)
        s.modules.lines
      reversed := false
      ambient := none }

/-! ### The arm timer -/

/-- The five timers of the passage controller replaced. -/
def Site.setTimers (s : Site) (t : PassageTimers) : Site := s.setPassage { s.passage with timers := t }

/-- Every module in the latched MODULES_FITTED has answered READY (R23). -/
def Site.allReady (s : Site) : Bool :=
  (List.finRange 8).all (fun n => !s.fitted n.val || (s.line n).arming == .ready)

/-- No module is in the latched MODULES_FITTED (R23, R73). -/
def Site.nothingFitted (s : Site) : Bool := (List.range 8).all (fun n => !s.fitted n)

/-- ARMING becomes ARMED and the arm timeout starts, unless an opening is held (R23, R31). -/
def Site.becomeArmed (s : Site) : Site :=
  if s.passage.phase = .arming then
    s.setPassage
      { s.passage with
        phase := .armed
        timers := { s.passage.timers with armTimeout := if s.passage.held then none else some s.now } }
  else s

/-- The arm timer stopped. -/
def Site.stopArmTimer (s : Site) : Site := s.setTimers { s.passage.timers with arm := none }

/-- The arm timer started at the sending of ARM; with nothing fitted it does not start (R23). -/
def Site.startArmTimer (s : Site) : Site :=
  if s.nothingFitted then s else s.setTimers { s.passage.timers with arm := some s.now }

/-- A READY reported to the passage controller while the arm timer runs (R23). -/
def Site.readyReported (s : Site) : Site :=
  if s.passage.timers.arm.isSome && s.allReady then s.stopArmTimer.becomeArmed else s

/-- A module that has not answered made MISSING (R76). -/
def ModuleLine.giveUp (l : ModuleLine) : ModuleLine := if l.arming = .arming then { l with arming := .missing } else l

/-- Every module still ARMING made MISSING (R76). -/
def Site.giveUpModules (s : Site) : Site := s.mapLines (fun _ l => l.giveUp)

/-- The arm timer's expiry (R23, R76). -/
def Site.armExpiry (s : Site) : Site := s.giveUpModules.stopArmTimer.becomeArmed

/-- The arm timer at a close: if it runs it stops, and the modules that have not answered are made MISSING (R23, R76). -/
def Site.armTimerAtClose (s : Site) : Site := if s.passage.timers.arm.isSome then s.giveUpModules.stopArmTimer else s

/-! ### Close and health -/

/-- The health of a fitted module after a close (R79). -/
def ModuleLine.healthAfter (l : ModuleLine) : ModuleHealth :=
  if 0 < l.orphanTally.toNat ∨ 8 < l.crcTally.toNat then .suspect
  else if l.arming = .ready then .inService
  else l.health

/-- The last-close outcome an arming state gives (R77). -/
def ModuleLine.closeOutcome (l : ModuleLine) : Option LastClose :=
  match l.arming with
  | .ready => some .ready
  | .missing => some .missing
  | .notFitted => some .notFitted
  | .idle | .arming => l.lastClose

/-- A module line at the close of its passage (R77, R79). -/
def ModuleLine.atClose (l : ModuleLine) (fitted : Bool) : ModuleLine :=
  { l with
    health := if fitted then l.healthAfter else l.health
    lastClose := l.closeOutcome
    arming := if l.arming = .ready ∨ l.arming = .missing then .idle else l.arming }

/-- Some fitted module is MISSING (R77). -/
def Site.someMissing (s : Site) : Bool :=
  (List.finRange 8).any (fun n => s.fitted n.val && (s.line n).arming == .missing)

/-- Some fitted module goes from IN_SERVICE to SUSPECT at this close (R79). -/
def Site.someSuspect (s : Site) : Bool :=
  (List.finRange 8).any
    (fun n => s.fitted n.val && (s.line n).health == .inService && (s.line n).healthAfter == .suspect)

/-- The passage completed for every module, as part of the close (R77, R79). -/
def Site.completeModules (s : Site) : Site :=
  let s1 := (s.addRecordCauseIf s.someMissing .moduleMissing).raiseIf s.someMissing .moduleMissing
  (s1.raiseIf s.someSuspect .moduleSuspect).mapLines (fun n l => l.atClose (s.fitted n))

/-- The modules that are SUSPECT, as handed to the judgment unit: bit n for module n + 1 (R77). -/
def Site.suspectSet (s : Site) : BitVec 8 :=
  (List.finRange 8).foldl (fun b n => if (s.line n).health = .suspect then setAdd b n.val else b) 0#8

/-! ### Site reset -/

/-- A module line at a site reset, its STAND_DOWN sent before (R71, R78, R90). Its receiver stands: the model's choice, log 9. -/
def ModuleLine.atReset (l : ModuleLine) (fittedNow : Bool) : ModuleLine :=
  { ModuleLine.coldStart (if fittedNow then .idle else .notFitted) with
    sendSeq := l.sendSeq, sending := l.sending, receiver := l.receiver }

/-- A module is in the working MODULES_FITTED (chapter 4, Arming states). -/
def Site.fittedNow (s : Site) (n : Nat) : Bool := (BitVec.ofNat 8 (s.setting .modulesFitted)).getLsbD n

/-- The module line controller at a site reset: STAND_DOWN to every module armed for a passage, then every line as R78 gives. -/
def Site.resetModules (s : Site) : Site :=
  s.setModules
    { lines := tableMapIdx
        (fun n l =>
          (if l.inPassage then l.give n s.passageWord standDownCode [] else l).atReset (s.fittedNow n))
        s.modules.lines
      passageNumber := none
      reversed := false
      ambient := none }

/-! ### Frames taken -/

/-- A stale frame, after the CRC and form checks (R72). -/
def Site.stale (s : Site) (n : Fin 8) (f : ModuleFrame) : Bool :=
  s.modules.passageNumber != some f.passage || (s.line n).arming == .notFitted ||
    ((s.line n).arming == .idle && (f.code == readyCode || lineKind n != .tagReader))

/-- A bad CRC counted, with the passage CRC tally of a module armed for a passage (R70). -/
def ModuleLine.crcError (l : ModuleLine) : ModuleLine :=
  { l with crcErrors := bump l.crcErrors, crcTally := if l.inPassage then bump l.crcTally else l.crcTally }

/-- A malformed frame counted (R69, R70). -/
def ModuleLine.malformedFrame (l : ModuleLine) : ModuleLine := { l with malformed := bump l.malformed }

/-- A stale frame counted (R70). -/
def ModuleLine.staleFrame (l : ModuleLine) : ModuleLine := { l with stale := bump l.stale }

/-- The receiver of a line set. -/
def ModuleLine.receive (l : ModuleLine) (r : Receiver) : ModuleLine := { l with receiver := r }

/-- A module line changed. -/
def Site.updateLine (s : Site) (n : Fin 8) (f : ModuleLine → ModuleLine) : Site := s.putLine n (f (s.line n))

/-- A frame taken whole: the checks of R70 in order, then the frame taken by its kind. While LOADING the receivers take no
bytes and nothing is counted (R69); in HELD likewise (R224). -/
def Site.takeFrame (s : Site) (n : Fin 8) (f : ModuleFrame) (take : Site → Site) : Site :=
  if s.mode ≠ .running then s
  else
    let s1 := s.updateLine n (fun l => l.receive .hunting)
    if crcOk f = false then s1.updateLine n ModuleLine.crcError
    else if formOk n f = false then s1.updateLine n ModuleLine.malformedFrame
    else if s1.stale n f then s1.updateLine n ModuleLine.staleFrame
    else take s1

/-- The line's arming state set. -/
def ModuleLine.becomeReady (l : ModuleLine) : ModuleLine := { l with arming := .ready }

/-- The passage ambient a READY sets: the ambient unit's temperature when it lies in range (R74). -/
def readyAmbient (n : Fin 8) (payload : List Byte) : Option Int :=
  if lineKind n = .ambientUnit ∧ payload.length = 2 ∧ -600 ≤ intAt payload 0 2 ∧ intAt payload 0 2 ≤ 2500 then
    some (intAt payload 0 2)
  else none

/-- The module READY, with the passage ambient from the ambient unit (R74). -/
def Site.moduleReady (s : Site) (n : Fin 8) (payload : List Byte) : Site :=
  let s1 := s.updateLine n ModuleLine.becomeReady
  if lineKind n = .ambientUnit then s1.setModules { s1.modules with ambient := readyAmbient n payload } else s1

/-- A READY taken by the arming state, or a REPORT taken first as a READY (R74, R75). -/
def Site.takeReady (s : Site) (n : Fin 8) (payload : List Byte) : Site :=
  match (s.line n).arming with
  | .arming => (s.moduleReady n payload).readyReported
  | .missing => (s.moduleReady n payload).addCause .lateModule
  | .ready | .idle | .notFitted => s

/-! ### Cursors -/

/-- The roster length of the cursor rules (R80). -/
def Site.rosterLen (s : Site) : Nat := if s.passageOpen then s.roster.entries.length else 0

/-- The net axle count of the cursor rules (R80). -/
def Site.netAxles (s : Site) : Nat := if s.passageOpen || s.passage.held then s.gateNet else 0

/-- One missing crossing (R82). A cursor below the roster length rises without a test of the net axle count (log 45). -/
def Site.missingCrossing (s : Site) (n : Fin 8) : Site :=
  let l := { s.line n with missingReports := bump (s.line n).missingReports }
  if l.cursor < s.rosterLen then s.putLine n { l with cursor := l.cursor + 1 }
  else if l.cursor + l.beyond + 1 ≤ s.netAxles then s.putLine n { l with beyond := l.beyond + 1 }
  else s.putLine n l

/-- The missing crossings before a report (R81, R82). -/
def Site.missingCrossings (n : Fin 8) : Nat → Site → Site
  | 0, s => s
  | k + 1, s => missingCrossings n k (s.missingCrossing n)

/-- A REV report: the place moves back, marking the entry the cursor names (R83). -/
def Site.reverseReport (s : Site) (n : Fin 8) : Site :=
  let l := s.line n
  if 0 < l.beyond then s.putLine n { l with beyond := l.beyond - 1 }
  else if 0 < l.cursor then
    (s.setRoster (s.roster.updateEntry l.cursor AxleEntry.markReversed)).putLine n { l with cursor := l.cursor - 1 }
  else s

/-- The values of a report, checked (R87). -/
inductive ReportValues where
  | bay (rail1 rail2 : BayValue)
  | bearing (value : BearingValue)
  deriving DecidableEq, Repr

/-- The quality a code names (R69). -/
def qualityOf (code : Nat) : Option Quality :=
  match code with
  | 1 => some .good
  | 2 => some .noisy
  | 3 => some .clipped
  | 4 => some .failed
  | _ => none

/-- A bay rail's value from byte `i` of the payload: peak, mean, quality (R87). -/
def bayRail (payload : List Byte) (i : Nat) : BayValue :=
  let peak := natAt payload i 2
  let mean := natAt payload (i + 2) 2
  match qualityOf (natAt payload (i + 4) 1) with
  | none | some .failed => .failed
  | some q => if peak ≤ 10000 ∧ mean ≤ 10000 then .forces peak mean q else .failed

/-- A scanner's value: temperature, quality (R87). -/
def scannerValue (payload : List Byte) : BearingValue :=
  let t := intAt payload 1 2
  let inRange := decide (-600 ≤ t) && decide (t ≤ 2500)
  match natAt payload 3 1, inRange with
  | 1, true => .temp t .good
  | 2, true => .temp t .noisy
  | _, _ => .failed

/-- The values a report carries, by the kind of its module (R69, R87). -/
def reportValues (n : Fin 8) (payload : List Byte) : ReportValues :=
  if lineKind n = .bay then .bay (bayRail payload 1) (bayRail payload 6) else .bearing (scannerValue payload)

/-- A report's values attached to an entry that holds none from this module, else its re-crossing count raised, held at 15
(R54, R84). A reason NOT_FITTED stands (R47). -/
def AxleEntry.take (e : AxleEntry) (n : Fin 8) (v : ReportValues) : AxleEntry :=
  let again : AxleEntry :=
    if h : n.val < 6 then { e with recross := e.recross.set n.val (min 15 (e.recross[n.val] + 1)) } else e
  match v with
  | .bay r1 r2 =>
    if h : n.val < 4 then
      match e.bays[n.val].rail1 with
      | .unmeasured .missing => { e with bays := e.bays.set n.val ⟨r1, r2⟩ }
      | .unmeasured _ => e
      | .forces _ _ _ | .failed => again
    else e
  | .bearing b =>
    if h : n.val - 4 < 2 then
      match e.bearings[n.val - 4] with
      | .unmeasured .missing => { e with bearings := e.bearings.set (n.val - 4) b }
      | .unmeasured _ => e
      | .temp _ _ | .failed => again
    else e

/-- An orphan counted, with its tally (R84). -/
def ModuleLine.orphan (l : ModuleLine) : ModuleLine :=
  { l with orphans := bump l.orphans, orphanTally := bump l.orphanTally }

/-- A FWD report (R84). Its first case has no test of the net axle count, so a place advances onto RETRACTED entries (log 45). -/
def Site.forwardReport (s : Site) (n : Fin 8) (v : ReportValues) : Site :=
  let l := s.line n
  if l.beyond = 0 ∧ l.cursor + 1 ≤ s.rosterLen then
    (s.putLine n { l with cursor := l.cursor + 1 }).setRoster
      (s.roster.updateEntry (l.cursor + 1) (fun e => e.take n v))
  else if l.cursor + l.beyond + 1 ≤ s.netAxles then s.putLine n { l with beyond := l.beyond + 1 }
  else (s.updateLine n ModuleLine.orphan).addCause .orphanReports

/-- The report calls its crossing forward, after the direction-reversed mark (R86). -/
def Site.isForward (s : Site) (payload : List Byte) : Bool := (natAt payload 0 1 == 1) != s.modules.reversed

/-- A bay or scanner report taken by its direction (R83, R84). -/
def Site.placeReport (s : Site) (n : Fin 8) (payload : List Byte) : Site :=
  if s.isForward payload then s.forwardReport n (reportValues n payload) else s.reverseReport n

/-- The expected sequence after a report is taken (R81). -/
def ModuleLine.expectAfter (l : ModuleLine) (sequence : Word16) : ModuleLine := { l with expected := sequence + 1#16 }

/-- A frame out of sequence counted (R81). -/
def ModuleLine.outOfOrder (l : ModuleLine) : ModuleLine := { l with outOfSequence := bump l.outOfSequence }

/-- A bay or scanner report: its sequence checked, missing crossings taken, then placed (R81). -/
def Site.takeReport (s : Site) (n : Fin 8) (f : ModuleFrame) : Site :=
  let d := (f.sequence - (s.line n).expected).toNat
  if d ≤ 4096 then
    ((Site.missingCrossings n d s).placeReport n f.payload).updateLine n (fun l => l.expectAfter f.sequence)
  else s.updateLine n ModuleLine.outOfOrder

/-- A tag report's payload as the roster unit takes it (R88). -/
def tagReadOf (payload : List Byte) : TagRead :=
  { code := BitVec.ofNat 64 (natAt payload 0 8)
    taggedEnd := if natAt payload 8 1 = 2 then .two else .one
    good := (natAt payload 8 1 == 1 || natAt payload 8 1 == 2) && natAt payload 9 1 == 1 }

end Sys2Proof
end

