-- ==== Sys2Proof/Machine/Loads.lean ====
section
/-! DEFINITION. The load and impact quantities of chapter 5, as functions of the FINAL roster, the latched settings and the
health handed at the close (R92 to R109). -/

namespace Sys2Proof

/-- The number of a measured quantity. -/
def Measure.number : Measure → Option Int
  | .value v => some v
  | .unmeasured _ => none

/-- The quantity is measured. -/
def Measure.measured (m : Measure) : Bool := m.number.isSome

/-- A quantity of two others: formed when both are measured, else with the first one's reason, else the second's (R99, R101,
R119). -/
def Measure.both (a b : Measure) (f : Int → Int → Int) : Measure :=
  match a, b with
  | .value x, .value y => .value (f x y)
  | .unmeasured r, _ => .unmeasured r
  | .value _, .unmeasured r => .unmeasured r

/-- A quantity formed from another, keeping its reason (R102, R105, R106). -/
def Measure.map (m : Measure) (f : Int → Int) : Measure :=
  match m with
  | .value x => .value (f x)
  | .unmeasured r => .unmeasured r

/-- The sum of numbers. -/
def intSum (xs : List Int) : Int := xs.foldl (· + ·) 0

/-- The sum of measured quantities, or none when one of them is unmeasured. -/
def sumMeasured : List Measure → Option Int
  | [] => some 0
  | .value v :: ms => (sumMeasured ms).map (v + ·)
  | .unmeasured _ :: _ => none

/-- An entry that counts as PRESENT (R52, R94). -/
def AxleEntry.isPresent (e : AxleEntry) : Bool := e.state == .present

/-- A speed inside a band, both ends included; an absent speed is outside (R96, R114). -/
def inBand (speed : Option Nat) (low high : Nat) : Bool := speed.any (fun v => decide (low ≤ v) && decide (v ≤ high))

/-- 1,000 times a part over a whole, rounded, and 0 when the whole is 0 (R102, R105, R106). -/
def perMille (part whole : Int) : Int := if whole = 0 then 0 else roundDiv (1000 * part) whole

/-! ### Effective quality -/

/-- The mean a bay value gives to a load: effective quality GOOD (R95). -/
def BayValue.goodMean (v : BayValue) (suspect : Bool) : Option Nat :=
  match v with
  | .forces _ mean .good => if suspect then none else some mean
  | .forces _ _ _ | .failed | .unmeasured _ => none

/-- The peak a bay value gives to an impact: effective quality GOOD, NOISY or CLIPPED (R95, R98). -/
def BayValue.usablePeak : BayValue → Option Nat
  | .forces _ _ .failed => none
  | .forces peak _ _ => some peak
  | .failed | .unmeasured _ => none

/-- A bay's value for a rail. -/
def BayPair.on (p : BayPair) : Rail → BayValue
  | .one => p.rail1
  | .two => p.rail2

/-- The four bay values of an entry for one rail, each with its bay's SUSPECT mark (R95). -/
def AxleEntry.railValues (e : AxleEntry) (suspect : BitVec 8) (r : Rail) : List (BayValue × Bool) :=
  mapFrom (fun n p => (BayPair.on p r, suspect.getLsbD n)) 0 e.bays.toList

/-! ### Wheels -/

/-- The greatest of some numbers. -/
def greatest : List Nat → Option Nat
  | [] => none
  | x :: xs => some (xs.foldl max x)

/-- The wheel load of a wheel inside the band (R97). -/
def wheelLoad (means : List Nat) (minGood : Nat) : Measure :=
  if minGood ≤ means.length then .value (roundDiv (means.foldl (· + ·) 0 : Nat) means.length) else .unmeasured .tooFew

/-- The wheel impact of a wheel inside the band (R98). -/
def wheelImpact (values : List BayValue) : Measure :=
  match greatest (values.filterMap BayValue.usablePeak) with
  | some p => .value p
  | none => if values.all (fun v => v == .unmeasured .notFitted) then .unmeasured .notFitted else .unmeasured .missing

/-- The impact excess (R99). -/
def impactExcess (impact load : Measure) : Measure := impact.both load (fun i l => max 0 (i - l))

/-- The impact ratio (R100). -/
def impactRatio (impact load : Measure) : Measure :=
  impact.both load
    (fun i l => if l = 0 then (if 0 < i then 10000 else 0) else min 10000 (roundDiv (1000 * i) l))

/-- The load quantities of a wheel; those of chapter 6 are filled in by Bearings.lean. -/
structure WheelLoads where
  load : Measure
  impact : Measure
  excess : Measure
  ratio : Measure
  deriving DecidableEq, Repr

/-- Every quantity unmeasured with one reason. -/
def WheelLoads.unmeasured (r : Reason) : WheelLoads := ⟨.unmeasured r, .unmeasured r, .unmeasured r, .unmeasured r⟩

/-- The load speed band holds an entry's speed (R96). -/
def inLoadBand (b : SettingsBlock) (e : AxleEntry) : Bool := inBand e.speed (b.nat .loadSpeedMin) (b.nat .loadSpeedMax)

/-- The load quantities of one wheel of an entry (R94 to R100). -/
def wheelLoads (b : SettingsBlock) (suspect : BitVec 8) (e : AxleEntry) (r : Rail) : WheelLoads :=
  if e.isPresent = false then .unmeasured .retracted
  else if inLoadBand b e = false then .unmeasured .outOfBand
  else
    let vs := e.railValues suspect r
    let load := wheelLoad (vs.filterMap (fun p => p.1.goodMean p.2)) (b.nat .minGoodBays)
    let impact := wheelImpact (vs.map Prod.fst)
    ⟨load, impact, impactExcess impact load, impactRatio impact load⟩

/-! ### Axles and vehicles -/

/-- The axle load (R101). -/
def axleLoad (load1 load2 : Measure) : Measure := load1.both load2 (· + ·)

/-- The axle side split (R102). -/
def axleSideSplit (load1 load2 : Measure) : Measure :=
  (axleLoad load1 load2).both (load1.both load2 (fun a b => ((a - b).natAbs : Int))) (fun whole d => perMille d whole)

/-- The run of a vehicle in a list ordered by ordinal (chapter 5, Vehicle quantities). -/
def Vehicle.run {α : Type} (v : Vehicle) (xs : List α) : List α := (xs.drop (v.firstOrdinal - 1)).take v.axleCount

/-- A vehicle holds at least one PRESENT entry (R107, R133). -/
def Vehicle.holdsPresent (v : Vehicle) (entries : List AxleEntry) : Bool := (v.run entries).any AxleEntry.isPresent

/-- The vehicle load over the axle loads of its run (R104). -/
def vehicleLoad (run : List AxleEntry) (loads : List Measure) : Measure :=
  if run.all AxleEntry.isPresent = false then .unmeasured .partialItem
  else
    match sumMeasured loads with
    | some total => .value total
    | none => .unmeasured .tooFew

/-- The numbers of measured quantities. -/
def numbersOf (ms : List Measure) : List Int := ms.filterMap Measure.number

/-- The vehicle end split over the axle loads of its run (R105). -/
def vehicleEndSplit (load : Measure) (loads : List Measure) : Measure :=
  let half := loads.length / 2
  let front := intSum (numbersOf (loads.take half))
  let rear := intSum (numbersOf (loads.drop (loads.length - half)))
  load.map (fun whole => perMille (front - rear).natAbs whole)

/-- The vehicle side split over the wheel loads of its run (R106). -/
def vehicleSideSplit (load : Measure) (loads1 loads2 : List Measure) : Measure :=
  let d := intSum (numbersOf loads1) - intSum (numbersOf loads2)
  load.map (fun whole => perMille d.natAbs whole)

/-! ### Train -/

/-- The reason of the first unmeasured quantity. -/
def firstReason : List Measure → Option Reason
  | [] => none
  | .value _ :: ms => firstReason ms
  | .unmeasured r :: _ => some r

/-- The train load (R107): `loads` are the vehicle loads of the vehicles that hold a PRESENT axle, in position order. -/
def trainLoad (net : Nat) (entries : List AxleEntry) (loads : List Measure) : Measure :=
  if entries.length < net then .unmeasured .partialItem
  else if loads = [] then (if entries = [] then .unmeasured .missing else .unmeasured .retracted)
  else
    match firstReason loads with
    | some r => .unmeasured r
    | none => .value (intSum (numbersOf loads))

/-- The train speed (R108). -/
def trainSpeed (entries : List AxleEntry) : Measure :=
  match greatest ((entries.filter AxleEntry.isPresent).filterMap AxleEntry.speed) with
  | some v => .value v
  | none => .unmeasured .missing

end Sys2Proof
end

