-- ==== Sys2Proof/Machine/Bearings.lean ====
section
/-! DEFINITION. The bearing quantities of chapter 6 (R111 to R122), and the working set of a composition, which joins them to
the quantities of chapter 5. -/

namespace Sys2Proof

/-- The bearing value of an entry for a rail: module 5 serves rail 1, module 6 rail 2 (R115). -/
def AxleEntry.bearing (e : AxleEntry) : Rail → BearingValue
  | .one => e.bearings[0]
  | .two => e.bearings[1]

/-- The heat speed band holds an entry's speed (R114). -/
def inHeatBand (b : SettingsBlock) (e : AxleEntry) : Bool := inBand e.speed (b.nat .heatSpeedMin) (b.nat .heatSpeedMax)

/-- The bearing temperature of a wheel inside the band (R115, R116); GOOD and NOISY serve alike, so health plays no part. -/
def bearingTempOf : BearingValue → Measure
  | .temp _ .clipped => .unmeasured .missing
  | .temp _ .failed => .unmeasured .missing
  | .temp t _ => .value t
  | .failed => .unmeasured .missing
  | .unmeasured .notFitted => .unmeasured .notFitted
  | .unmeasured _ => .unmeasured .missing

/-- A bearing quantity of an entry: RETRACTED, OUT_OF_BAND, or as formed inside the band (R113, R114). -/
def inHeat (b : SettingsBlock) (e : AxleEntry) (formed : Measure) : Measure :=
  if e.isPresent = false then .unmeasured .retracted
  else if inHeatBand b e = false then .unmeasured .outOfBand
  else formed

/-- The bearing temperature of a wheel (R113 to R116). -/
def bearingTemp (b : SettingsBlock) (e : AxleEntry) (r : Rail) : Measure := inHeat b e (bearingTempOf (e.bearing r))

/-- The bearing rise of a wheel (R118). -/
def bearingRise (b : SettingsBlock) (ambient : Option Int) (e : AxleEntry) (r : Rail) : Measure :=
  inHeat b e
    (match ambient with
     | none => .unmeasured .noAmbient
     | some a => (bearingTemp b e r).map (fun t => t - a))

/-- The bearing cross difference of an axle (R119). -/
def bearingCross (b : SettingsBlock) (e : AxleEntry) : Measure :=
  (bearingTemp b e .one).both (bearingTemp b e .two) (fun x y => ((x - y).natAbs : Int))

/-- The train mean of a rail (R120). -/
def trainMean (b : SettingsBlock) (entries : List AxleEntry) (r : Rail) : Option Int :=
  let ts := numbersOf (entries.map (fun e => bearingTemp b e r))
  if b.nat .trainMeanMin ≤ ts.length then some (roundDiv (intSum ts) ts.length) else none

/-- The bearing train excess of a wheel (R121). -/
def wheelTrainExcess (b : SettingsBlock) (mean : Option Int) (e : AxleEntry) (r : Rail) : Measure :=
  match bearingTemp b e r, mean with
  | .unmeasured q, _ => .unmeasured q
  | .value _, none => .unmeasured .tooFew
  | .value t, some m => .value (t - m)

/-- The bearing train excess of an axle: the greater of its wheels', the measured one, or the rail 1 wheel's reason (R121). -/
def axleTrainExcess (x1 x2 : Measure) : Measure :=
  match x1, x2 with
  | .value a, .value b => .value (max a b)
  | .value a, .unmeasured _ => .value a
  | .unmeasured _, .value b => .value b
  | .unmeasured r, .unmeasured _ => .unmeasured r

/-! ### The working set -/

/-- What a derivation works from, beside the roster (R92, R111). -/
structure DeriveInputs where
  latched : SettingsBlock
  suspect : BitVec 8
  ambient : Option Int
  mean1 : Option Int
  mean2 : Option Int
  deriving DecidableEq, Repr

/-- A rail's train mean among the inputs. -/
def DeriveInputs.mean (i : DeriveInputs) : Rail → Option Int
  | .one => i.mean1
  | .two => i.mean2

/-- The quantities of one wheel (chapters 5 and 6). -/
def deriveWheel (i : DeriveInputs) (e : AxleEntry) (r : Rail) : WheelQuantities :=
  let w := wheelLoads i.latched i.suspect e r
  { load := w.load, impact := w.impact, excess := w.excess, ratio := w.ratio
    temp := bearingTemp i.latched e r
    rise := bearingRise i.latched i.ambient e r
    trainExcess := wheelTrainExcess i.latched (i.mean r) e r }

/-- The quantities of one axle entry (chapters 5 and 6). -/
def deriveAxle (i : DeriveInputs) (e : AxleEntry) : AxleQuantities :=
  let w1 := deriveWheel i e .one
  let w2 := deriveWheel i e .two
  { wheel1 := w1
    wheel2 := w2
    load := axleLoad w1.load w2.load
    sideSplit := axleSideSplit w1.load w2.load
    cross := bearingCross i.latched e
    trainExcess := axleTrainExcess w1.trainExcess w2.trainExcess }

/-- The quantities of one vehicle (R104 to R106). -/
def deriveVehicle (entries : List AxleEntry) (axles : List AxleQuantities) (v : Vehicle) : VehicleQuantities :=
  let run := v.run axles
  let load := vehicleLoad (v.run entries) (run.map AxleQuantities.load)
  { load := load
    endSplit := vehicleEndSplit load (run.map AxleQuantities.load)
    sideSplit := vehicleSideSplit load (run.map (fun q => q.wheel1.load)) (run.map (fun q => q.wheel2.load)) }

/-- The whole derivation (R92, R111). -/
def derive (latched : SettingsBlock) (suspect : BitVec 8) (ambient : Option Int) (u : RosterUnit) : Derived :=
  let i : DeriveInputs :=
    { latched := latched, suspect := suspect, ambient := ambient
      mean1 := trainMean latched u.entries .one
      mean2 := trainMean latched u.entries .two }
  let axles := u.entries.map (deriveAxle i)
  let vehicles := u.vehicles.map (deriveVehicle u.entries axles)
  let inSum := (u.vehicles.zip vehicles).filter (fun p => p.1.holdsPresent u.entries)
  { axles := axles
    vehicles := vehicles
    trainLoad := trainLoad u.net u.entries (inSum.map (fun p => p.2.load))
    trainSpeed := trainSpeed u.entries
    mean1 := i.mean1
    mean2 := i.mean2 }

/-- The empty working set, before the derivation. -/
def Derived.empty : Derived :=
  { axles := [], vehicles := [], trainLoad := .unmeasured .missing, trainSpeed := .unmeasured .missing, mean1 := none,
    mean2 := none }

end Sys2Proof
end

