-- ==== Sys2Proof/Machine/Judge.lean ====
section
/-! DEFINITION. Criteria tested, findings made, selected and weighed, and the contributions they give (R131 to R142). -/

namespace Sys2Proof

/-! ### Thresholds -/

/-- A watch level that counts for a watched threshold (R131). -/
def countsWatched : Option WatchLevel → Bool
  | some .restrict | some .withdraw => true
  | some .observe | none => false

/-- A snapshot's level at an index, none outside 0 to 12. -/
def Vehicle.levelAt (v : Vehicle) (i : Nat) : Option WatchLevel := if h : i < 13 then v.snapshot[i] else none

/-- The threshold kind for a wheel or an axle (R131). -/
def axleThreshold (v : Vehicle) (e : AxleEntry) : ThresholdKind :=
  if countsWatched (v.levelAt 0) || e.axleIndex.any (fun i => countsWatched (v.levelAt i)) then .watched else .normal

/-- The threshold kind for a vehicle (R131). -/
def vehicleThreshold (v : Vehicle) : ThresholdKind :=
  if v.snapshot.toList.any countsWatched then .watched else .normal

/-- The threshold of a kind (R131). -/
def Criterion.threshold (c : Criterion) : ThresholdKind → Int
  | .normal => c.normal
  | .watched => c.watched

/-- A predicate met by a value against a threshold (R127). -/
def Predicate.met (p : Predicate) (v t : Int) : Bool :=
  match p with
  | .ge => decide (t ≤ v)
  | .gt => decide (t < v)
  | .le => decide (v ≤ t)
  | .lt => decide (v < t)

/-! ### Findings -/

/-- What a finding says of its item, before a value and a state (R135). -/
structure Item where
  vehicle : Option Nat
  ordinal : Option Nat
  rail : Option Rail
  side : Option Side
  index : Option FindingIndex
  threshold : ThresholdKind
  deriving DecidableEq, Repr

/-- A finding of a criterion on an item (R134, R135). -/
def Item.finding (i : Item) (n : Fin 24) (c : Criterion) (m : Measure) (state : FindingState) : Finding :=
  { number := 0, kind := .criterion n, vehicle := i.vehicle, ordinal := i.ordinal, rail := i.rail, side := i.side,
    index := i.index, measure := some m, threshold := i.threshold, grade := c.grade, state := state, resolvedGrade := none }

/-- One test of a criterion against an item (R134). -/
def testItem (n : Fin 24) (c : Criterion) (i : Item) (m : Measure) : Option Finding :=
  match m with
  | .value v => if c.predicate.met v (c.threshold i.threshold) then some (i.finding n c m .final) else none
  | .unmeasured _ =>
    match c.treatment with
    | .ignore => none
    | .meet => some (i.finding n c m .final)
    | .defer => some (i.finding n c m .deferred)

/-- The axle index of a finding with its basis (R135). -/
def findingIndex (e : AxleEntry) : FindingIndex :=
  match e.axleIndex with
  | some i => { index := i, basis := .fromEnd1 }
  | none => { index := e.position, basis := .fromLeading }

/-- A wheel's item (R131, R135). -/
def wheelItem (d : Dir) (v : Vehicle) (e : AxleEntry) (r : Rail) : Item :=
  { vehicle := some e.vehicle, ordinal := some e.ordinal, rail := some r, side := sideOver d v.orientation r,
    index := some (findingIndex e), threshold := axleThreshold v e }

/-- An axle's item (R131, R135). -/
def axleItem (v : Vehicle) (e : AxleEntry) : Item :=
  { vehicle := some e.vehicle, ordinal := some e.ordinal, rail := none, side := none, index := some (findingIndex e),
    threshold := axleThreshold v e }

/-- A vehicle's item (R131, R135). -/
def vehicleItem (v : Vehicle) : Item :=
  { vehicle := some v.position, ordinal := none, rail := none, side := none, index := none, threshold := vehicleThreshold v }

/-- The train's item (R131, R135). -/
def trainItem : Item :=
  { vehicle := none, ordinal := none, rail := none, side := none, index := none, threshold := .normal }

/-- A wheel's value of a quantity of wheel scope (R127). -/
def WheelQuantities.of (w : WheelQuantities) : QuantityName → Measure
  | .wheelLoad => w.load
  | .wheelImpact => w.impact
  | .impactExcess => w.excess
  | .impactRatio => w.ratio
  | .bearingTemp => w.temp
  | .bearingRise => w.rise
  | _ => .unmeasured .missing

/-- An axle's value of a quantity of axle scope (R127). -/
def AxleQuantities.of (a : AxleQuantities) : QuantityName → Measure
  | .axleLoad => a.load
  | .axleSideSplit => a.sideSplit
  | .bearingCross => a.cross
  | .bearingTrainExcess => a.trainExcess
  | _ => .unmeasured .missing

/-- A vehicle's value of a quantity of vehicle scope (R127). -/
def VehicleQuantities.of (q : VehicleQuantities) : QuantityName → Measure
  | .vehicleLoad => q.load
  | .vehicleEndSplit => q.endSplit
  | .vehicleSideSplit => q.sideSplit
  | _ => .unmeasured .missing

/-- The train's value of a quantity of train scope (R127). -/
def Derived.of (q : Derived) : QuantityName → Measure
  | .trainLoad => q.trainLoad
  | .trainSpeed => q.trainSpeed
  | _ => .unmeasured .missing

/-- What the tests read: the direction of the record, the FINAL roster, the working set (R133). -/
structure JudgeInputs where
  direction : Dir
  roster : RosterUnit
  derived : Derived
  deriving DecidableEq, Repr

/-- The PRESENT entries with their quantities, in ordinal order (R133). -/
def JudgeInputs.axles (j : JudgeInputs) : List (AxleEntry × AxleQuantities) :=
  (j.roster.entries.zip j.derived.axles).filter (fun p => p.1.isPresent)

/-- The vehicles that hold a PRESENT entry, with their quantities, in position order (R133). -/
def JudgeInputs.vehicles (j : JudgeInputs) : List (Vehicle × VehicleQuantities) :=
  (j.roster.vehicles.zip j.derived.vehicles).filter (fun p => p.1.holdsPresent j.roster.entries)

/-- The findings of a wheel criterion on both wheels of an entry (R133). -/
def testWheels (j : JudgeInputs) (n : Fin 24) (c : Criterion) (p : AxleEntry × AxleQuantities) : List Finding :=
  match j.roster.vehicleAt p.1.vehicle with
  | some v =>
    (testItem n c (wheelItem j.direction v p.1 .one) (p.2.wheel1.of c.quantity)).toList ++
      (testItem n c (wheelItem j.direction v p.1 .two) (p.2.wheel2.of c.quantity)).toList
  | none => []

/-- The findings of an axle criterion on an entry (R133). -/
def testAxle (j : JudgeInputs) (n : Fin 24) (c : Criterion) (p : AxleEntry × AxleQuantities) : List Finding :=
  match j.roster.vehicleAt p.1.vehicle with
  | some v => (testItem n c (axleItem v p.1) (p.2.of c.quantity)).toList
  | none => []

/-- The findings of a vehicle criterion on a vehicle (R133). -/
def testVehicle (n : Fin 24) (c : Criterion) (p : Vehicle × VehicleQuantities) : List Finding :=
  (testItem n c (vehicleItem p.1) (p.2.of c.quantity)).toList

/-- The findings of one criterion, tested against all its items in order (R133). A disabled entry is passed over. -/
def testCriterion (j : JudgeInputs) (n : Fin 24) (c : Criterion) : List Finding :=
  if c.enabled then
    match c.quantity.scope with
    | .wheel => j.axles.flatMap (testWheels j n c)
    | .axle => j.axles.flatMap (testAxle j n c)
    | .vehicle => j.vehicles.flatMap (testVehicle n c)
    | .train => (testItem n c trainItem (j.derived.of c.quantity)).toList
  else []

/-- Every criterion tested in entry number order (R133). -/
def testCriteria (b : SettingsBlock) (j : JudgeInputs) : List Finding :=
  (List.finRange 24).flatMap (fun n => testCriterion j n b.criteria[n])

/-- The higher of two watch levels. -/
def WatchLevel.max (a b : WatchLevel) : WatchLevel := if a.above b then a else b

/-- The highest level of a snapshot (R136, R139). -/
def Vehicle.highest (v : Vehicle) : Option WatchLevel :=
  v.snapshot.toList.foldl
    (fun acc l => match acc, l with
      | some a, some b => some (a.max b)
      | some a, none => some a
      | none, b => b)
    none

/-- The watched-vehicle finding of a vehicle, when its snapshot gives one (R136). -/
def watchedFinding (v : Vehicle) : Option Finding :=
  let make (g : Grade) : Finding :=
    { number := 0, kind := .watchedVehicle, vehicle := some v.position, ordinal := none, rail := none, side := none,
      index := none, measure := none, threshold := .watched, grade := g, state := .final, resolvedGrade := none }
  match v.highest with
  | some .withdraw => some (make .alarm)
  | some .restrict => some (make .note)
  | some .observe | none => none

/-- The watched-vehicle findings in position order (R136). -/
def watchedFindings (u : RosterUnit) : List Finding :=
  (u.vehicles.filter (fun v => v.holdsPresent u.entries)).filterMap watchedFinding

/-! ### Selection -/

/-- The effective grade of a finding (R138). -/
def Finding.effective (f : Finding) : Grade :=
  match f.state with
  | .resolved => f.resolvedGrade.getD f.grade
  | .final | .deferred => f.grade

/-- The kind order of R137's second key, read from the fields a scope gives (R135). -/
def Finding.scopeRank (f : Finding) : Nat :=
  match f.vehicle, f.ordinal, f.rail with
  | none, _, _ => 0
  | some _, none, _ => 1
  | some _, some _, none => 2
  | some _, some _, some _ => 3

/-- The criterion number of R137's fourth key, WATCHED_VEHICLE after criterion 24. -/
def Finding.kindRank (f : Finding) : Nat :=
  match f.kind with
  | .criterion n => n.val + 1
  | .watchedVehicle => 25

/-- The five keys of R137, each lowest first. -/
def Finding.rankKey (f : Finding) : List Nat :=
  [4 - f.effective.code, f.scopeRank, (f.ordinal.or f.vehicle).getD 0, f.kindRank, (f.rail.map Rail.number).getD 0]

/-- One list of keys stands before another: the first key that differs decides. -/
def keyBefore : List Nat → List Nat → Bool
  | a :: as, b :: bs => if a = b then keyBefore as bs else decide (a < b)
  | _, _ => false

/-- A finding put into a ranked list, after those equal to it (R137). -/
def insertRanked (f : Finding) : List Finding → List Finding
  | [] => [f]
  | g :: gs => if keyBefore f.rankKey g.rankKey then f :: g :: gs else g :: insertRanked f gs

/-- Findings ranked (R137). -/
def rankFindings (fs : List Finding) : List Finding := fs.foldl (fun acc f => insertRanked f acc) []

/-- Findings numbered from `k`. -/
def numberFrom (k : Nat) (fs : List Finding) : List Finding := mapFrom (fun i f => { f with number := i }) k fs

/-- The findings kept: the first 96 of the ranking, numbered from 1 (R137). -/
def selectFindings (fs : List Finding) : List Finding := numberFrom 1 ((rankFindings fs).take 96)

/-! ### Verdict -/

/-- The higher of two grades. -/
def Grade.max (a b : Grade) : Grade := if a.atLeast b then a else b

/-- The highest effective grade of some findings, CLEAR of none (R138). -/
def worstGrade (fs : List Finding) : Grade := fs.foldl (fun g f => g.max f.effective) .clear

/-- The worst grade of a vehicle over the findings that carry its position (R138). -/
def vehicleGrade (fs : List Finding) (position : Nat) : Grade :=
  worstGrade (fs.filter (fun f => f.vehicle == some position))

/-- How many findings are DEFERRED (R139). -/
def deferredCount (fs : List Finding) : Nat := fs.countP (fun f => f.state == .deferred)

/-- A vehicle as the record copies it (R109, R139). -/
def copyVehicle (kept : List Finding) (p : Vehicle × VehicleQuantities) : VehicleCopy :=
  { position := p.1.position, firstOrdinal := p.1.firstOrdinal, axleCount := p.1.axleCount, tagCode := p.1.tagCode,
    tagState := p.1.tagState, orientation := p.1.orientation, load := p.2.load,
    worst := vehicleGrade kept p.1.position, highest := p.1.highest }

/-- What the record takes at step 5 (R139). -/
def makeVerdict (u : RosterUnit) (q : Derived) (kept : List Finding) (overflow : Nat) : Verdict :=
  { grade := worstGrade kept, findings := kept, overflow := overflow, deferred := deferredCount kept,
    trainLoad := q.trainLoad, mean1 := q.mean1, mean2 := q.mean2, rosterLength := u.entries.length,
    retracted := u.entries.countP (fun e => !e.isPresent), vehicleCount := u.vehicles.length,
    vehicles := (u.vehicles.zip q.vehicles).map (copyVehicle kept) }

/-! ### Contributions -/

/-- The grade of an item: the highest among its FINAL findings, or CLEAR (R141). -/
def itemGrade (fs : List Finding) : Grade := worstGrade (fs.filter (fun f => f.state == .final))

/-- The DEFERRED mark of an item (R141). -/
def itemDeferred (fs : List Finding) : Bool := fs.any (fun f => f.state == .deferred)

/-- The findings of an axle: those of axle or wheel scope on its entry (R141). -/
def axleFindings (made : List Finding) (ordinal : Nat) : List Finding :=
  made.filter (fun f => f.ordinal == some ordinal)

/-- The findings of a vehicle: those of vehicle scope on it; WATCHED_VEHICLE belongs to no item (R141). -/
def vehicleFindings (made : List Finding) (position : Nat) : List Finding :=
  made.filter (fun f => f.vehicle == some position && f.ordinal.isNone && f.kind != .watchedVehicle)

/-- The wheel of an axle that stands under a side (R66). -/
def AxleQuantities.under (a : AxleQuantities) (d : Dir) (o : Orientation) (side : Side) : Option WheelQuantities :=
  if sideOver d o .one = some side then some a.wheel1
  else if sideOver d o .two = some side then some a.wheel2
  else none

/-- The per-side view of an axle, each value present when measured (R103, R122, R140). -/
def sideValues (d : Dir) (o : Orientation) (a : AxleQuantities) : SideValues :=
  let s1 := a.under d o .s1
  let s2 := a.under d o .s2
  { rise1 := s1.bind (fun w => w.rise.number), rise2 := s2.bind (fun w => w.rise.number)
    excess1 := s1.bind (fun w => w.excess.number), excess2 := s2.bind (fun w => w.excess.number) }

/-- No per-side value: a vehicle contribution carries none (R140). -/
def SideValues.empty : SideValues := { rise1 := none, rise2 := none, excess1 := none, excess2 := none }

/-- One PASSAGE contribution (R140, R141). -/
def passageContribution (tag : TagCode) (index : Nat) (serial : Serial) (date : Date) (fs : List Finding)
    (v : SideValues) : Contribution :=
  .passage { tag := tag, index := index } serial date (itemGrade fs) (itemDeferred fs) v

/-- The contributions of one vehicle: its own, then its PRESENT axles' in ordinal order (R140, R142). -/
def vehicleContributions (j : JudgeInputs) (made : List Finding) (serial : Serial) (date : Date) (v : Vehicle) :
    List Contribution :=
  match v.tagCode with
  | some tag =>
    passageContribution tag 0 serial date (vehicleFindings made v.position) .empty ::
      ((v.run (j.roster.entries.zip j.derived.axles)).filter (fun p => p.1.isPresent)).filterMap
        (fun p => p.1.axleIndex.map (fun i =>
          passageContribution tag i serial date (axleFindings made p.1.ordinal)
            (sideValues j.direction v.orientation p.2)))
  | none => []

/-- The contributions of a composition, in the order they are sent (R140, R142). -/
def contributionsOf (j : JudgeInputs) (made : List Finding) (serial : Serial) (date : Date) : List Contribution :=
  (j.roster.vehicles.filter
    (fun v => v.holdsPresent j.roster.entries && (v.tagState == .single || v.tagState == .confirmed))).flatMap
    (vehicleContributions j made serial date)

end Sys2Proof
end

