-- ==== Sys2Proof/Machine/Train.lean ====
section
/-! DEFINITION. The train table: allocation at an opening, the record through its passage and composition, regrading, retirement
(R144 to R150, R138, R161 to R163). -/

namespace Sys2Proof

/-! ### Choosing a slot -/

/-- Among the slots whose record meets a condition, the one opened first (R147). -/
def Site.oldest (s : Site) (p : TrainRecord → Bool) : Option (Fin 4) :=
  slotIds.foldl
    (fun best i =>
      match s.recordAt i with
      | none => best
      | some r =>
        if p r then
          match best.bind s.recordAt with
          | none => some i
          | some b => if r.rank < b.rank then some i else best
        else best)
    none

/-- The lowest-numbered FREE slot (R148). -/
def Site.freeTrainSlot (s : Site) : Option (Fin 4) := slotIds.find? (fun i => (s.recordAt i).isNone)

/-- How many of a CLOSED record's findings are DEFERRED; 0 before step 5 (R139). -/
def TrainRecord.deferred (r : TrainRecord) : Nat :=
  match r.verdict with
  | some v => v.deferred
  | none => 0

/-- A CLOSED record without a holder (R148, case 2). -/
def TrainRecord.reclaimable (r : TrainRecord) : Bool := r.phase == .closed && r.hold.isNone

/-- A reclaimable record that is read and settled (R148, case 2). -/
def TrainRecord.settled (r : TrainRecord) : Bool := r.reclaimable && r.readMark && r.deferred == 0

/-- The slot an opening takes (R148). The last case, the oldest record of all, covers case 3; slot 1 stands for a table
without any record, which the first case takes (log 31). -/
def Site.chooseSlot (s : Site) : Fin 4 :=
  (s.freeTrainSlot.or ((s.oldest TrainRecord.settled).or
    ((s.oldest TrainRecord.reclaimable).or (s.oldest (fun _ => true))))).getD 0

/-- A hold broken at an opening (R149). -/
def Site.breakTrainHold (s : Site) (r : TrainRecord) : Site :=
  match r.hold with
  | some h => (s.loseHold h.port).raise .leaseExpired
  | none => s

/-- Deferred findings abandoned by a reclaim or a retirement (R150, R163). -/
def Site.abandonDeferred (s : Site) (r : TrainRecord) : Site :=
  s.setCounts { s.counts with deferredAbandoned := bumpBy r.deferred s.counts.deferredAbandoned }

/-- A reclaim accounted for (R150). -/
def Site.accountReclaim (s : Site) (r : TrainRecord) : Site :=
  let s1 :=
    if r.readMark then s
    else (s.setCounts { s.counts with reclaimedUnread := bump s.counts.reclaimedUnread }).raise .recordLost
  s1.abandonDeferred r

/-- The slot's old record broken off and accounted for (R149, R150). -/
def Site.reclaim (s : Site) (i : Fin 4) : Site :=
  match s.recordAt i with
  | some r => (s.breakTrainHold r).accountReclaim r
  | none => s

/-- A rank after every record in the table (R147). -/
def Site.nextRank (s : Site) : Nat :=
  s.train.toList.foldl (fun m r => match r with | some r => max m (r.rank + 1) | none => m) 0

/-! ### The record through its passage -/

/-- A cause set with CLOCK_UNSET when the clock is unset (R146). -/
def Site.clockCause (s : Site) (causes : BitVec 22) : BitVec 22 :=
  if s.clock.isSet then causes else setAdd causes Cause.clockUnset.bit

/-- The record an opening makes (R27, R145, R146). -/
def Site.newRecord (s : Site) (d : Dir) : TrainRecord :=
  { serial := s.passage.serialOrZero, direction := d, opened := s.clock.reading, phase := .opened, close := none,
    verdict := none, causes := s.clockCause s.passage.pending, readMark := false, hold := none,
    generation := s.passage.latched.generation, rank := s.nextRank }

/-- The slot allocated and its record made OPEN, the pending causes cleared (R27, R148). -/
def Site.openRecord (s : Site) (d : Dir) : Site :=
  let i := s.chooseSlot
  let s1 := (s.reclaim i).putRecord i (some (s.newRecord d))
  s1.setPassage { s1.passage with pending := 0#22 }

/-- The record in a phase, if any. -/
def Site.recordIn (s : Site) (p : RecordPhase) : Option TrainRecord :=
  ((s.train.toList.filterMap id).find? (fun r => r.phase == p))

/-- A record changed when it is in a phase. -/
def updateInPhase (p : RecordPhase) (f : TrainRecord → TrainRecord) : Option TrainRecord → Option TrainRecord
  | some r => if r.phase = p then some (f r) else some r
  | none => none

/-- Every record in a phase changed; at most one is OPEN or CLOSING (R144). -/
def Site.updateRecord (s : Site) (p : RecordPhase) (f : TrainRecord → TrainRecord) : Site :=
  s.setTrain (tableMap (updateInPhase p f) s.train)

/-- The speed minimum, maximum and mean of a tally, absent while its count is 0 (R33). -/
def SpeedTally.figure (t : SpeedTally) (v : Nat) : Option Nat := if t.count = 0 then none else some v

/-- What the record takes at the close (R43, R123). -/
def Site.closeFigures (s : Site) (o : PassageOutcome) : CloseFigures :=
  let t := s.passage.tally
  { closed := s.clock.reading, outcome := o, net := s.gateNet, speedMin := t.figure t.least, speedMax := t.figure t.greatest,
    speedMean := t.figure (t.sum / t.count), ambient := s.modules.ambient }

/-- The record closed: its close figures taken, CLOSING (R43, R145, R146). -/
def Site.closeRecord (s : Site) (o : PassageOutcome) : Site :=
  s.updateRecord .opened
    (fun r => { r with phase := .closing, close := some (s.closeFigures o), causes := s.clockCause r.causes })

/-! ### Regrading -/

/-- The record's copy of a vehicle with its worst grade taken again (R138, R161). -/
def VehicleCopy.regrade (v : VehicleCopy) (fs : List Finding) : VehicleCopy := { v with worst := vehicleGrade fs v.position }

/-- A finding resolved (R161). -/
def Finding.resolve (f : Finding) (g : Grade) : Finding := { f with state := .resolved, resolvedGrade := some g }

/-- A verdict after the finding of a number is resolved: deferred count, grade and the worst grade of its vehicle
taken again (R138, R161). -/
def Verdict.resolve (v : Verdict) (number : Nat) (g : Grade) : Verdict :=
  let fs := v.findings.map (fun f => if f.number = number then f.resolve g else f)
  { v with
    findings := fs
    grade := worstGrade fs
    deferred := deferredCount fs
    vehicles := v.vehicles.map (fun c =>
      if v.findings.any (fun f => f.number == number && f.vehicle == some c.position) then c.regrade fs else c) }

/-- The key a resolution of a finding is sent to, if any (R162). -/
def Verdict.keyOf (v : Verdict) (f : Finding) : Option WatchKey :=
  match f.kind, f.vehicle with
  | .criterion _, some p =>
    match v.vehicles.find? (fun c => c.position == p) with
    | some c =>
      if c.tagState = .single ∨ c.tagState = .confirmed then
        match c.tagCode, f.ordinal, f.index with
        | some tag, some _, some ⟨i, .fromEnd1⟩ => some { tag := tag, index := i }
        | some tag, none, _ => some { tag := tag, index := 0 }
        | _, _, _ => none
      else none
    | none => none
  | _, _ => none

end Sys2Proof
end

