-- ==== Sys2Proof/Machine/Passage.lean ====
section
/-! DEFINITION. The passage controller: arming, opening, the held opening, speed and gap, standstill, clearing, close
(R19 to R43). -/

namespace Sys2Proof

/-- The passage controller changed. -/
def Site.updatePassage (s : Site) (f : Passage → Passage) : Site := s.setPassage (f s.passage)

/-- The timers of the passage controller changed. -/
def Site.updateTimers (s : Site) (f : PassageTimers → PassageTimers) : Site := s.setTimers (f s.passage.timers)

/-! ### Serial and latch -/

/-- The serial after another: from 4,294,967,295 it becomes 1 (R20). -/
def serialAfter (n : Serial) : Serial := if n = 0xFFFFFFFF#32 then 1#32 else n + 1#32

/-- A serial taken and the settings latched (R20), with the current passage number (R72). -/
def Site.takeSerial (s : Site) : Site :=
  let n := s.store.nextSerial
  let s1 := s.updatePassage (fun p => { p with serial := some n, armedMoment := s.now, latched := s.settings })
  let s2 := s1.setModules { s1.modules with passageNumber := some (n.setWidth 16) }
  (s2.setStore { s2.store with nextSerial := serialAfter n }).enqueue .serial

/-! ### Arming -/

/-- A false approach counted (R21, R24). -/
def Site.falseApproach (s : Site) : Site :=
  s.updatePassage (fun p => { p with falseApproaches := bump p.falseApproaches })

/-- Both gate points are OUT (R21). -/
def Site.gatesOut (s : Site) : Bool := s.isOut .ga && s.isOut .gb

/-- What every arming does, from IDLE (R21, R22, R30): the serial, the latch, the counting direction, ARM and the arm timer. -/
def Site.callModules (s : Site) (d : Dir) : Site :=
  (((s.updatePassage (fun p => { p with expected := some d })).takeSerial.setDirection d).sendArm d).startArmTimer

/-- With nothing fitted ARMING gives way to ARMED at once (R23). -/
def Site.armedAtOnce (s : Site) : Site := if s.nothingFitted then s.becomeArmed else s

/-- An inward approach crossing in IDLE arms the site, unless both gate points are OUT (R21). -/
def Site.armSite (s : Site) (d : Dir) : Site :=
  if s.gatesOut then s.falseApproach.raise .gatesOut
  else ((s.callModules d).updatePassage (fun p => { p with phase := .arming })).armedAtOnce

/-! ### Opening -/

/-- The counting gate: the entry gate when it is not OUT, else the exit gate (R28). -/
def Site.chooseGate (s : Site) (d : Dir) : Gate := if s.isOut d.entryGate.point then d.exitGate else d.entryGate

/-- A point added to a check set unless it is OUT (R29). -/
def Site.addMember (s : Site) (p : PointId) (set : BitVec 4) : BitVec 4 := if s.isOut p then set else setAdd set p.bit

/-- The upstream approach is left out: UNANNOUNCED, or opened with DIRECTION_MISMATCH (R29). -/
def leavesOutUpstream (causes : BitVec 22) : Bool :=
  setHas causes Cause.unannounced.bit || setHas causes Cause.directionMismatch.bit

/-- The check set formed at an opening (R29). -/
def Site.formCheckSet (s : Site) (d : Dir) (causes : BitVec 22) : BitVec 4 :=
  let gates := s.addMember d.exitGate.point (s.addMember d.entryGate.point 0#4)
  if leavesOutUpstream causes then gates else s.addMember d.upstream gates

/-- A passage opened (R27 to R29, R46, R190), from the pending causes that stand. `held`: a held opening takes effect, and the
last counting-gate crossing stands (R35). -/
def Site.openPassage (s : Site) (d : Dir) (held : Bool) : Site :=
  let causes := s.passage.pending
  let gate := s.chooseGate d
  let s1 := ((s.openRecord d).startRoster).addRecordCauseIf (gate != d.entryGate) .gateSubstituted
  let s2 := s1.updatePassage (fun p =>
    { p with
      phase := .inPassage
      gate := some gate
      checkSet := s.formCheckSet d causes
      lastGate := if held then p.lastGate else none
      tally := .empty
      outcomeToBe := none
      timers := { p.timers with armTimeout := none, standstill := some s.now, limit := some s.now, clear := none } })
  s2.suspendSweep

/-- A direction mismatch at a gate crossing in ARMING or ARMED (R26, R30, R86). -/
def Site.applyMismatch (s : Site) (d : Dir) : Site :=
  if s.passage.expected = some d then s
  else
    let s1 := (s.addPending .directionMismatch).setDirection d
    s1.setModules { s1.modules with reversed := true }

/-- The passage direction set. -/
def Site.headFor (s : Site) (d : Dir) : Site := s.updatePassage (fun p => { p with direction := some d })

/-- A gate crossing in IDLE with no composition in flight opens an UNANNOUNCED passage (R22). -/
def Site.openUnannounced (s : Site) (d : Dir) : Site :=
  (((s.headFor d).callModules d).addPending .unannounced).openPassage d false

/-- A gate crossing in ARMING or ARMED: the causes, the timeout and the direction (R26, R30). -/
def Site.fromArming (s : Site) (d : Dir) : Site :=
  let s1 := if s.passage.phase = .arming then s.addPending .lateArm else s.updateTimers (fun t => { t with armTimeout := none })
  (s1.headFor d).applyMismatch d

/-- A gate crossing in ARMING or ARMED with no composition in flight opens the passage (R26). -/
def Site.openArmed (s : Site) (d : Dir) : Site := (s.fromArming d).openPassage d false

/-- A gate crossing that finds a composition in flight holds the opening (R30); the counting gate is decided for the time of the
hold (R31). -/
def Site.holdOpening (s : Site) (d : Dir) : Site :=
  let s1 := if s.passage.phase = .idle then ((s.headFor d).callModules d).addPending .unannounced else s.fromArming d
  (s1.addPending .openedLate).updatePassage
    (fun p => { p with lastGate := none, held := true, gate := some (s1.chooseGate d) })

/-! ### Speed and gap -/

/-- The latched head spacing of a gate (R34). -/
def Site.headSpacing (s : Site) : Gate → Nat
  | .ga => s.latchedSetting .gaHeadSpacing
  | .gb => s.latchedSetting .gbHeadSpacing

/-- Speed in 0.1 km/h from a spacing in mm and an interval in 0.1 ms; above 3,000 there is none (R34). -/
def speedOf (spacing interval : Nat) : Option Nat :=
  let v := (720 * spacing + interval) / (2 * interval)
  if v ≤ 3000 then some v else none

/-- Gap in mm from a speed in 0.1 km/h and a time in 0.1 ms, held at 65,535 (R35). -/
def gapOf (speed time : Nat) : Nat := min 65535 ((2 * speed * time + 360) / 720)

/-- What a counting-gate crossing carries to the roster (R33 to R35). -/
structure GateFigures where
  speed : Option Nat
  gap : Option Nat
  deriving DecidableEq, Repr

/-- The gap of a crossing in the counting direction with a speed, behind one that ran in the counting direction (R35). -/
def Site.gapOfCrossing (s : Site) (d : Dir) (speed : Option Nat) : Option Nat :=
  match speed, s.passage.lastGate with
  | some v, some g =>
    if s.points.direction = some d ∧ s.points.direction = some g.dir then some (gapOf v (s.now - g.time)) else none
  | _, _ => none

/-- A crossing taken at the counting gate: its speed and gap, and it becomes the last counting-gate crossing (R34, R35). At any
other point nothing. -/
def Site.takeGateCrossing (s : Site) (p : PointId) (d : Dir) (interval : Option Nat) : Site × GateFigures :=
  match s.passage.gate with
  | some g =>
    if g.point = p then
      let speed := interval.bind (speedOf (s.headSpacing g))
      (s.updatePassage (fun q => { q with lastGate := some { time := s.now, dir := d, speed := speed } }),
        { speed := speed, gap := s.gapOfCrossing d speed })
    else (s, { speed := none, gap := none })
  | none => (s, { speed := none, gap := none })

/-! ### Clearing -/

/-- How many points the check set holds. -/
def Passage.members (p : Passage) : Nat := setCount p.checkSet 4

/-- A point is in the check set. -/
def Passage.watches (p : Passage) (q : PointId) : Bool := setHas p.checkSet q.bit

/-- The state becomes CLEARING with an outcome-to-be; the clear timer starts and the standstill timer stops (R36 to R40). -/
def Site.becomeClearing (s : Site) (o : PassageOutcome) : Site :=
  s.updatePassage (fun p =>
    { p with
      phase := .clearing
      outcomeToBe := some o
      timers := { p.timers with clear := some s.now, standstill := none } })

/-- The state is IN_PASSAGE or STANDSTILL. -/
def PassagePhase.running : PassagePhase → Bool
  | .inPassage | .standstill => true
  | .idle | .arming | .armed | .clearing => false

/-- Every member of the check set shows the same net count, and it is at least 1 (R37). -/
def Site.countsAgree (s : Site) : Bool :=
  let nets := (PointId.all.filter s.passage.watches).map (fun p => (s.point p).net)
  match nets with
  | [] => false
  | n :: ns => decide (1 ≤ n) && ns.all (· == n)

/-- The clearing condition (R37). -/
def Site.clearingCondition (s : Site) : Bool := decide (2 ≤ s.passage.members) && s.countsAgree

/-- The test of the clearing condition (R37). -/
def Site.testClearing (s : Site) : Site :=
  if s.passage.phase.running && s.clearingCondition then s.becomeClearing .complete else s

/-- The withdrawal test (R38). -/
def Site.testWithdrawal (s : Site) : Site :=
  if s.passage.phase.running && s.gateNet == 0 && !s.roster.entries.isEmpty then s.becomeClearing .withdrawn else s

/-- Both gate points are in the check set, and the exit gate counts more than the entry gate (R41). -/
def Site.exitAbove (s : Site) : Bool :=
  match s.passage.direction with
  | some d =>
    s.passage.watches .ga && s.passage.watches .gb &&
      decide ((s.point d.entryGate.point).net < (s.point d.exitGate.point).net)
  | none => false

/-- The count check (R41). -/
def Site.testGateCounts (s : Site) : Site := s.addRecordCauseIf s.exitAbove .gateCountFault

/-- The outcome that the counting gate's net count tells (R39, R40). -/
def Site.outcomeByCount (s : Site) : PassageOutcome := if s.gateNet = 0 then .withdrawn else .complete

/-- CLEARING because the counts cannot say that the train has gone (R40). -/
def Site.clearUnchecked (s : Site) : Site := (s.becomeClearing s.outcomeByCount).addRecordCause .countUnchecked

/-- What follows a change of the check set's membership (R29, R37, R39 to R41). -/
def Site.testMembership (s : Site) : Site :=
  let s1 := s.testGateCounts
  match s1.passage.phase with
  | .inPassage => s1.testClearing
  | .standstill => if s1.passage.members < 2 then s1.clearUnchecked else s1.testClearing
  | .clearing => if s1.passage.members < 2 then s1.addRecordCause .countUnchecked else s1
  | .idle | .arming | .armed => s1

/-- A point that became OUT leaves the check set (R29). -/
def Site.leaveCheckSet (s : Site) (p : PointId) : Site :=
  if s.passageOpen && s.passage.watches p then
    (s.updatePassage (fun q => { q with checkSet := setDrop q.checkSet p.bit })).testMembership
  else s

/-- A head's health changed, with all that follows of the point's condition (R4, R7, R8, R29). -/
def Site.changeHealth (s : Site) (h : HeadId) (v : HeadHealth) : Site :=
  let s1 := s.setHealth h v
  if s.isOut h.point = false ∧ s1.isOut h.point = true then s1.leaveCheckSet h.point else s1

/-! ### Crossings -/

/-- The state is IN_PASSAGE again: the clear timer stops, the standstill timer starts, the outcome-to-be is cleared
(R36, R39). -/
def Site.returnToPassage (s : Site) : Site :=
  s.updatePassage (fun p =>
    { p with
      phase := .inPassage
      outcomeToBe := none
      timers := { p.timers with clear := none, standstill := some s.now } })

/-- What a crossing does to the state of an open passage before it is counted (R36, R39). -/
def Site.takeOpenCrossing (s : Site) (p : PointId) : Site :=
  match s.passage.phase with
  | .inPassage | .standstill => if p.gate.isSome then s.returnToPassage else s
  | .clearing =>
    if s.passage.watches p || s.passage.gate.map Gate.point == some p then s.returnToPassage else s
  | .idle | .arming | .armed => s

/-- An inward crossing at the far approach before the passage is open (R25, R31). -/
def Site.testOpposing (s : Site) (p : PointId) (d : Dir) : Site :=
  match s.passage.expected with
  | some e =>
    if p = e.farApproach ∧ d = p.inward then (s.addPending .opposingApproach).raise .opposingApproach else s
  | none => s

/-- A gate crossing before the passage is open and with no held opening (R22, R26, R30). -/
def Site.takeFirstGate (s : Site) (d : Dir) : Site :=
  if s.composing then s.holdOpening d
  else if s.passage.phase = .idle then s.openUnannounced d
  else s.openArmed d

/-- An approach crossing before the passage is open (R21, R25, R31). -/
def Site.takeApproach (s : Site) (p : PointId) (d : Dir) : Site :=
  if s.passage.phase = .idle ∧ s.passage.held = false then (if d = p.inward then s.armSite d else s)
  else s.testOpposing p d

/-- The passage controller takes a crossing (R21 to R26, R30, R31, R36, R39), with the speed and gap it carries on. -/
def Site.takeCrossing (s : Site) (p : PointId) (d : Dir) (interval : Option Nat) : Site × GateFigures :=
  let s1 :=
    if s.passageOpen then s.takeOpenCrossing p
    else if p.gate.isNone then s.takeApproach p d
    else if s.passage.held then s
    else s.takeFirstGate d
  s1.takeGateCrossing p d interval

/-! ### Count changes -/

/-- A speed taken into the tally (R33). -/
def SpeedTally.take (t : SpeedTally) (v : Nat) : SpeedTally :=
  { count := t.count + 1, sum := t.sum + v, least := if t.count = 0 then v else min t.least v, greatest := max t.greatest v }

/-- The tally after a rise with or without a speed (R33). -/
def SpeedTally.takeRise (t : SpeedTally) : Option Nat → SpeedTally
  | some v => t.take v
  | none => t

/-- A change of the counting gate's net count passed on during an open passage (R33). -/
def Site.gateChanged (s : Site) (old new : Nat) (f : GateFigures) : Site :=
  if old < new then
    (s.rosterRise new s.passageTime f.speed f.gap).updatePassage (fun p => { p with tally := p.tally.takeRise f.speed })
  else (s.addRecordCause .rollback).rosterFall old

/-- A change of a point's net count made known to the passage controller (R31, R33, R37, R38, R41). -/
def Site.netChanged (s : Site) (p : PointId) (old new : Nat) (f : GateFigures) : Site :=
  let atGate := s.passage.gate.map Gate.point == some p
  if s.passageOpen then
    let s1 := if atGate then s.gateChanged old new f else s
    let s2 := if p.gate.isSome then s1.testGateCounts else s1
    let s3 := if atGate && decide (new < old) then s2.testWithdrawal else s2
    if s3.passage.watches p then s3.testClearing else s3
  else if s.passage.held && atGate && decide (new < old) then s.addPending .rollback
  else s

/-- A crossing applied to its point's net count, in the counting direction that stands (R15, R16). -/
def Site.countCrossing (s : Site) (p : PointId) (d : Dir) (f : GateFigures) : Site :=
  match s.points.direction with
  | none => s
  | some c =>
    match (s.point p).count (d == c) with
    | (q, some (old, new)) => (s.putPoint p q).netChanged p old new f
    | (q, none) => s.putPoint p q

/-! ### Close -/

/-- The copies a composition takes at the close (R77, R132). -/
def Site.newComposition (s : Site) : Composition :=
  { step := .derive, latched := s.passage.latched, suspect := s.suspectSet, ambient := s.modules.ambient, derived := .empty,
    made := [], kept := [], overflow := 0, contributions := [] }

/-- The passage controller back in IDLE at a close (R43). -/
def Passage.afterClose (p : Passage) : Passage :=
  { p with
    phase := .idle
    direction := none
    expected := none
    gate := none
    checkSet := 0#4
    serial := none
    outcomeToBe := none
    timers := .stopped }

/-- A pending sweep start taken at the close (R187). -/
def Site.startPendingSweep (s : Site) : Site := if s.watch.startPending then s.startSweep else s

/-- The close of a passage with an outcome, as one event (R43, R60, R77). -/
def Site.close (s : Site) (o : PassageOutcome) : Site :=
  let s1 := ((s.sendStandDown.armTimerAtClose.cutOffStanding).completeModules.finaliseRoster).closeRecord o
  let s2 := s1.setComposition (some s1.newComposition)
  ((s2.clearDirection).updatePassage Passage.afterClose).startPendingSweep

/-! ### Held opening -/

/-- A held opening takes effect when the composition ends (R32, R53). -/
def Site.effectHeld (s : Site) : Site :=
  match s.passage.direction with
  | some d =>
    let s1 := (s.updatePassage (fun p => { p with held := false })).openPassage d true
    let s2 := s1.fillRoster s1.gateNet
    if s2.gateNet = 0 then s2.becomeClearing .withdrawn else s2.testClearing
  | none => s.updatePassage (fun p => { p with held := false })

/-! ### Timers -/

/-- A timer that was started and has run for at least its limit. -/
def Site.due (s : Site) (start : Option Nat) (limit : Nat) : Bool := start.any (fun t => elapsed s.now t limit)

/-- ARM_TIMEOUT runs out in ARMED (R24). -/
def Site.armTimeoutExpiry (s : Site) : Site :=
  (s.standDownModules.clearDirection.updatePassage (fun p =>
    { p with phase := .idle, expected := none, serial := none, pending := 0#22, timers := .stopped })).falseApproach

/-- STANDSTILL_TIME runs out in IN_PASSAGE (R36, R40). -/
def Site.standstillExpiry (s : Site) : Site :=
  if 2 ≤ s.passage.members then
    (s.updatePassage (fun p =>
      { p with phase := .standstill, timers := { p.timers with standstill := none } })).addRecordCause .standstill
  else s.clearUnchecked

end Sys2Proof
end

