-- ==== Sys2Proof/Machine/Points.lean ====
section
/-! DEFINITION. The point unit's events: a head change with the crossing it may make, and the head timers (R1 to R5, R9 to R16). -/

namespace Sys2Proof

/-- A crossing recorded as its point's last crossing (R15); the since-set mark: log 26. -/
def Site.recordCrossing (s : Site) (p : PointId) (d : Dir) (interval : Option Nat) : Site :=
  s.putPoint p
    { s.point p with
      last := some
        { dir := d
          interval := interval
          degraded := (s.point p).condition == .degraded
          sinceSet := s.points.everSet } }

/-- A crossing that is a spurious reverse: an open passage, against the counting direction, at a net count of 0 (R15). -/
def Site.isSpurious (s : Site) (p : PointId) (d : Dir) : Bool :=
  s.passageOpen && s.points.direction == some d.flip && (s.point p).net == 0

/-- A spurious reverse counted (R15, R17). -/
def Site.countSpurious (s : Site) (p : PointId) : Site :=
  s.putPoint p { s.point p with spurious := bump (s.point p).spurious }

/-- A crossing taken by the passage controller and then counted (R15). One taken in CLEARING is followed by the test of the clearing
condition whether or not a net count changed (R39; log 50). -/
def Site.takeAndCount (s : Site) (p : PointId) (d : Dir) (interval : Option Nat) : Site :=
  let c := (s.takeCrossing p d interval).1.countCrossing p d (s.takeCrossing p d interval).2
  if s.passage.phase = .clearing then c.testClearing else c

/-- A crossing recorded, then withheld, or handed to the passage controller and then counted (R15). -/
def Site.handOn (s : Site) (p : PointId) (d : Dir) (interval : Option Nat) : Site :=
  let s1 := s.recordCrossing p d interval
  if s1.isSpurious p d then s1.countSpurious p
  else s1.takeAndCount p d interval

/-- The crossing machine of a point takes a change of a head that is not CUT_OFF (R9, R12, R14). -/
def Site.crossStep (s : Site) (h : HeadId) (p : Point) (v : Level) : CrossStep :=
  match p.condition with
  | .normal => p.normalStep h.no v s.now
  | .degraded => p.degradedStep h.no v s.now (s.degradedDir h.point)
  | .out => ⟨p, none⟩

/-- The interval a crossing of a point carries: none at a DEGRADED point (R11, R12). -/
def Point.intervalNow (p : Point) : Option Nat := if p.condition = .normal then p.crossingInterval else none

/-- A head change taken: its level and health, then the crossing machine, then the crossing it makes (R1, R3, R9). -/
def Site.takeHeadChange (s : Site) (h : HeadId) (v : Level) : Site :=
  let p := s.point h.point
  let p1 := p.putHead h.no ((p.head h.no).change v s.now)
  if (p.head h.no).health = .cutOff then s.putPoint h.point p1
  else
    let c := s.crossStep h p1 v
    let s1 := s.putPoint h.point c.point
    match c.made with
    | some d => s1.handOn h.point d p1.intervalNow
    | none => s1

/-- A level of a head line arrives: the pin follows, and in RUNNING a changed level is taken (R1, R224). -/
def Site.headChange (s : Site) (h : HeadId) (v : Level) : Site :=
  let s1 := s.setPins (s.pins.put h v)
  if s.mode = .running ∧ ((s.point h.point).head h.no).level ≠ v then s1.takeHeadChange h v else s1

/-- The stuck timer of a head expires (R2). -/
def Site.stuckExpiry (s : Site) (h : HeadId) : Site :=
  if ((s.point h.point).head h.no).stuckDue s.now (s.setting .stuckLimit) then
    s.changeHealth h (if s.passageOpen then .standing else .cutOff)
  else s

/-- The quiet timer of a head expires (R4). -/
def Site.quietExpiry (s : Site) (h : HeadId) : Site :=
  if ((s.point h.point).head h.no).quietDue s.now (s.setting .quietPeriod) then s.changeHealth h .inService else s

/-- The head timers after a write of STUCK_LIMIT: a running timer already past the new value expires (R5), in head order
(log 28). -/
def Site.rescaleStuck (s : Site) : Site := HeadId.all.foldl Site.stuckExpiry s

/-- The head timers after a write of QUIET_PERIOD (R5; log 28). -/
def Site.rescaleQuiet (s : Site) : Site := HeadId.all.foldl Site.quietExpiry s

end Sys2Proof
end

