-- ==== Sys2Proof/Machine/State.lean ====
section
/-! DEFINITION. The state of the machine, the reasons a step can stop, and the state right after reset. -/

namespace Sys2Proof.Machine

/-- The whole machine: the queue of commands that wait, first in first out, the site (the ten blocks of the introduction), and
the line sides of the site link and the service port. -/
structure State where
  pending : List Instr
  site : Site
  siteLink : PortLine
  servicePort : PortLine
  deriving DecidableEq, Repr

/-- Reasons a step can stop with a fault. -/
inductive Fault where
  /-- Raised by the meaning of a command term that is not well formed (WellFormed.lean): it spells no event of the spec. Safe:
  no event of the part is lost (log 3). -/
  | malformedCommand
  deriving DecidableEq, Repr

/-- Reasons a step can be refused. -/
inductive Refusal where
  /-- Raised by exec's arm of a command without a meaning; no arm is left so. Safe: nothing is claimed of the command. -/
  | notModelled (mnemonic : String)
  deriving DecidableEq, Repr

/-- The machine right after reset: the entry to LOADING (R224), with an empty queue, every head line high (log 5) and both
rate straps low (log 6). -/
def State.reset : State :=
  { pending := [], site := Site.coldStart HeadLines.allClear 0, siteLink := PortLine.coldStart false,
    servicePort := PortLine.coldStart false }

end Sys2Proof.Machine
end

