-- ==== Sys2Proof/Machine/Ports.lean ====
section
/-! DEFINITION. The two ports: answers, the checks of a request, the queue places (R193 to R201), and how a command acts on the
state. -/

namespace Sys2Proof

/-- An owner's answer to a request: its status and body (R201). -/
structure Reply where
  status : Status
  body : List Byte
  deriving DecidableEq, Repr

/-- An OK answer. -/
def Reply.ok (body : List Byte) : Reply := { status := .ok, body := body }

/-- An answer with an empty body (R201). -/
def Reply.bare (st : Status) : Reply := { status := st, body := [] }

/-- What the owner of a request made of it: the site after it, and the answer, which a STORE_SAVE taken as OK does not make yet
(R197, R223). -/
structure Handled where
  site : Site
  reply : Option Reply
  deriving DecidableEq, Repr

/-- A request answered at once. -/
def Site.answer (s : Site) (r : Reply) : Handled := { site := s, reply := some r }

/-- A request answered OK. -/
def Site.answerOk (s : Site) (body : List Byte) : Handled := s.answer (.ok body)

/-- A request refused with an empty body. -/
def Site.refuse (s : Site) (st : Status) : Handled := s.answer (.bare st)

/-- A hold is the other port's (R158, R173). -/
def heldByOther (h : Option Hold) (p : Port) : Bool := h.any (fun h => h.port != p)

/-- A hold is this port's (R158, R159, R173, R178). -/
def heldBy (h : Option Hold) (p : Port) : Bool := h.any (fun h => h.port == p)

/-- An event of the running site: nothing happens in LOADING or while the part is held (R69, R224). -/
def Site.whenRunning (s : Site) (f : Site → Site) : Site := if s.mode = .running then f s else s

/-- SERVICE_WRITES is on (R200). -/
def Site.serviceWrites (s : Site) : Bool := s.setting .serviceWrites == 1

/-- Requests answered during LOADING (R199). -/
def RequestKind.anyState : RequestKind → Bool
  | .identify | .status | .clockRead => true
  | _ => false

/-- The privilege class of a request: a SETTING_WRITE that names SERVICE_WRITES is of the site class (R200). -/
def privilegeOf (k : RequestKind) (body : List Byte) : Privilege :=
  if k = .settingWrite ∧ Setting.ofCode (natAt body 0 1) = some .serviceWrites then .site else k.privilege

/-- The sending port may make the request (R200). -/
def Site.permits (s : Site) (p : Port) (c : Privilege) : Bool :=
  match p, c with
  | .siteLink, _ => true
  | .servicePort, .read => true
  | .servicePort, .hold => true
  | .servicePort, .write => s.serviceWrites
  | .servicePort, .site => false

/-- The body length is one the request takes (R199). -/
def lengthFits (k : RequestKind) (n : Nat) : Bool := decide (k.bodyBytes.1 ≤ n) && decide (n ≤ k.bodyBytes.2)

/-- Rows 2 to 4 of R199's table: the answer of the first check that fails. -/
def Site.portCheck (s : Site) (p : Port) (k : RequestKind) (body : List Byte) : Option Status :=
  if s.mode ≠ .running ∧ k.anyState = false then some .notReady
  else if lengthFits k body.length = false then some .badLength
  else if s.permits p (privilegeOf k body) = false then some .denied
  else none

namespace Machine

/-- The line side of a port. -/
def State.line (s : State) : Port → PortLine
  | .siteLink => s.siteLink
  | .servicePort => s.servicePort

/-- The state with a port's line side replaced. -/
def State.putLine (s : State) (p : Port) (l : PortLine) : State :=
  match p with
  | .siteLink => { s with siteLink := l }
  | .servicePort => { s with servicePort := l }

/-- The state with the site replaced. -/
def State.setSite (s : State) (t : Site) : State := { s with site := t }

/-- The site changed by an event. -/
def onSite (f : Site → Site) (s : State) : Host.Outcome State Fault Refusal := .next (s.setSite (f s.site))

/-- An answer made: it joins the port's answer queue (R198). -/
def State.pushAnswer (s : State) (p : Port) (a : Answer) : State :=
  s.putLine p { s.line p with answers := (s.line p).answers ++ [a] }

/-- An owner's answer joins the queue of the sending port; a request still in progress makes none (R197, R198). -/
def State.pushReply (s : State) (p : Port) (tag kind : Byte) (r : Option Reply) : State :=
  match r with
  | some r => s.pushAnswer p { tag := tag, kind := kind, status := r.status, body := r.body }
  | none => s

/-- A request is in progress on the port: only a waiting STORE_SAVE of the site link stays so (R197, R223). -/
def State.inProgress (s : State) : Port → Bool
  | .siteLink => s.site.store.waiting.isSome
  | .servicePort => false

/-- The places of the answer queue taken, the one kept for a request in progress included (R198). -/
def State.placesTaken (s : State) (p : Port) : Nat :=
  (s.line p).answers.length + if s.inProgress p then 1 else 0

/-- A frame error counted (R196). -/
def State.frameError (s : State) (p : Port) : State :=
  let c := s.site.counts
  s.setSite (s.site.setCounts
    (match p with
     | .siteLink => { c with linkFrameErrors := bump c.linkFrameErrors }
     | .servicePort => { c with serviceFrameErrors := bump c.serviceFrameErrors }))

/-- A dropped answer counted (R198). -/
def State.dropAnswer (s : State) (p : Port) : State :=
  let c := s.site.counts
  s.setSite (s.site.setCounts
    (match p with
     | .siteLink => { c with linkDropped := bump c.linkDropped }
     | .servicePort => { c with serviceDropped := bump c.serviceDropped }))

/-- The receiver of a port set (R193). -/
def State.receive (s : State) (p : Port) (r : Receiver) : State := s.putLine p { s.line p with receiver := r }

/-- A complete frame with a good CRC: discarded when the queue is full, answered BUSY while another is in progress, else taken
(R197, R198). While the part is held nothing is taken (R193). -/
def State.takeFrame (s : State) (p : Port) (tag kind : Byte) (take : Site → Handled) : State :=
  if s.site.mode = .held then s
  else
    let s1 := s.receive p .hunting
    if 4 ≤ s.placesTaken p then s1.dropAnswer p
    else if s.inProgress p then s1.pushReply p tag kind (some (.bare .busy))
    else (s1.setSite (take s.site).site).pushReply p tag kind (take s.site).reply

/-- A request of the catalogue: the checks of R199, then its owner. -/
def checked (k : RequestKind) (p : Port) (body : List Byte) (owner : Site → Handled) (t : Site) : Handled :=
  match t.portCheck p k body with
  | some st => t.refuse st
  | none => owner t

/-- The command of a request frame (R194 to R199). A body above 1,000 bytes is no frame (log 3). -/
def request (k : RequestKind) (p : Port) (tag : Byte) (body : List Byte) (owner : Site → Handled) (s : State) :
    Host.Outcome State Fault Refusal :=
  if bodyFits body then .next (s.takeFrame p tag k.code (checked k p body owner)) else .fault .malformedCommand

/-- A command that is an event only when its term is well formed (log 3). -/
def onWellFormed (wf : Bool) (f : State → State) (s : State) : Host.Outcome State Fault Refusal :=
  if wf then .next (f s) else .fault .malformedCommand

end Machine

end Sys2Proof
end

