-- ==== Sys2Proof/Machine/ClockRequests.lean ====
section
/-! DEFINITION. CLOCK_SECOND, CLOCK_READ, CLOCK_SET, SETTING_READ and SETTING_WRITE (R212 to R219). -/

namespace Sys2Proof

/-- The body of CLOCK_READ (R214). -/
def Site.clockBody (s : Site) : List Byte :=
  dateTimeField s.clock.reading ++ yesNo s.clock.isSet ++ leIntBytes 2 (s.settings.get .clockTrim) ++
    optField 8 (s.nextSweep.map dateTimeField)

/-- CLOCK_READ (R214). -/
def Site.clockRead (s : Site) : Handled := s.answerOk s.clockBody

/-- CLOCK_SET (R215). -/
def Site.clockSet (s : Site) (body : List Byte) : Handled :=
  let d := readDateTime body 0
  if d.valid then ((s.setReading d).noteClockChange).answerOk (dateTimeField d) else s.refuse .badValue

/-- The group of a setting: live 0, passage 1 (R217, R218; log 18). -/
def Setting.groupCode (n : Setting) : Nat := if n.isPassage then 1 else 0

/-- The body of SETTING_READ (R218). The latched value follows for a setting of the passage group and is left out, without a
presence byte, for a live one (log 49). -/
def Site.settingBody (s : Site) (n : Setting) : List Byte :=
  byteField (n.index.val + 1) ++ byteField n.groupCode ++ leIntBytes 4 (s.settings.get n) ++
    leIntBytes 4 (factoryBlock.get n) ++ if n.isPassage then leIntBytes 4 (s.passage.latched.get n) else []

/-- SETTING_READ (R218). -/
def Site.settingRead (s : Site) (body : List Byte) : Handled :=
  match Setting.ofCode (natAt body 0 1) with
  | some n => s.answerOk (s.settingBody n)
  | none => s.refuse .badValue

/-- What a write of a head timer's limit does to the timers that run (R5). -/
def Site.rescale (s : Site) (n : Setting) : Site :=
  match n with
  | .stuckLimit => s.rescaleStuck
  | .quietPeriod => s.rescaleQuiet
  | _ => s

/-- A working setting replaced, with the head timers (R5, R219). -/
def Site.writeSetting (s : Site) (n : Setting) (v : Int) : Site := (s.setSettings (s.settings.put n v)).rescale n

/-- SETTING_WRITE (R219). -/
def Site.settingWrite (s : Site) (body : List Byte) : Handled :=
  let v := intAt body 1 4
  match Setting.ofCode (natAt body 0 1) with
  | some n =>
    if n.inRange v then (s.writeSetting n v).answerOk (byteField (n.index.val + 1) ++ leIntBytes 4 v)
    else s.refuse .badValue
  | none => s.refuse .badValue

namespace Machine

/-- CLOCK_SECOND (R212). -/
def execClockSecond (s : State) : Host.Outcome State Fault Refusal := onSite Site.clockSecond s

/-- CLOCK_READ (R214). -/
def execClockRead (p : Port) (tag : Byte) (body : List Byte) (s : State) : Host.Outcome State Fault Refusal :=
  request .clockRead p tag body (fun t => t.clockRead) s

/-- CLOCK_SET (R215). -/
def execClockSet (p : Port) (tag : Byte) (body : List Byte) (s : State) : Host.Outcome State Fault Refusal :=
  request .clockSet p tag body (fun t => t.clockSet body) s

/-- SETTING_READ (R218). -/
def execSettingRead (p : Port) (tag : Byte) (body : List Byte) (s : State) : Host.Outcome State Fault Refusal :=
  request .settingRead p tag body (fun t => t.settingRead body) s

/-- SETTING_WRITE (R219). -/
def execSettingWrite (p : Port) (tag : Byte) (body : List Byte) (s : State) : Host.Outcome State Fault Refusal :=
  request .settingWrite p tag body (fun t => t.settingWrite body) s

end Machine

end Sys2Proof
end

