-- ==== Sys2Proof/Machine/Compose.lean ====
section
/-! DEFINITION. The composition's steps on the site (R132 to R143). -/

namespace Sys2Proof

/-- The record in composition (R132). -/
def Site.closingRecord (s : Site) : Option TrainRecord := s.recordIn .closing

/-- The direction of the record in composition; a composition always has one (R132). -/
def Site.closingDirection (s : Site) : Dir :=
  match s.closingRecord with
  | some r => r.direction
  | none => .ab

/-- What the tests of a composition read (R133). -/
def Site.judgeInputs (s : Site) (c : Composition) : JudgeInputs :=
  { direction := s.closingDirection, roster := s.roster, derived := c.derived }

/-- A step of the composition, taken when it is the next one (R132). -/
def Site.composeStep (s : Site) (k : CompStep) (f : Composition → Site) : Site :=
  match s.composition with
  | some c => if c.step = k then f c else s
  | none => s

/-- The composition replaced. -/
def Site.putComposition (s : Site) (c : Composition) : Site := s.setComposition (some c)

/-- Step 1: the quantities derived (R92, R111). -/
def Site.composeDerive (s : Site) : Site :=
  s.composeStep .derive (fun c =>
    s.putComposition { c with derived := derive c.latched c.suspect c.ambient s.roster, step := .test })

/-- Step 2: the criteria tested (R133). -/
def Site.composeTest (s : Site) : Site :=
  s.composeStep .test (fun c =>
    s.putComposition { c with made := c.made ++ testCriteria c.latched (s.judgeInputs c), step := .watched })

/-- Step 3: the watched-vehicle findings made (R136). -/
def Site.composeWatched (s : Site) : Site :=
  s.composeStep .watched (fun c =>
    s.putComposition { c with made := c.made ++ watchedFindings s.roster, step := .select })

/-- A cause added to the record in composition (R137, R139). -/
def Site.addClosingCause (s : Site) (b : Bool) (c : Cause) : Site :=
  if b then s.updateRecord .closing (fun r => { r with causes := setAdd r.causes c.bit }) else s

/-- Step 4: the findings to keep selected (R137). -/
def Site.composeSelect (s : Site) : Site :=
  s.composeStep .select (fun c =>
    let excess := c.made.length - 96
    (s.putComposition
      { c with kept := selectFindings c.made, overflow := min excess 65535, step := .verdict }).addClosingCause
        (decide (0 < excess)) .findingsOverflow)

/-- The date of a record's closed date-time (R140). -/
def TrainRecord.closedDate (r : TrainRecord) : Date :=
  match r.close with
  | some c => { year := c.closed.year, month := c.closed.month, day := c.closed.day }
  | none => { year := r.opened.year, month := r.opened.month, day := r.opened.day }

/-- The contributions of a composition, made from every finding (R140 to R142). -/
def Site.contributionsNow (s : Site) (c : Composition) : List Contribution :=
  match s.closingRecord with
  | some r => contributionsOf (s.judgeInputs c) c.made r.serial r.closedDate
  | none => []

/-- Step 5: the verdict written into the record (R138, R139), and the contributions of step 6 made ready (R140). -/
def Site.composeVerdict (s : Site) : Site :=
  s.composeStep .verdict (fun c =>
    let v := makeVerdict s.roster c.derived c.kept c.overflow
    let s1 := s.updateRecord .closing (fun r => { r with verdict := some v })
    (s1.addClosingCause (decide (0 < v.deferred)) .deferredPresent).putComposition
      { c with contributions := s.contributionsNow c, step := .contribute })

/-- Step 6: the next contribution handed to the watch table (R142). -/
def Site.sendContribution (s : Site) : Site :=
  s.composeStep .contribute (fun c =>
    match c.contributions with
    | k :: ks => (s.putComposition { c with contributions := ks }).contribute k
    | [] => s)

/-- The flags of the end of composition (R143). -/
def Site.raiseVerdictFlags (s : Site) (r : TrainRecord) : Site :=
  let grade := match r.verdict with | some v => v.grade | none => .clear
  ((s.raise .trainClosed).raiseIf (grade.atLeast .alarm) .gradeAlarm).raiseIf (decide (0 < r.deferred)) .deferredWaiting

/-- The record CLOSED with its flags (R143). -/
def Site.closeComposition (s : Site) : Site :=
  let s1 := (s.updateRecord .closing (fun r => { r with phase := .closed })).setComposition none
  match s.closingRecord with
  | some r => s1.raiseVerdictFlags r
  | none => s1

/-- Step 7: the composition ends; a held opening takes effect, or a SUSPENDED sweep resumes (R32, R143, R190). -/
def Site.composeEnd (s : Site) : Site :=
  s.composeStep .contribute (fun c =>
    match c.contributions with
    | _ :: _ => s
    | [] =>
      let s1 := s.closeComposition
      if s1.passage.held then s1.effectHeld else s1.resumeSweep)

end Sys2Proof
end

