-- ==== Sys2Proof/Machine/CompositionCommands.lean ====
section
/-! DEFINITION. The steps of a composition as commands (R132). A step that is not the next one has no effect (log 1). -/

namespace Sys2Proof.Machine

/-- COMPOSE_DERIVE (R92). -/
def execComposeDerive (s : State) : Host.Outcome State Fault Refusal :=
  onSite (fun t => t.whenRunning Site.composeDerive) s

/-- COMPOSE_TEST_CRITERIA (R133). -/
def execComposeTestCriteria (s : State) : Host.Outcome State Fault Refusal :=
  onSite (fun t => t.whenRunning Site.composeTest) s

/-- COMPOSE_WATCHED_VEHICLES (R136). -/
def execComposeWatchedVehicles (s : State) : Host.Outcome State Fault Refusal :=
  onSite (fun t => t.whenRunning Site.composeWatched) s

/-- COMPOSE_SELECT (R137). -/
def execComposeSelect (s : State) : Host.Outcome State Fault Refusal :=
  onSite (fun t => t.whenRunning Site.composeSelect) s

/-- COMPOSE_VERDICT (R139). -/
def execComposeVerdict (s : State) : Host.Outcome State Fault Refusal :=
  onSite (fun t => t.whenRunning Site.composeVerdict) s

/-- PASSAGE_CONTRIBUTION (R142, R168). -/
def execPassageContribution (s : State) : Host.Outcome State Fault Refusal :=
  onSite (fun t => t.whenRunning Site.sendContribution) s

/-- COMPOSITION_END (R143). -/
def execCompositionEnd (s : State) : Host.Outcome State Fault Refusal :=
  onSite (fun t => t.whenRunning Site.composeEnd) s

end Sys2Proof.Machine
end

