-- ==== Sys2Proof/Machine/CriterionRequests.lean ====
section
/-! DEFINITION. CRITERION_READ and CRITERION_WRITE (R128, R129). -/

namespace Sys2Proof

/-- The fields of a criteria entry (R126, R128). -/
def Criterion.field (c : Criterion) : List Byte :=
  yesNo c.enabled ++ byteField c.quantity.code ++ byteField c.predicate.code ++ leIntBytes 4 c.normal ++
    leIntBytes 4 c.watched ++ byteField c.grade.code ++ byteField c.treatment.code

/-- The criteria entry a number 1 to 24 names (R128). -/
def criterionIndex (n : Nat) : Option (Fin 24) := if h : 1 ≤ n ∧ n ≤ 24 then some ⟨n - 1, by omega⟩ else none

/-- CRITERION_READ (R128). -/
def Site.criterionRead (s : Site) (body : List Byte) : Handled :=
  match criterionIndex (natAt body 0 1) with
  | some i => s.answerOk ((s.settings.criteria[i]).field ++ wordField s.settings.generation)
  | none => s.refuse .badValue

/-- The entry a CRITERION_WRITE body carries, when every field names a value (R129). -/
def readCriterion (body : List Byte) : Option Criterion :=
  match readYesNo body 1, QuantityName.ofCode (natAt body 2 1), Predicate.ofCode (natAt body 3 1),
      Grade.ofCode (natAt body 12 1), Treatment.ofCode (natAt body 13 1) with
  | some e, some q, some p, some g, some t =>
    some { enabled := e, quantity := q, predicate := p, normal := intAt body 4 4, watched := intAt body 8 4, grade := g,
           treatment := t }
  | _, _, _, _, _ => none

/-- The settings block with a criteria entry replaced and the generation number raised (R126, R129). -/
def SettingsBlock.writeCriterion (b : SettingsBlock) (i : Fin 24) (c : Criterion) : SettingsBlock :=
  { b with criteria := b.criteria.set i c, generation := b.generation + 1#16 }

/-- CRITERION_WRITE (R129). -/
def Site.criterionWrite (s : Site) (body : List Byte) : Handled :=
  match criterionIndex (natAt body 0 1), readCriterion body with
  | some i, some c =>
    if c.inRange then
      (s.setSettings (s.settings.writeCriterion i c)).answerOk (wordField (s.settings.generation + 1#16))
    else s.refuse .badValue
  | _, _ => s.refuse .badValue

namespace Machine

/-- CRITERION_READ (R128). -/
def execCriterionRead (p : Port) (tag : Byte) (body : List Byte) (s : State) : Host.Outcome State Fault Refusal :=
  request .criterionRead p tag body (fun t => t.criterionRead body) s

/-- CRITERION_WRITE (R129). -/
def execCriterionWrite (p : Port) (tag : Byte) (body : List Byte) (s : State) : Host.Outcome State Fault Refusal :=
  request .criterionWrite p tag body (fun t => t.criterionWrite body) s

end Machine

end Sys2Proof
end

