-- ==== Sys2Proof/Machine/SiteReset.lean ====
section
/-! DEFINITION. The counters gathered, their clearing, and the steps of a site reset on the site (R208 to R210). -/

namespace Sys2Proof

/-! ### Counters -/

/-- The six counters of a module line, in order (R90, R208). -/
def ModuleLine.counters (l : ModuleLine) : List Counter :=
  [l.crcErrors, l.malformed, l.stale, l.outOfSequence, l.missingReports, l.orphans]

/-- The 67 site counters in the order of R208. -/
def Site.counters (s : Site) : List Counter :=
  [s.counts.linkFrameErrors, s.counts.linkDropped, s.counts.serviceFrameErrors, s.counts.serviceDropped] ++
  [s.points.pa.spurious, s.points.ga.spurious, s.points.gb.spurious, s.points.pb.spurious] ++
  [s.passage.falseApproaches] ++
  [s.roster.earlyTags, s.roster.lateTags, s.roster.unplacedTags, s.roster.failedReads] ++
  s.modules.lines.toList.flatMap ModuleLine.counters ++
  [s.counts.reclaimedUnread, s.counts.deferredAbandoned] ++
  [s.counts.raisesRefused, s.counts.contributionsDiscarded] ++
  [s.store.faults, s.store.entriesLost]

/-- A module line with its six counters at 0 (R90). -/
def ModuleLine.clearCounters (l : ModuleLine) : ModuleLine :=
  { l with crcErrors := 0#16, malformed := 0#16, stale := 0#16, outOfSequence := 0#16, missingReports := 0#16, orphans := 0#16 }

/-- A point with its spurious-reverse counter at 0 (R17). -/
def Point.clearCounter (p : Point) : Point := { p with spurious := 0#16 }

/-- The points with their counters at 0. -/
def PointUnit.clearCounters (u : PointUnit) : PointUnit :=
  { u with pa := u.pa.clearCounter, ga := u.ga.clearCounter, gb := u.gb.clearCounter, pb := u.pb.clearCounter }

/-- Every site counter set to 0 (R209). -/
def Site.clearCounters (s : Site) : Site :=
  let s1 := (s.setCounts .zero).setPoints s.points.clearCounters
  let s2 := s1.setPassage { s1.passage with falseApproaches := 0#16 }
  let s3 := s2.setRoster { s2.roster with earlyTags := 0#16, lateTags := 0#16, unplacedTags := 0#16, failedReads := 0#16 }
  let s4 := s3.mapLines (fun _ l => l.clearCounters)
  s4.setStore { s4.store with faults := 0#16, entriesLost := 0#16 }

/-! ### Site reset -/

/-- Step 1: the passage abandoned and the modules reset (R19, R78). The latched settings stand. -/
def Site.resetPassage (s : Site) : Site :=
  (s.resetModules.clearDirection).updatePassage (fun p => .atRest p.latched p.falseApproaches)

/-- Step 2: a composition in flight stopped (R132). -/
def Site.stopComposition (s : Site) : Site := s.setComposition none

/-- Steps 3: every train slot FREE; the hold counts fall with step 6 (R144, R157). -/
def Site.resetTrain (s : Site) : Site := s.setTrain (Vector.replicate 4 none)

/-- Step 4: the roster emptied (R45). -/
def Site.resetRoster (s : Site) : Site := s.setRoster s.roster.atReset

/-- The points at a site reset (R210, step 5). That the counting direction was once set stays known: the model's reading,
log 26. -/
def PointUnit.atReset (u : PointUnit) (now : Nat) : PointUnit :=
  { pa := u.pa.atReset now, ga := u.ga.atReset now, gb := u.gb.atReset now, pb := u.pb.atReset now, direction := none,
    everSet := u.everSet }

/-- Step 5: the point unit (R1, R3, R7, R8, R16). -/
def Site.resetPoints (s : Site) : Site := s.setPoints (s.points.atReset s.now)

/-- Step 7: flags, enables and counters cleared, CLOCK_UNSET set again while the clock is unset (R204, R210). -/
def Site.resetIndications (s : Site) : Site := ((s.setFlags 0#18).setEnables 0#18).clearCounters.keepClockUnset

/-- The seven steps of a site reset before its answer, in order (R210). -/
def Site.siteReset (s : Site) : Site :=
  s.resetPassage.stopComposition.resetTrain.resetRoster.resetPoints.resetWatch.resetIndications

end Sys2Proof
end

