-- ==== Sys2Proof/Machine/GeneralRequests.lean ====
section
/-! DEFINITION. The requests of chapter 10: IDENTIFY, STATUS, flags and enables, counters, SITE_RESET (R202 to R210). -/

namespace Sys2Proof

/-- The vendor characters "OSPRATH" (R202), in ASCII (log 38). -/
def vendorBytes : List Byte := [0x4F#8, 0x53#8, 0x50#8, 0x52#8, 0x41#8, 0x54#8, 0x48#8]

/-- The part code "WX48" (R202), in ASCII (log 38). -/
def partCodeBytes : List Byte := [0x57#8, 0x58#8, 0x34#8, 0x38#8]

/-- The capacity descriptors of leaf 2 (R202). -/
def capacities : List (Nat × Nat) := [(1, 1024), (2, 256), (3, 4), (4, 96), (5, 512), (6, 24), (7, 4), (8, 4)]

/-- IDENTIFY: the leaf asked for (R202). -/
def Site.identify (s : Site) (body : List Byte) : Handled :=
  match natAt body 0 1 with
  | 0 => s.answerOk (byteField 2 ++ vendorBytes ++ partCodeBytes)
  | 1 => s.answerOk (leBytes 2 1 ++ byteField (s.setting .modulesFitted))
  | 2 => s.answerOk (listField (capacities.map (fun c => byteField c.1 ++ leBytes 2 c.2)))
  | _ => s.refuse .badValue

/-- Code of the site state: LOADING, RUNNING (R203). -/
def SiteMode.code : SiteMode → Nat
  | .loading => 0
  | .running => 1
  | .held => 0

/-- The body of STATUS (R203). -/
def Site.statusBody (s : Site) : List Byte :=
  byteField s.mode.code ++ byteField s.passage.phase.code ++ yesNo s.passage.held ++ yesNo s.composing ++
    flagField s.flags ++ flagField s.enables ++ byteField s.store.state.code ++ leBytes 2 s.store.queue.length ++
    yesNo s.clock.isSet ++ leBytes 2 s.freeCount ++
    s.train.toList.flatMap (fun r => byteField (slotStateCode (r.map TrainRecord.phase))) ++
    byteField s.holds.link ++ byteField s.holds.service ++ yesNo s.serviceWrites ++ byteField s.watch.sweepState.code

/-- STATUS (R203). -/
def Site.status (s : Site) : Handled := s.answerOk s.statusBody

/-- The set a body carries, when it names no bit from 18 to 31 (R205, R206). -/
def readFlagSet (body : List Byte) : Option (BitVec 18) :=
  let n := natAt body 0 4
  if n < 2 ^ 18 then some (BitVec.ofNat 18 n) else none

/-- FLAGS_CLEAR (R205). -/
def Site.flagsClear (s : Site) (body : List Byte) : Handled :=
  match readFlagSet body with
  | some named => (s.clearFlags named).answerOk (flagField (s.clearFlags named).flags)
  | none => s.refuse .badValue

/-- ENABLES_SET (R206). -/
def Site.enablesSet (s : Site) (body : List Byte) : Handled :=
  match readFlagSet body with
  | some e => (s.setEnables e).answerOk (flagField e ++ flagField s.flags)
  | none => s.refuse .badValue

/-- The 67 counters, each in 2 bytes (R208). -/
def Site.countersBody (s : Site) : List Byte := s.counters.flatMap wordField

/-- COUNTERS_READ (R208). -/
def Site.countersRead (s : Site) : Handled := s.answerOk s.countersBody

/-- COUNTERS_CLEAR (R209). -/
def Site.countersClear (s : Site) : Handled := s.clearCounters.answerOk s.countersBody

namespace Machine

/-- IDENTIFY (R202). -/
def execIdentify (p : Port) (tag : Byte) (body : List Byte) (s : State) : Host.Outcome State Fault Refusal :=
  request .identify p tag body (fun t => t.identify body) s

/-- STATUS (R203). -/
def execStatus (p : Port) (tag : Byte) (body : List Byte) (s : State) : Host.Outcome State Fault Refusal :=
  request .status p tag body (fun t => t.status) s

/-- FLAGS_CLEAR (R205). -/
def execFlagsClear (p : Port) (tag : Byte) (body : List Byte) (s : State) : Host.Outcome State Fault Refusal :=
  request .flagsClear p tag body (fun t => t.flagsClear body) s

/-- ENABLES_SET (R206). -/
def execEnablesSet (p : Port) (tag : Byte) (body : List Byte) (s : State) : Host.Outcome State Fault Refusal :=
  request .enablesSet p tag body (fun t => t.enablesSet body) s

/-- COUNTERS_READ (R208). -/
def execCountersRead (p : Port) (tag : Byte) (body : List Byte) (s : State) : Host.Outcome State Fault Refusal :=
  request .countersRead p tag body (fun t => t.countersRead) s

/-- COUNTERS_CLEAR (R209). -/
def execCountersClear (p : Port) (tag : Byte) (body : List Byte) (s : State) : Host.Outcome State Fault Refusal :=
  request .countersClear p tag body (fun t => t.countersClear) s

/-- SITE_RESET (R210). -/
def execSiteReset (p : Port) (tag : Byte) (body : List Byte) (s : State) : Host.Outcome State Fault Refusal :=
  request .siteReset p tag body (fun t => t.siteReset.answerOk []) s

end Machine

end Sys2Proof
end

