-- ==== Sys2Proof/Machine/Startup.lean ====
section
/-! DEFINITION. Cold start and loading (R224 to R226, and the chapters' starting values at the end of loading). -/

namespace Sys2Proof

/-! ### Images -/

/-- The higher of a stamp and the highest so far. -/
def higherStamp (stamp : Stamp) : Option Stamp → Stamp
  | none => stamp
  | some h => if h.toNat < stamp.toNat then stamp else h

/-- An image loaded: its stamp counts towards the next store stamp (R226; log 29). -/
def Site.countStamp (s : Site) (stamp : Stamp) : Site :=
  s.setStore { s.store with highest := some (higherStamp stamp s.store.highest) }

/-- What the loading reads next. -/
def Site.nextLoad (s : Site) (l : LoadStep) : Site := s.setStore { s.store with loading := l }

/-- The settings block loaded, or left at its factory values with SETTINGS_DEFAULTED (R225). -/
def Site.loadSettings (s : Site) (image : Image SettingsBlock) : Site :=
  match image with
  | .sound b stamp => if b.inRange then (s.setSettings b).countStamp stamp else s.raise .settingsDefaulted
  | .torn | .blank => s.raise .settingsDefaulted

/-- The next train serial set. -/
def Site.setNextSerial (s : Site) (n : Serial) : Site := s.setStore { s.store with nextSerial := n }

/-- A bad SERIAL image: the next serial is 1, STORE_FAULT, a store fault counted, SERIAL queued (R225). -/
def Site.badSerial (s : Site) : Site :=
  let s1 := (s.setNextSerial 1#32).enqueue .serial
  (s1.setStore { s1.store with faults := bump s1.store.faults }).raise .storeFault

/-- The next train serial loaded (R225). -/
def Site.loadSerial (s : Site) (image : Image Serial) : Site :=
  match image with
  | .blank => s.setNextSerial 1#32
  | .torn => s.badSerial
  | .sound n stamp => if n = 0#32 then s.badSerial else (s.setNextSerial n).countStamp stamp

/-- Every value of a list within a range. -/
def allWithin (low high : Int) (xs : List Int) : Bool := xs.all (fun x => decide (low ≤ x) && decide (x ≤ high))

/-- A per-side list: at most four values within a range (R166). -/
def listOk (low high : Int) (xs : List Int) : Bool := decide (xs.length ≤ 4) && allWithin low high xs

/-- A date within the clock's range (R166, R215). -/
def Date.valid (d : Date) : Bool :=
  decide (2000 ≤ d.year) && decide (d.year ≤ 2099) && decide (1 ≤ d.month) && decide (d.month ≤ 12) && decide (1 ≤ d.day) &&
    decide (d.day ≤ monthLength d.year d.month)

/-- Every stored field of an entry lies within its range (R166, R226). -/
def WatchEntry.inRange (e : WatchEntry) : Bool :=
  decide (e.key.index ≤ 12) && (e.floor.isSome == (e.origin == .enrolled)) && listOk (-3100) 3100 e.rise1 &&
    listOk (-3100) 3100 e.rise2 && listOk 0 10000 e.excess1 && listOk 0 10000 e.excess2 && decide (e.cleanRun ≤ 31) &&
    e.lastSerial.all (fun n => n != 0#32) && e.lastDate.all Date.valid && decide (e.unseen ≤ 999) &&
    decide (e.note.length ≤ 16)

/-- A loaded entry: no holder and no pending contributions (R165, R226). -/
def WatchEntry.asLoaded (e : WatchEntry) : WatchEntry := { e with hold := none, pending := [] }

/-- A slot image lost (R226). -/
def Site.loseSlot (s : Site) (i : Fin 512) : Site :=
  let s1 := s.enqueue (.slot i)
  (s1.setStore { s1.store with entriesLost := bump s1.store.entriesLost }).raise .storeEntryLost

/-- A slot image read (R226; the stamp of a FREE image: log 30). -/
def Site.loadSlot (s : Site) (i : Fin 512) (image : Image SlotContents) : Site :=
  match image with
  | .blank => s
  | .torn => s.loseSlot i
  | .sound .free stamp => (s.putWatchSlot i { s.watchSlot i with entry := none, stamp := stamp }).countStamp stamp
  | .sound (.live e) stamp =>
    if e.inRange then
      (s.putWatchSlot i { s.watchSlot i with entry := some e.asLoaded, stamp := stamp }).countStamp stamp
    else s.loseSlot i

/-- The SETTINGS image read, when it is the next image (R224, R225). -/
def Site.takeSettingsImage (s : Site) (image : Image SettingsBlock) : Site :=
  if s.mode = .loading ∧ s.store.loading = .settings then (s.loadSettings image).nextLoad .serial else s

/-- The SERIAL image read, when it is the next image (R224, R225). -/
def Site.takeSerialImage (s : Site) (image : Image Serial) : Site :=
  if s.mode = .loading ∧ s.store.loading = .serial then (s.loadSerial image).nextLoad (.slots 0) else s

/-- The next slot's image read (R224, R226). -/
def Site.takeSlotImage (s : Site) (image : Image SlotContents) : Site :=
  match s.store.loading with
  | .slots k =>
    if h : k < 512 then
      if s.mode = .loading then (s.loadSlot ⟨k, h⟩ image).nextLoad (.slots (k + 1)) else s
    else s
  | .settings | .serial => s

/-! ### The end of loading -/

/-- Another slot holds the key of this one with a higher stamp, or with the same stamp and a lower number (R226). -/
def Site.beatenBy (s : Site) (i : Fin 512) (e : WatchEntry) (j : Fin 512) : Bool :=
  (s.watchEntry j).any (fun f =>
    f.key == e.key &&
      (decide ((s.watchSlot i).stamp.toNat < (s.watchSlot j).stamp.toNat) ||
        ((s.watchSlot i).stamp == (s.watchSlot j).stamp && decide (j.val < i.val))))

/-- The slot holds a duplicate key and does not stay (R226). -/
def Site.duplicate (s : Site) (i : Fin 512) : Bool :=
  match s.watchEntry i with
  | some e => watchIds.any (s.beatenBy i e)
  | none => false

/-- Every duplicate slot freed and queued (R226). In slot order: the model's choice, log 53. -/
def Site.freeDuplicates (s : Site) : Site := (watchIds.filter s.duplicate).foldl Site.freeSlot s

/-- The largest sweep stamp among the entries, 0 of none (R186). -/
def Site.largestSweepStamp (s : Site) : Nat :=
  s.watch.slots.toList.foldl (fun m w => match w.entry with | some e => max m e.sweepStamp.toNat | none => m) 0

/-- One more than the highest stamp loaded, or 1 (R226). -/
def StoreUnit.firstStamp (u : StoreUnit) : Stamp :=
  match u.highest with
  | some h => h + 1#32
  | none => 1#32

/-- The point unit's heads read from their lines (R1, R8). -/
def PointUnit.fromLines (u : PointUnit) (l : HeadLines) : PointUnit :=
  { u with
    pa := u.pa.fromLines l.pa 0
    ga := u.ga.fromLines l.ga 0
    gb := u.gb.fromLines l.gb 0
    pb := u.pb.fromLines l.pb 0 }

/-- The module lines' arming states by the working MODULES_FITTED (chapter 4, Arming states). -/
def Site.readyModules (s : Site) : Site :=
  s.mapLines (fun n l => { l with arming := if s.fittedNow n then .idle else .notFitted })

/-- The starting values at the end of loading (R226; R1, R19, R186; chapter 4). -/
def Site.startRunning (s : Site) : Site :=
  let s1 := (s.setMode .running).setNow 0
  let s2 := (s1.setPoints (s1.points.fromLines s1.pins)).readyModules
  let s3 := s2.setPassage { s2.passage with latched := s2.settings }
  s3.setWatch
    { s3.watch with
      sweepSerial := BitVec.ofNat 16 s3.largestSweepStamp
      sweepState := .idle
      cursor := 0
      startPending := false }

/-- Loading ends once every slot has been read (R226). -/
def Site.endLoading (s : Site) : Site :=
  if s.mode = .loading ∧ s.store.loading = .slots 512 then
    let s1 := s.freeDuplicates
    (s1.setStore { s1.store with nextStamp := s1.store.firstStamp }).startRunning
  else s

/-! ### RSTN -/

/-- RSTN low or power lost: the part is held, and a store write in flight is cut off (R224; log 35). -/
def Site.hold (s : Site) : Site := (s.setMode .held).setStore { s.store with inFlight := none }

end Sys2Proof
end

