-- ==== Sys2Proof/Machine/LoadingCommands.lean ====
section
/-! DEFINITION. COLD_START, the loading commands, and RSTN low or power loss (R224 to R226). -/

namespace Sys2Proof.Machine

/-- The state at the entry to LOADING, with the head lines and the queue of commands as they are (R193, R224). -/
def State.coldStart (s : State) (lrateHigh srateHigh : Bool) : State :=
  { s with
    site := .coldStart s.site.pins s.site.freeDraws
    siteLink := .coldStart lrateHigh
    servicePort := .coldStart srateHigh }

/-- COLD_START (R224). -/
def execColdStart (lrateHigh srateHigh : Bool) (s : State) : Host.Outcome State Fault Refusal :=
  .next (s.coldStart lrateHigh srateHigh)

/-- LOAD_SETTINGS_IMAGE (R225). -/
def execLoadSettingsImage (image : Image SettingsBlock) (s : State) : Host.Outcome State Fault Refusal :=
  onSite (fun t => t.takeSettingsImage image) s

/-- LOAD_SERIAL_IMAGE (R225). -/
def execLoadSerialImage (image : Image Serial) (s : State) : Host.Outcome State Fault Refusal :=
  onSite (fun t => t.takeSerialImage image) s

/-- LOAD_SLOT_IMAGE (R226). -/
def execLoadSlotImage (image : Image SlotContents) (s : State) : Host.Outcome State Fault Refusal :=
  onSite (fun t => t.takeSlotImage image) s

/-- LOADING_END (R226). -/
def execLoadingEnd (s : State) : Host.Outcome State Fault Refusal := onSite Site.endLoading s

/-- RSTN_LOW_OR_POWER_LOSS (R224). -/
def execRstnLowOrPowerLoss (s : State) : Host.Outcome State Fault Refusal := onSite Site.hold s

end Sys2Proof.Machine
end

