-- ==== Sys2Proof/Machine/ModuleCommands.lean ====
section
/-! DEFINITION. The frames and gaps of the module lines (R69, R70, R74, R75, R81, R88). -/

namespace Sys2Proof

/-- The receiver after a byte taken as a hunting byte (R69). -/
def moduleHunt (b : Byte) : Receiver := if b = 0xC3#8 then .inFrame else .hunting

/-- A byte gap inside a module frame: malformed, and the next byte is a hunting byte (R69). -/
def Site.moduleGap (s : Site) (n : Fin 8) (next : Byte) : Site :=
  s.updateLine n (fun l => l.malformedFrame.receive (moduleHunt next))

/-- A module frame discarded before its passage check (R69, R70). After a length out of range hunting resumes with the byte
after the sync byte, which is the length byte itself; after a bad stop bit with the byte to come. -/
def Site.discardModuleFrame (s : Site) (n : Fin 8) (d : ModuleDiscard) : Site :=
  match d with
  | .length b => s.updateLine n (fun l => l.malformedFrame.receive (moduleHunt b))
  | .stopBit => s.updateLine n (fun l => l.malformedFrame.receive .hunting)
  | .frame f =>
    s.updateLine n (fun l => (if crcOk f then l.malformedFrame else l.crcError).receive .hunting)

/-- A READY taken whole (R70, R74). -/
def Site.readyFrame (s : Site) (n : Fin 8) (f : ModuleFrame) : Site := s.takeFrame n f (fun t => t.takeReady n f.payload)

/-- A bay or scanner REPORT taken whole: first as a READY where its module has not answered (R75), then as a report (R81). -/
def Site.reportFrame (s : Site) (n : Fin 8) (f : ModuleFrame) : Site :=
  s.takeFrame n f (fun t => (t.takeReady n []).takeReport n f)

/-- The tag reader's line (chapter 4). -/
def tagLine : Fin 8 := 6

/-- A tag reader REPORT taken whole: first as a READY where its module has not answered, then by the roster unit
(R61, R75, R88). -/
def Site.tagFrame (s : Site) (f : ModuleFrame) : Site :=
  s.takeFrame tagLine f (fun t => (t.takeReady tagLine []).takeTag (tagReadOf f.payload))

namespace Machine

/-- MODULE_BYTE_GAP (R69). -/
def execModuleByteGap (line : Fin 8) (next : Byte) (s : State) : Host.Outcome State Fault Refusal :=
  onSite (fun t => t.whenRunning (fun t => t.moduleGap line next)) s

/-- MODULE_READY (R74). -/
def execModuleReady (line : Fin 8) (frame : ModuleFrame) (s : State) : Host.Outcome State Fault Refusal :=
  onWellFormed (readyWf frame) (fun s => s.setSite (s.site.readyFrame line frame)) s

/-- BAY_SCANNER_REPORT (R81). -/
def execBayScannerReport (line : Fin 8) (frame : ModuleFrame) (s : State) : Host.Outcome State Fault Refusal :=
  onWellFormed (reportWf line frame) (fun s => s.setSite (s.site.reportFrame line frame)) s

/-- TAG_REPORT (R61). -/
def execTagReport (frame : ModuleFrame) (s : State) : Host.Outcome State Fault Refusal :=
  onWellFormed (tagWf frame) (fun s => s.setSite (s.site.tagFrame frame)) s

/-- MODULE_FRAME_DISCARD (R70). -/
def execModuleFrameDiscard (line : Fin 8) (what : ModuleDiscard) (s : State) : Host.Outcome State Fault Refusal :=
  onWellFormed (what.wf line)
    (fun s => s.setSite (s.site.whenRunning (fun t => t.discardModuleFrame line what))) s

end Machine

end Sys2Proof
end

