-- ==== Sys2Proof/Machine/PointRequests.lean ====
section
/-! DEFINITION. POINT_STATUS, HEAD_RESTORE and PASSAGE_STATUS (R6, R18, R44). -/

namespace Sys2Proof

/-! ### POINT_STATUS -/

/-- A head in POINT_STATUS: level, health, whole seconds in the present level (R18; rounded down, log 43). -/
def Head.statusField (h : Head) (now : Nat) : List Byte :=
  byteField h.level.code ++ byteField h.health.code ++ leBytes 2 (saturate16 ((now - h.lastChange) / 10000))

/-- A last crossing in POINT_STATUS (R18). -/
def LastCrossing.field (c : LastCrossing) : List Byte :=
  byteField c.dir.code ++ optNat 2 c.interval ++ yesNo c.degraded ++ yesNo c.sinceSet

/-- A point in POINT_STATUS (R18). -/
def Point.statusField (p : Point) (now : Nat) : List Byte :=
  byteField p.condition.code ++ byteField p.machine.code ++ leBytes 2 p.net ++ wordField p.spurious ++
    optField 6 (p.last.map LastCrossing.field) ++ p.head1.statusField now ++ p.head2.statusField now

/-- The body of POINT_STATUS (R18). -/
def Site.pointStatusBody (s : Site) : List Byte :=
  dirField s.points.direction ++ PointId.all.flatMap (fun p => (s.point p).statusField s.now)

/-- POINT_STATUS (R18). -/
def Site.pointStatus (s : Site) : Handled := s.answerOk s.pointStatusBody

/-! ### HEAD_RESTORE -/

/-- HEAD_RESTORE by the head's health and level at the moment it is taken (R6). -/
def Site.restoreHead (s : Site) (h : HeadId) : Handled :=
  let d := (s.point h.point).head h.no
  match d.health, d.level with
  | .cutOff, .clear => (s.changeHealth h .inService).answerOk []
  | .cutOff, .occupied => s.refuse .wrongState
  | .standing, _ => s.refuse .wrongState
  | .inService, _ => s.answerOk []

/-- HEAD_RESTORE (R6). -/
def Site.headRestore (s : Site) (body : List Byte) : Handled :=
  match HeadId.ofNumber (natAt body 0 1) with
  | some h => s.restoreHead h
  | none => s.refuse .badValue

/-! ### PASSAGE_STATUS -/

/-- When a timer was started (R44). -/
def PassageTimers.get (t : PassageTimers) : TimerName → Option Nat
  | .arm => t.arm
  | .armTimeout => t.armTimeout
  | .standstill => t.standstill
  | .clear => t.clear
  | .limit => t.limit

/-- How long a timer of a passage runs, by the latched settings (R23, R24, R36, R37, R42). -/
def Site.timerLimit (s : Site) : TimerName → Nat
  | .arm => seconds (s.latchedSetting .armLimit)
  | .armTimeout => seconds (s.latchedSetting .armTimeout)
  | .standstill => seconds (s.latchedSetting .standstillTime)
  | .clear => seconds (s.latchedSetting .clearTime)
  | .limit => seconds (60 * s.latchedSetting .passageLimit)

/-- A timer in PASSAGE_STATUS: running 0 or stopped 1, and seconds remaining, rounded up; of a stopped timer a free value
(R44; log 15, 18; 2 bytes for each timer, log 44). -/
def Site.timerField (s : Site) (n : TimerName) : List Byte :=
  match s.passage.timers.get n with
  | some t => byteField 0 ++ leBytes 2 (ceilDiv (t + s.timerLimit n - s.now) 10000)
  | none => byteField 1 ++ wordField (Config.stoppedSeconds s.freeDraws n)

/-- The timers in the order of R44. -/
def TimerName.all : List TimerName := [.arm, .armTimeout, .standstill, .clear, .limit]

/-- The causes PASSAGE_STATUS shows (R44). -/
def Site.shownCauses (s : Site) : BitVec 22 :=
  match s.recordIn .opened with
  | some r => r.causes
  | none => s.passage.pending

/-- The passage time PASSAGE_STATUS shows: 0 when no serial is held (R44). -/
def Site.shownTime (s : Site) : BitVec 32 := if s.passage.serial.isSome then s.passageTime else 0#32

/-- The body of PASSAGE_STATUS (R44). -/
def Site.passageStatusBody (s : Site) : List Byte :=
  byteField s.passage.phase.code ++ yesNo s.passage.held ++ yesNo s.composing ++
    optField 4 (s.passage.serial.map longField) ++ dirField s.passage.expected ++ dirField s.passage.direction ++
    byteField ((s.passage.gate.map Gate.code).getD 2) ++ byteField s.passage.checkSet.toNat ++ causeField s.shownCauses ++
    optField 1 (s.passage.outcomeToBe.map (fun o => byteField o.code)) ++ longField s.shownTime ++ leBytes 2 s.gateNet ++
    TimerName.all.flatMap s.timerField ++ wordField s.passage.falseApproaches

/-- The free values drawn so far counted on: the model's own field (log 15). -/
def Site.countDraw (s : Site) : Site := s.setFreeDraws (s.freeDraws + 1)

/-- PASSAGE_STATUS (R44). -/
def Site.passageStatus (s : Site) : Handled := s.countDraw.answerOk s.passageStatusBody

namespace Machine

/-- POINT_STATUS (R18). -/
def execPointStatus (p : Port) (tag : Byte) (body : List Byte) (s : State) : Host.Outcome State Fault Refusal :=
  request .pointStatus p tag body (fun t => t.pointStatus) s

/-- HEAD_RESTORE (R6). -/
def execHeadRestore (p : Port) (tag : Byte) (body : List Byte) (s : State) : Host.Outcome State Fault Refusal :=
  request .headRestore p tag body (fun t => t.headRestore body) s

/-- PASSAGE_STATUS (R44). -/
def execPassageStatus (p : Port) (tag : Byte) (body : List Byte) (s : State) : Host.Outcome State Fault Refusal :=
  request .passageStatus p tag body (fun t => t.passageStatus) s

end Machine

end Sys2Proof
end

