-- ==== Sys2Proof/Machine/PortCommands.lean ====
section
/-! DEFINITION. The lines of the two ports: gaps, discarded frames, answers sent, unknown requests (R193, R196, R198, R199). -/

namespace Sys2Proof.Machine

/-- The receiver after a byte taken as a hunting byte (R193, R196). -/
def portHunt (b : Byte) : Receiver := if b = 0xA5#8 then .inFrame else .hunting

/-- The receiver after a discarded frame (R196). After a length above 1,000 hunting resumes with the byte after the start byte,
so the two length bytes, low byte first (R193), are hunting bytes: a start byte among them starts a frame. -/
def receiverAfter : RequestDiscard → Receiver
  | .length n =>
    if portHunt (BitVec.ofNat 8 n.toNat) = .inFrame then .inFrame else portHunt (BitVec.ofNat 8 (n.toNat / 256))
  | .stopBit | .frame .. => .hunting

/-- A frame discarded without an answer, unless the part is held (R193, R196). -/
def State.discardFrame (s : State) (p : Port) (r : Receiver) : State :=
  if s.site.mode = .held then s else (s.frameError p).receive p r

/-- The oldest answer of a port wholly sent (R198); while the part is held no byte is sent (R224). -/
def State.answerSent (s : State) (p : Port) : State :=
  if s.site.mode = .held then s else s.putLine p { s.line p with answers := (s.line p).answers.drop 1 }

/-- The answer to a kind outside the catalogue: row 1 of R199, with an empty body. -/
def unknownKind (t : Site) : Handled := t.refuse .unknownRequest

/-- PORT_BYTE_GAP (R196). -/
def execPortByteGap (p : Port) (next : Byte) (s : State) : Host.Outcome State Fault Refusal :=
  .next (s.discardFrame p (portHunt next))

/-- REQUEST_FRAME_DISCARD (R196). -/
def execRequestFrameDiscard (p : Port) (what : RequestDiscard) (s : State) : Host.Outcome State Fault Refusal :=
  onWellFormed what.wf (fun s => s.discardFrame p (receiverAfter what)) s

/-- ANSWER_SENT (R198). -/
def execAnswerSent (p : Port) (s : State) : Host.Outcome State Fault Refusal := .next (s.answerSent p)

/-- UNKNOWN_REQUEST (R199). -/
def execUnknownRequest (p : Port) (tag kind : Byte) (body : List Byte) (s : State) : Host.Outcome State Fault Refusal :=
  onWellFormed (unknownWf kind body) (fun s => s.takeFrame p tag kind unknownKind) s

end Sys2Proof.Machine
end

