-- ==== Sys2Proof/Machine/RosterRequests.lean ====
section
/-! DEFINITION. ROSTER_READ, VEHICLE_READ and MODULE_STATUS (R67, R68, R91). -/

namespace Sys2Proof

/-! ### ROSTER_READ -/

/-- A bay value in ROSTER_READ: reason byte, peak, mean, quality (R67). -/
def BayValue.field : BayValue → List Byte
  | .forces peak mean q => byteField 0 ++ leBytes 2 peak ++ leBytes 2 mean ++ byteField q.code
  | .failed => byteField 0 ++ leBytes 2 0 ++ leBytes 2 0 ++ byteField Quality.failed.code
  | .unmeasured r => byteField r.code ++ leBytes 2 0 ++ leBytes 2 0 ++ byteField 0

/-- A bearing value in ROSTER_READ: reason byte, temperature, quality (R67). -/
def BearingValue.field : BearingValue → List Byte
  | .temp v q => byteField 0 ++ leIntBytes 2 v ++ byteField q.code
  | .failed => byteField 0 ++ leBytes 2 0 ++ byteField Quality.failed.code
  | .unmeasured r => byteField r.code ++ leBytes 2 0 ++ byteField 0

/-- An axle entry in ROSTER_READ: every field of the entry table (R67). -/
def AxleEntry.field (e : AxleEntry) : List Byte :=
  leBytes 2 e.ordinal ++ byteField e.state.code ++ longField e.crossingTime ++ optNat 2 e.speed ++ optNat 2 e.gap ++
    byteField e.gapClass.code ++ leBytes 2 e.vehicle ++ leBytes 2 e.position ++ optNat 1 e.axleIndex ++
    e.bays.toList.flatMap (fun b => b.rail1.field ++ b.rail2.field) ++ e.bearings.toList.flatMap BearingValue.field ++
    e.recross.toList.flatMap byteField ++ yesNo e.reversedOver

/-- Code of a standing in the headings: LIVE, FINAL (R67; log 20). -/
def RosterStanding.code : RosterStanding → Nat
  | .live => 0
  | .final => 1
  | .none => 0

/-- The net axle count of the heading (R67). -/
def Site.headingNet (s : Site) : Nat := if s.roster.standing = .live then s.gateNet else s.roster.net

/-- The roster serial of the headings, which a roster that is not NONE always has (R46). -/
def RosterUnit.serialField (u : RosterUnit) : List Byte := longField (u.serial.getD 0#32)

/-- The heading of ROSTER_READ (R67). -/
def Site.rosterHeading (s : Site) : List Byte :=
  s.roster.serialField ++ byteField s.roster.standing.code ++ leBytes 2 s.roster.entries.length ++
    leBytes 2 s.headingNet ++ wordField s.roster.generation

/-- The items of a list from item number `first` (counted from 1), at most `count` (R67, R68, R155, R156). -/
def itemsFrom {α : Type} (first count : Nat) (xs : List α) : List α := (xs.drop (first - 1)).take count

/-- The roster unit answers NOT_FOUND: standing NONE, or an expected serial that differs (R67, R68). -/
def RosterUnit.notFound (u : RosterUnit) (expected : Option Serial) : Bool :=
  u.standing == .none || (expected.isSome && expected != u.serial)

/-- ROSTER_READ (R67). -/
def Site.rosterRead (s : Site) (body : List Byte) : Handled :=
  let first := natAt body 5 2
  let count := natAt body 7 1
  match readOptLong body 0 with
  | none => s.refuse .badValue
  | some expected =>
    if first < 1 ∨ 1024 < first ∨ count < 1 ∨ 8 < count then s.refuse .badValue
    else if s.roster.notFound expected then s.refuse .notFound
    else s.answerOk (s.rosterHeading ++ listField ((itemsFrom first count s.roster.entries).map AxleEntry.field))

/-! ### VEHICLE_READ -/

/-- The number of a vehicle's entries that are PRESENT (R68). -/
def RosterUnit.presentCount (u : RosterUnit) (v : Vehicle) : Nat := (v.run u.entries).countP AxleEntry.isPresent

/-- A vehicle in VEHICLE_READ (R68). -/
def RosterUnit.vehicleField (u : RosterUnit) (v : Vehicle) : List Byte :=
  leBytes 2 v.position ++ leBytes 2 v.firstOrdinal ++ leBytes 2 v.axleCount ++ leBytes 2 (u.presentCount v) ++
    byteField v.state.code ++ optField 8 (v.tagCode.map tagField) ++ byteField v.tagState.code ++
    optNat 1 (v.taggedEnd.map VehicleEnd.number) ++ optNat 2 v.readPosition ++ byteField v.orientation.code ++
    v.snapshot.toList.flatMap levelOrNone

/-- The heading of VEHICLE_READ (R68). -/
def Site.vehicleHeading (s : Site) : List Byte :=
  s.roster.serialField ++ byteField s.roster.standing.code ++ leBytes 2 s.roster.vehicles.length ++
    wordField s.roster.generation

/-- VEHICLE_READ (R68). -/
def Site.vehicleRead (s : Site) (body : List Byte) : Handled :=
  let first := natAt body 5 2
  let count := natAt body 7 1
  match readOptLong body 0 with
  | none => s.refuse .badValue
  | some expected =>
    if first < 1 ∨ 256 < first ∨ count < 1 ∨ 16 < count then s.refuse .badValue
    else if s.roster.notFound expected then s.refuse .notFound
    else s.answerOk (s.vehicleHeading ++ listField ((itemsFrom first count s.roster.vehicles).map s.roster.vehicleField))

/-! ### MODULE_STATUS -/

/-- A module in MODULE_STATUS (R91). -/
def ModuleLine.statusField (l : ModuleLine) (n : Nat) : List Byte :=
  byteField (lineKindOf n).code ++ byteField l.arming.code ++ byteField l.health.code ++
    optNat 1 (l.lastClose.map LastClose.code) ++ leBytes 2 l.cursor ++ leBytes 2 l.beyond ++ wordField l.expected ++
    wordField l.crcTally ++ wordField l.orphanTally ++ wordField l.crcErrors ++ wordField l.malformed ++
    wordField l.stale ++ wordField l.outOfSequence ++ wordField l.missingReports ++ wordField l.orphans

/-- The body of MODULE_STATUS (R91). -/
def Site.moduleStatusBody (s : Site) : List Byte :=
  optField 2 (s.modules.passageNumber.map wordField) ++ yesNo s.modules.reversed ++ optInt 2 s.modules.ambient ++
    (mapFrom (fun n l => l.statusField n) 0 s.modules.lines.toList).flatten

/-- MODULE_STATUS (R91). -/
def Site.moduleStatus (s : Site) : Handled := s.answerOk s.moduleStatusBody

namespace Machine

/-- ROSTER_READ (R67). -/
def execRosterRead (p : Port) (tag : Byte) (body : List Byte) (s : State) : Host.Outcome State Fault Refusal :=
  request .rosterRead p tag body (fun t => t.rosterRead body) s

/-- VEHICLE_READ (R68). -/
def execVehicleRead (p : Port) (tag : Byte) (body : List Byte) (s : State) : Host.Outcome State Fault Refusal :=
  request .vehicleRead p tag body (fun t => t.vehicleRead body) s

/-- MODULE_STATUS (R91). -/
def execModuleStatus (p : Port) (tag : Byte) (body : List Byte) (s : State) : Host.Outcome State Fault Refusal :=
  request .moduleStatus p tag body (fun t => t.moduleStatus) s

end Machine

end Sys2Proof
end

