-- ==== Sys2Proof/Machine/Store.lean ====
section
/-! DEFINITION. The store controller: building images, ending writes, the OFFLINE state and the waiting STORE_SAVE
(R220 to R223). -/

namespace Sys2Proof

/-- The contents of an item's image, built from the item as it stands (R220). -/
def Site.imageOf (s : Site) : StoreItem → ImageContents
  | .slot i =>
    match s.watchEntry i with
    | some e => .slot (.live { e with hold := none, pending := [] })
    | none => .slot .free
  | .settings => .settings s.settings
  | .serial => .serial s.store.nextSerial

/-- The CRC-16 of an image, over its contents and stamp (R220). Its polynomial and initial value are those of the request frame,
and its bits are taken as there (log 42). -/
def imageCrc (c : ImageContents) (x : Stamp) : Word16 := crc16 portPoly (Config.imageBytes c x)

/-- The write of an item's image as it stands, with the next store stamp (R220). -/
def Site.newWrite (s : Site) (i : StoreItem) : Write :=
  { item := i, changed := false, contents := s.imageOf i, stamp := s.store.nextStamp,
    crc := imageCrc (s.imageOf i) s.store.nextStamp }

/-- The item at the head of the queue taken for writing, while RUNNING and ONLINE with no write in flight (R220). -/
def Site.startWrite (s : Site) : Site :=
  if s.mode = .running ∧ s.store.state = .online ∧ s.store.inFlight = none then
    match s.store.queue with
    | [] => s
    | i :: rest =>
      s.setStore
        { s.store with
          queue := rest
          inFlight := some (s.newWrite i)
          nextStamp := s.store.nextStamp + 1#32 }
  else s

/-- A waiting STORE_SAVE whose request lies after the image of the write that has ended no longer waits behind it (R223). -/
def WaitingSave.pass (w : WaitingSave) (item : StoreItem) : WaitingSave :=
  if item = .settings then { w with imageOlder := false } else w

/-- The stamp of a successful write taken by its slot (R221). -/
def Site.stampSlot (s : Site) (w : Write) : Site :=
  match w.item with
  | .slot i => s.putWatchSlot i { s.watchSlot i with stamp := w.stamp }
  | .settings | .serial => s

/-- The item no longer in flight; a waiting STORE_SAVE that the ended write was older than waits on (R221, R223). -/
def Site.landWrite (s : Site) (w : Write) : Site :=
  s.setStore { s.store with inFlight := none, waiting := s.store.waiting.map (fun v => v.pass w.item) }

/-- A write that succeeds (R221). -/
def Site.writeSucceeds (s : Site) (w : Write) : Site :=
  let s1 := (s.landWrite w).stampSlot w
  let s2 := s1.setStore { s1.store with failures := 0 }
  if w.changed then s2.enqueue w.item else s2

/-- The STORE_SAVE that a successful write ends: one that waits for SETTINGS and whose image was built after it (R223). -/
def StoreUnit.savedBy (u : StoreUnit) (w : Write) : Option WaitingSave :=
  if w.item = .settings then u.waiting.filter (fun v => !v.imageOlder) else none

/-- A write that fails; the third failure on end takes the store OFFLINE (R221). -/
def Site.writeFails (s : Site) (w : Write) : Site :=
  let s1 := (s.landWrite w).enqueue w.item
  let n := s1.store.failures + 1
  (s1.setStore
    { s1.store with
      faults := bump s1.store.faults
      failures := min 3 n
      state := if 3 ≤ n then .offline else s1.store.state }).raise .storeFault

/-- The waiting STORE_SAVE cleared at its end. -/
def Site.endWaiting (s : Site) : Site := s.setStore { s.store with waiting := none }

/-- STORE_RETRY on the store controller: the store ONLINE again, and writing resumed from the head of the queue at once (R220,
R222 and the worked example of chapter 11; log 41). -/
def Site.retryStore (s : Site) : Site :=
  if s.store.state = .offline then (s.setStore { s.store with state := .online, failures := 0 }).startWrite else s

/-- SETTINGS queued and the request made the waiting STORE_SAVE (R223). -/
def Site.startSave (s : Site) (tag : Byte) : Site :=
  let older := s.store.inFlight.any (fun w => w.item == .settings)
  let s1 := s.enqueue .settings
  s1.setStore { s1.store with waiting := some { tag := tag, imageOlder := older } }

end Sys2Proof
end

