-- ==== Sys2Proof/Machine/StoreCommands.lean ====
section
/-! DEFINITION. STORE_WRITE_START, STORE_WRITE_END, STORE_ACK_TIMEOUT, STORE_SAVE and STORE_RETRY (R220 to R223). -/

namespace Sys2Proof

/-- STORE_SAVE: STORE_OFFLINE at once, or SETTINGS queued and no answer yet (R223). -/
def Site.storeSave (s : Site) (tag : Byte) : Handled :=
  if s.store.state = .offline then s.refuse .storeOffline else { site := s.startSave tag, reply := none }

/-- STORE_RETRY (R222). -/
def Site.storeRetry (s : Site) : Handled :=
  s.retryStore.answerOk (byteField s.retryStore.store.state.code ++ leBytes 2 s.retryStore.store.queue.length)

namespace Machine

/-- A waiting STORE_SAVE ends: its answer joins the site link's queue, and it is no longer in progress (R197, R223). -/
def State.endSave (s : State) (w : WaitingSave) (r : Reply) : State :=
  (s.setSite s.site.endWaiting).pushReply .siteLink w.tag RequestKind.storeSave.code (some r)

/-- A write ends in success, and with it a STORE_SAVE that waited for it (R221, R223). -/
def State.writeDone (s : State) (w : Write) : State :=
  let s1 := s.setSite (s.site.writeSucceeds w)
  match s.site.store.savedBy w with
  | some v => s1.endSave v (.ok (longField w.stamp))
  | none => s1

/-- A waiting STORE_SAVE answered STORE_OFFLINE when the store is OFFLINE (R221, R223). -/
def State.failSave (s : State) : State :=
  match s.site.store.state, s.site.store.waiting with
  | .offline, some v => s.endSave v (.bare .storeOffline)
  | _, _ => s

/-- A write ends in failure (R221). -/
def State.writeLost (s : State) (w : Write) : State := (s.setSite (s.site.writeFails w)).failSave

/-- The end of the write in flight, if there is one and the part is not held (R221, R224). -/
def State.endWrite (s : State) (success : Bool) : State :=
  match s.site.store.inFlight with
  | some w => if s.site.mode = .running then (if success then s.writeDone w else s.writeLost w) else s
  | none => s

/-- STORE_WRITE_START (R220). -/
def execStoreWriteStart (s : State) : Host.Outcome State Fault Refusal := onSite Site.startWrite s

/-- STORE_ACK_TIMEOUT (R221). -/
def execStoreAckTimeout (s : State) : Host.Outcome State Fault Refusal := .next (s.endWrite false)

/-- STORE_WRITE_END (R221): success when the image read back equals the image sent. -/
def execStoreWriteEnd (readBackSame : Bool) (s : State) : Host.Outcome State Fault Refusal := .next (s.endWrite readBackSame)

/-- STORE_SAVE (R223). -/
def execStoreSave (p : Port) (tag : Byte) (body : List Byte) (s : State) : Host.Outcome State Fault Refusal :=
  request .storeSave p tag body (fun t => t.storeSave tag) s

/-- STORE_RETRY (R222). -/
def execStoreRetry (p : Port) (tag : Byte) (body : List Byte) (s : State) : Host.Outcome State Fault Refusal :=
  request .storeRetry p tag body (fun t => t.storeRetry) s

end Machine

end Sys2Proof
end

