-- ==== Sys2Proof/Machine/TracksideCommands.lean ====
section
/-! DEFINITION. HEAD_CHANGE, the head timers and the five timers of the passage (R1 to R4, R23, R24, R36, R39, R42). An expiry
takes effect when its timer runs and its time is out (log 10). -/

namespace Sys2Proof

/-- A timer of the passage runs and its time is out (R23, R24, R36, R39, R42). -/
def Site.timerDue (s : Site) (n : TimerName) : Bool := s.due (s.passage.timers.get n) (s.timerLimit n)

/-- The arm timer expires (R23). -/
def Site.armTimerEvent (s : Site) : Site := if s.timerDue .arm then s.armExpiry else s

/-- The arm timeout expires in ARMED with no held opening (R24). -/
def Site.armTimeoutEvent (s : Site) : Site :=
  if s.passage.phase = .armed ∧ s.passage.held = false ∧ s.timerDue .armTimeout = true then s.armTimeoutExpiry else s

/-- The standstill timer expires in IN_PASSAGE (R36). -/
def Site.standstillEvent (s : Site) : Site :=
  if s.passage.phase = .inPassage ∧ s.timerDue .standstill = true then s.standstillExpiry else s

/-- The clear timer expires in CLEARING: the passage closes by its count (R39). -/
def Site.clearEvent (s : Site) : Site :=
  if s.passage.phase = .clearing ∧ s.timerDue .clear = true then s.close s.outcomeByCount else s

/-- The passage limit expires: an open passage closes TIMED_OUT (R42). -/
def Site.limitEvent (s : Site) : Site :=
  if s.passageOpen = true ∧ s.timerDue .limit = true then s.close .timedOut else s

namespace Machine

/-- HEAD_CHANGE (R1). -/
def execHeadChange (head : HeadId) (level : Level) (s : State) : Host.Outcome State Fault Refusal :=
  onSite (fun t => t.headChange head level) s

/-- STUCK_TIMER_EXPIRY (R2). -/
def execStuckTimerExpiry (head : HeadId) (s : State) : Host.Outcome State Fault Refusal :=
  onSite (fun t => t.whenRunning (fun t => t.stuckExpiry head)) s

/-- QUIET_TIMER_EXPIRY (R4). -/
def execQuietTimerExpiry (head : HeadId) (s : State) : Host.Outcome State Fault Refusal :=
  onSite (fun t => t.whenRunning (fun t => t.quietExpiry head)) s

/-- ARM_TIMER_EXPIRY (R23). -/
def execArmTimerExpiry (s : State) : Host.Outcome State Fault Refusal :=
  onSite (fun t => t.whenRunning Site.armTimerEvent) s

/-- ARM_TIMEOUT_EXPIRY (R24). -/
def execArmTimeoutExpiry (s : State) : Host.Outcome State Fault Refusal :=
  onSite (fun t => t.whenRunning Site.armTimeoutEvent) s

/-- STANDSTILL_TIMER_EXPIRY (R36). -/
def execStandstillTimerExpiry (s : State) : Host.Outcome State Fault Refusal :=
  onSite (fun t => t.whenRunning Site.standstillEvent) s

/-- CLEAR_TIMER_EXPIRY (R39). -/
def execClearTimerExpiry (s : State) : Host.Outcome State Fault Refusal :=
  onSite (fun t => t.whenRunning Site.clearEvent) s

/-- PASSAGE_LIMIT_EXPIRY (R42). -/
def execPassageLimitExpiry (s : State) : Host.Outcome State Fault Refusal :=
  onSite (fun t => t.whenRunning Site.limitEvent) s

end Machine

end Sys2Proof
end

