-- ==== Sys2Proof/Machine/TrainRequests.lean ====
section
/-! DEFINITION. The requests of the train table (R152 to R163), and the expiry of a record's lease (R159). -/

namespace Sys2Proof

/-! ### Reading -/

/-- A holder in the train table's answers: none, site link, service port (R152; log 18). -/
def holderField (h : Option Hold) : List Byte := byteField ((h.map (fun h => h.port.code + 1)).getD 0)

/-- The lease remaining, present with a holder (R152; its rounding in SUMMARY: log 51). -/
def Site.leaseField (s : Site) (h : Option Hold) : List Byte := optNat 2 (h.map s.leaseLeft)

/-- A field of a record shown only once the record is CLOSED (R152). -/
def TrainRecord.whenClosed {α : Type} (r : TrainRecord) (f : Verdict → α) : Option α :=
  if r.phase = .closed then r.verdict.map f else none

/-- A slot's part in TRAIN_LIST (R152). -/
def Site.slotField (s : Site) (r : Option TrainRecord) : List Byte :=
  match r with
  | none => byteField (slotStateCode none)
  | some r =>
    byteField (slotStateCode (some r.phase)) ++ longField r.serial ++
      optNat 1 (r.whenClosed (fun v => v.grade.code)) ++ yesNo r.readMark ++ optNat 1 (r.whenClosed Verdict.deferred) ++
      holderField r.hold ++ s.leaseField r.hold

/-- TRAIN_LIST (R152). -/
def Site.trainList (s : Site) : Handled := s.answerOk (s.train.toList.flatMap s.slotField)

/-- What SUMMARY shows of the close and of composition (R154). -/
def TrainRecord.shownVerdict (r : TrainRecord) : Option Verdict := if r.phase = .opened then none else r.verdict

/-- The net axle count SUMMARY shows: of an OPEN record the counting gate's, else that of the close (R154). -/
def Site.summaryNet (s : Site) (r : TrainRecord) : Nat :=
  match r.close with
  | some c => if r.phase = .opened then s.gateNet else c.net
  | none => s.gateNet

/-- The speed figures SUMMARY shows: of an OPEN record as they stand (R33, R154). -/
def Site.summarySpeeds (s : Site) (r : TrainRecord) : List Byte :=
  let t := s.passage.tally
  match r.phase, r.close with
  | .opened, _ => optNat 2 (t.figure t.least) ++ optNat 2 (t.figure t.greatest) ++ optNat 2 (t.figure (t.sum / t.count))
  | _, some c => optNat 2 c.speedMin ++ optNat 2 c.speedMax ++ optNat 2 c.speedMean
  | _, none => optNat 2 none ++ optNat 2 none ++ optNat 2 none

/-- What SUMMARY shows of the close (R154). -/
def TrainRecord.shownClose (r : TrainRecord) : Option CloseFigures := if r.phase = .opened then none else r.close

/-- The SUMMARY of a record (R154; log 19). The holder and lease of an OPEN record are sent in their places, none and absent
(log 47). -/
def Site.summaryBody (s : Site) (r : TrainRecord) : List Byte :=
  let c := r.shownClose
  let v := r.shownVerdict
  longField r.serial ++ byteField (slotStateCode (some r.phase)) ++ byteField r.direction.code ++
    dateTimeField r.opened ++ optField 8 (c.map (fun c => dateTimeField c.closed)) ++
    optNat 1 (c.map (fun c => c.outcome.code)) ++ leBytes 2 (s.summaryNet r) ++ optNat 2 (v.map Verdict.rosterLength) ++
    optNat 2 (v.map Verdict.retracted) ++ optNat 2 (v.map Verdict.vehicleCount) ++ s.summarySpeeds r ++
    optField 5 (v.map (fun v => measureField 4 v.trainLoad)) ++ optInt 2 (v.bind Verdict.mean1) ++
    optInt 2 (v.bind Verdict.mean2) ++ optInt 2 (c.bind CloseFigures.ambient) ++
    optNat 1 (v.map (fun v => v.grade.code)) ++ causeField r.causes ++ optNat 1 (v.map (fun v => v.findings.length)) ++
    optNat 2 (v.map Verdict.overflow) ++ optNat 1 (v.map Verdict.deferred) ++ yesNo r.readMark ++ holderField r.hold ++
    s.leaseField r.hold ++ wordField r.generation

/-- A vehicle of the VEHICLES part (R155). -/
def VehicleCopy.field (v : VehicleCopy) : List Byte :=
  leBytes 2 v.position ++ leBytes 2 v.firstOrdinal ++ leBytes 2 v.axleCount ++ optField 8 (v.tagCode.map tagField) ++
    byteField v.tagState.code ++ byteField v.orientation.code ++ measureField 4 v.load ++ byteField v.worst.code ++
    levelOrNone v.highest

/-- The VEHICLES part (R155). -/
def TrainRecord.vehiclesBody (r : TrainRecord) (v : Verdict) (first count : Nat) : List Byte :=
  longField r.serial ++ leBytes 2 v.vehicleCount ++ listField ((itemsFrom first count v.vehicles).map VehicleCopy.field)

/-- A finding's kind byte: the criterion number, or the code of WATCHED_VEHICLE, a free value (R135; log 17). -/
def FindingKind.field : FindingKind → List Byte
  | .criterion n => byteField (n.val + 1)
  | .watchedVehicle => [Config.watchedVehicleCode]

/-- A finding of the FINDINGS part (R135, R156; log 21). -/
def Finding.field (f : Finding) : List Byte :=
  byteField f.number ++ f.kind.field ++ optNat 2 f.vehicle ++ optNat 2 f.ordinal ++ optNat 1 (f.rail.map Rail.number) ++
    optNat 1 (f.side.map Side.code) ++ optField 3 (f.index.map (fun i => leBytes 2 i.index ++ byteField i.basis.code)) ++
    optField 5 (f.measure.map (measureField 4)) ++ byteField f.threshold.code ++ byteField f.grade.code ++
    byteField f.state.code ++ optNat 1 (f.resolvedGrade.map Grade.code)

/-- The FINDINGS part (R156). -/
def TrainRecord.findingsBody (r : TrainRecord) (v : Verdict) (first count : Nat) : List Byte :=
  longField r.serial ++ byteField v.findings.length ++ leBytes 2 v.overflow ++ byteField v.deferred ++
    byteField v.grade.code ++ listField ((itemsFrom first count v.findings).map Finding.field)

/-- The parts of a record (R153). -/
inductive RecordPart where
  | summary | vehicles | findings
  deriving DecidableEq, Repr

/-- The part a byte names: SUMMARY, VEHICLES, FINDINGS (R153, R195). -/
def RecordPart.ofCode : Nat → Option RecordPart
  | 0 => some .summary
  | 1 => some .vehicles
  | 2 => some .findings
  | _ => none

/-- The first item and count of a TRAIN_READ lie in the part's ranges (R153). -/
def RecordPart.rangeOk (p : RecordPart) (first count : Nat) : Bool :=
  match p with
  | .summary => true
  | .vehicles => decide (1 ≤ first) && decide (first ≤ 256) && decide (1 ≤ count) && decide (count ≤ 32)
  | .findings => decide (1 ≤ first) && decide (first ≤ 96) && decide (1 ≤ count) && decide (count ≤ 24)

/-- A record read for the first time, once CLOSED (R154). -/
def TrainRecord.markRead (r : TrainRecord) : TrainRecord := if r.phase = .closed then { r with readMark := true } else r

/-- The part of a record that is not CLOSING (R153 to R156). -/
def Site.readPart (s : Site) (i : Fin 4) (r : TrainRecord) (part : RecordPart) (first count : Nat) : Handled :=
  match part, r.shownVerdict with
  | .summary, _ => (s.putRecord i (some r.markRead)).answerOk (s.summaryBody r.markRead)
  | .vehicles, some v => s.answerOk (r.vehiclesBody v first count)
  | .findings, some v => s.answerOk (r.findingsBody v first count)
  | .vehicles, none => s.refuse .notReady
  | .findings, none => s.refuse .notReady

/-- A request that names a record by serial: what happens with its slot, or NOT_FOUND (R153). -/
def Site.withRecord (s : Site) (n : Serial) (f : Fin 4 → TrainRecord → Handled) : Handled :=
  match s.findRecord n with
  | some i =>
    match s.recordAt i with
    | some r => f i r
    | none => s.refuse .notFound
  | none => s.refuse .notFound

/-- The serial a body opens with. -/
def serialAt (body : List Byte) : Serial := BitVec.ofNat 32 (natAt body 0 4)

/-- TRAIN_READ (R153). -/
def Site.trainRead (s : Site) (body : List Byte) : Handled :=
  let first := natAt body 5 2
  let count := natAt body 7 1
  match RecordPart.ofCode (natAt body 4 1) with
  | none => s.refuse .badValue
  | some part =>
    if part.rangeOk first count = false then s.refuse .badValue
    else
      s.withRecord (serialAt body) (fun i r =>
        if r.phase = .closing then s.refuse .notReady else s.readPart i r part first count)

/-! ### Holds -/

/-- A record's hold taken or renewed, answered with the lease remaining (R158). -/
def Site.grantTrainHold (s : Site) (i : Fin 4) (r : TrainRecord) (p : Port) : Handled :=
  (s.putRecord i (some { r with hold := some (s.newHold p) })).answerOk (leBytes 2 (s.leaseLeft (s.newHold p)))

/-- TRAIN_HOLD (R158). -/
def Site.trainHold (s : Site) (p : Port) (body : List Byte) : Handled :=
  s.withRecord (serialAt body) (fun i r =>
    if r.phase ≠ .closed then s.refuse .notClosed
    else if heldByOther r.hold p then s.refuse .heldByOther
    else if heldBy r.hold p then s.grantTrainHold i r p
    else if 4 ≤ s.holds.get p then s.refuse .holdLimit
    else (s.gainHold p).grantTrainHold i r p)

/-- A record's hold ended: holder and lease cleared, the holder's count lowered (R157, R159). -/
def Site.endTrainHold (s : Site) (i : Fin 4) (r : TrainRecord) (p : Port) : Site :=
  (s.putRecord i (some { r with hold := none })).loseHold p

/-- TRAIN_RELEASE (R159). -/
def Site.trainRelease (s : Site) (p : Port) (body : List Byte) : Handled :=
  s.withRecord (serialAt body) (fun i r =>
    if r.phase ≠ .closed then s.refuse .notClosed
    else if heldBy r.hold p then (s.endTrainHold i r p).answerOk []
    else s.refuse .notHeld)

/-- A record's lease runs out (R159). -/
def Site.trainLeaseExpiry (s : Site) (i : Fin 4) : Site :=
  match s.recordAt i with
  | some r =>
    match r.hold with
    | some h => if h.expiry ≤ s.now then (s.endTrainHold i r h.port).raise .leaseExpired else s
    | none => s
  | none => s

/-! ### Settling and retiring -/

/-- A resolution contribution handed to the watch table, when there is a key (R162). -/
def Site.sendResolution (s : Site) (k : Option WatchKey) (g : Grade) : Site :=
  match k with
  | some k => s.contribute (.resolution k g)
  | none => s

/-- A resolution taken as OK (R161, R162). -/
def Site.resolveFinding (s : Site) (i : Fin 4) (r : TrainRecord) (v : Verdict) (f : Finding) (g : Grade) : Handled :=
  let w := v.resolve f.number g
  let rises := !(v.grade.atLeast .alarm) && w.grade.atLeast .alarm
  let s1 := (s.putRecord i (some { r with verdict := some w })).raiseIf rises .gradeAlarm
  (s1.sendResolution (v.keyOf f) g).answerOk
    (byteField w.grade.code ++ byteField w.deferred ++ yesNo (v.keyOf f).isSome)

/-- TRAIN_RESOLVE on the finding of a number of a CLOSED record (R160). -/
def Site.resolveNumber (s : Site) (i : Fin 4) (r : TrainRecord) (number : Nat) (g : Grade) : Handled :=
  match r.verdict with
  | some v =>
    match v.findings[number - 1]? with
    | some f => if f.state = .deferred then s.resolveFinding i r v f g else s.refuse .wrongState
    | none => s.refuse .notFound
  | none => s.refuse .notFound

/-- TRAIN_RESOLVE (R160). -/
def Site.trainResolve (s : Site) (p : Port) (body : List Byte) : Handled :=
  let number := natAt body 4 1
  match Grade.ofCode (natAt body 5 1) with
  | none => s.refuse .badValue
  | some g =>
    if number < 1 ∨ 96 < number then s.refuse .badValue
    else
      s.withRecord (serialAt body) (fun i r =>
        if r.phase ≠ .closed then s.refuse .notClosed
        else if heldByOther r.hold p then s.refuse .heldByOther
        else s.resolveNumber i r number g)

/-- A record retired: deferred findings abandoned, its holder's hold ended, the slot FREE (R163). -/
def Site.retireRecord (s : Site) (i : Fin 4) (r : TrainRecord) (p : Port) : Site :=
  let s1 := s.abandonDeferred r
  (if heldBy r.hold p then s1.loseHold p else s1).putRecord i none

/-- TRAIN_RETIRE (R163). -/
def Site.trainRetire (s : Site) (p : Port) (body : List Byte) : Handled :=
  s.withRecord (serialAt body) (fun i r =>
    if r.phase ≠ .closed then s.refuse .notClosed
    else if heldByOther r.hold p then s.refuse .heldByOther
    else (s.retireRecord i r p).answerOk [])

namespace Machine

/-- TRAIN_LEASE_EXPIRY (R159). -/
def execTrainLeaseExpiry (slot : Fin 4) (s : State) : Host.Outcome State Fault Refusal :=
  onSite (fun t => t.whenRunning (fun t => t.trainLeaseExpiry slot)) s

/-- TRAIN_LIST (R152). -/
def execTrainList (p : Port) (tag : Byte) (body : List Byte) (s : State) : Host.Outcome State Fault Refusal :=
  request .trainList p tag body (fun t => t.trainList) s

/-- TRAIN_READ (R153). -/
def execTrainRead (p : Port) (tag : Byte) (body : List Byte) (s : State) : Host.Outcome State Fault Refusal :=
  request .trainRead p tag body (fun t => t.trainRead body) s

/-- TRAIN_HOLD (R158). -/
def execTrainHold (p : Port) (tag : Byte) (body : List Byte) (s : State) : Host.Outcome State Fault Refusal :=
  request .trainHold p tag body (fun t => t.trainHold p body) s

/-- TRAIN_RELEASE (R159). -/
def execTrainRelease (p : Port) (tag : Byte) (body : List Byte) (s : State) : Host.Outcome State Fault Refusal :=
  request .trainRelease p tag body (fun t => t.trainRelease p body) s

/-- TRAIN_RESOLVE (R160). -/
def execTrainResolve (p : Port) (tag : Byte) (body : List Byte) (s : State) : Host.Outcome State Fault Refusal :=
  request .trainResolve p tag body (fun t => t.trainResolve p body) s

/-- TRAIN_RETIRE (R163). -/
def execTrainRetire (p : Port) (tag : Byte) (body : List Byte) (s : State) : Host.Outcome State Fault Refusal :=
  request .trainRetire p tag body (fun t => t.trainRetire p body) s

end Machine

end Sys2Proof
end

