-- ==== Sys2Proof/Machine/WatchRequests.lean ====
section
/-! DEFINITION. The requests of the watch table (R173, R178, R180 to R185, R188), and its timed commands (R177, R189). -/

namespace Sys2Proof

/-! ### The two forms -/

/-- A per-side list: a count byte, then its values of 2 bytes (R166, R195). -/
def valuesField (xs : List Int) : List Byte := listField (xs.map (leIntBytes 2))

/-- A holder with its lease remaining, as one optional field (R180; its rounding: log 51). -/
def Site.entryHolder (s : Site) (h : Option Hold) : List Byte :=
  optField 3 (h.map (fun h => byteField h.port.code ++ leBytes 2 (s.leaseLeft h)))

/-- A watch key: tag code, axle index. -/
def WatchKey.field (k : WatchKey) : List Byte := tagField k.tag ++ byteField k.index

/-- The full form of an entry (R180). The note is its length byte and bytes, with no presence byte (log 48). -/
def Site.fullForm (s : Site) (i : Fin 512) (e : WatchEntry) : List Byte :=
  leBytes 2 i.val ++ e.key.field ++ byteField e.origin.code ++ byteField e.level.code ++
    optNat 1 (e.floor.map WatchLevel.code) ++ valuesField e.rise1 ++ valuesField e.rise2 ++ valuesField e.excess1 ++
    valuesField e.excess2 ++ wordField e.passages ++ wordField e.exceedances ++ byteField e.cleanRun ++
    optField 4 (e.lastSerial.map longField) ++ optField 4 (e.lastDate.map dateField) ++ leBytes 2 e.unseen ++
    yesNo e.stale ++ wordField e.sweepStamp ++ wordField e.revision ++ noteField e.note ++ s.entryHolder e.hold ++
    byteField e.pending.length

/-- The short form of an entry (R180). -/
def WatchEntry.shortForm (e : WatchEntry) (i : Fin 512) : List Byte :=
  leBytes 2 i.val ++ e.key.field ++ byteField e.origin.code ++ byteField e.level.code ++
    optNat 1 (e.floor.map WatchLevel.code) ++ wordField e.revision ++ yesNo e.stale ++
    optNat 1 (e.hold.map (fun h => h.port.code)) ++ wordField e.passages ++ wordField e.exceedances ++
    byteField e.cleanRun ++ leBytes 2 e.unseen ++ byteField e.pending.length

/-! ### Finding and scanning -/

/-- The full form of the entry of a key (R181). -/
def Site.findOne (s : Site) (k : WatchKey) : Handled :=
  match s.findKey k with
  | some i =>
    match s.watchEntry i with
    | some e => s.answerOk (s.fullForm i e)
    | none => s.refuse .notFound
  | none => s.refuse .notFound

/-- The short form of the entry of a key, if LIVE. -/
def Site.shortOf (s : Site) (k : WatchKey) : Option (List Byte) :=
  (s.findKey k).bind (fun i => (s.watchEntry i).map (fun e => e.shortForm i))

/-- The short forms of every LIVE entry of a tag code, in index order (R181). -/
def Site.findAll (s : Site) (tag : TagCode) : Handled :=
  match (List.range 13).filterMap (fun i => s.shortOf { tag := tag, index := i }) with
  | [] => s.refuse .notFound
  | forms => s.answerOk (listField forms)

/-- The tag code at the head of a body. -/
def tagAt (body : List Byte) : TagCode := BitVec.ofNat 64 (natAt body 0 8)

/-- WATCH_FIND (R181): 255 names ALL (R195). -/
def Site.watchFind (s : Site) (body : List Byte) : Handled :=
  let index := natAt body 8 1
  if index = 255 then s.findAll (tagAt body)
  else if 12 < index then s.refuse .badValue
  else s.findOne { tag := tagAt body, index := index }

/-- The entry of a slot, when LIVE and at least at a level (R182). -/
def Site.atLevel (s : Site) (l : WatchLevel) (i : Fin 512) : Option WatchEntry :=
  (s.watchEntry i).filter (fun e => !(l.above e.level))

/-- What a scan gives: the forms of the entries taken, and the next slot (R182). -/
structure Scan where
  forms : List (List Byte)
  next : Nat
  deriving DecidableEq, Repr

/-- The table examined over a run of slots until `k` entries are taken; at the end of the run the next slot is 512 (R182). -/
def Site.scanSlots (s : Site) (l : WatchLevel) : Nat → List (Fin 512) → Scan
  | _, [] => { forms := [], next := 512 }
  | 0, i :: _ => { forms := [], next := i.val }
  | k + 1, i :: is =>
    match s.atLevel l i with
    | some e => { scanSlots s l k is with forms := s.fullForm i e :: (scanSlots s l k is).forms }
    | none => scanSlots s l (k + 1) is

/-- The heading of WATCH_SCAN (R182). -/
def Site.scanHeading (s : Site) : List Byte :=
  leBytes 2 s.freeCount ++ wordField s.watch.sweepSerial ++ byteField s.watch.sweepState.code ++
    leBytes 2 s.watch.cursor ++ yesNo s.watch.startPending

/-- WATCH_SCAN (R182). -/
def Site.watchScan (s : Site) (body : List Byte) : Handled :=
  let first := natAt body 0 2
  let count := natAt body 2 1
  match WatchLevel.ofCode (natAt body 3 1) with
  | none => s.refuse .badValue
  | some l =>
    if 511 < first ∨ count < 1 ∨ 8 < count then s.refuse .badValue
    else
      let r := s.scanSlots l count (watchIds.drop first)
      s.answerOk (s.scanHeading ++ listField r.forms ++ leBytes 2 r.next)

/-! ### Enrolment -/

/-- An enrolled entry (R183). -/
def newEnrolled (k : WatchKey) (l : WatchLevel) (note : List Byte) (sweepSerial : Word16) : WatchEntry :=
  { key := k, origin := .enrolled, level := l, floor := some l, rise1 := [], rise2 := [], excess1 := [], excess2 := [],
    passages := 0#16, exceedances := 0#16, cleanRun := 0, lastSerial := none, lastDate := none, unseen := 0, stale := false,
    sweepStamp := sweepSerial, revision := 0#16, note := note, hold := none, pending := [] }

/-- Slot and revision, as EXISTS and OK carry them (R183). -/
def slotRevision (i : Fin 512) (r : Word16) : List Byte := leBytes 2 i.val ++ wordField r

/-- The revision of the entry in a slot. -/
def Site.revisionAt (s : Site) (i : Fin 512) : Word16 :=
  match s.watchEntry i with
  | some e => e.revision
  | none => 0#16

/-- WATCH_ENROL of a key, a level and a note in their ranges (R183). -/
def Site.enrol (s : Site) (k : WatchKey) (l : WatchLevel) (note : List Byte) : Handled :=
  match s.findKey k with
  | some i => s.answer { status := .exists, body := slotRevision i (s.revisionAt i) }
  | none =>
    match s.lowestFree with
    | some i =>
      ((s.putEntry i (newEnrolled k l note s.watch.sweepSerial)).enqueue (.slot i)).answerOk (slotRevision i 0#16)
    | none => s.refuse .full

/-- WATCH_ENROL (R183). -/
def Site.watchEnrol (s : Site) (body : List Byte) : Handled :=
  let index := natAt body 8 1
  match WatchLevel.ofCode (natAt body 9 1), readNote body 10 with
  | some l, some note =>
    if 12 < index then s.refuse .badValue else s.enrol { tag := tagAt body, index := index } l note
  | _, _ => s.refuse .badValue

/-! ### Slots named by a request -/

/-- The slot a number names (R173). -/
def slotOf (n : Nat) : Option (Fin 512) := if h : n < 512 then some ⟨n, h⟩ else none

/-- A broken-hold notice cleared, and the request answered NOT_HELD (R176). -/
def Site.tellBroken (s : Site) (i : Fin 512) (p : Port) : Handled :=
  (s.putWatchSlot i ((s.watchSlot i).setNotice p false)).refuse .notHeld

/-! ### Holds -/

/-- An entry's hold taken or renewed, answered with its full form and the lease remaining (R173). -/
def Site.grantWatchHold (s : Site) (i : Fin 512) (e : WatchEntry) (p : Port) : Handled :=
  let e1 : WatchEntry := { e with hold := some (s.newHold p) }
  let s1 := s.putEntry i e1
  s1.answerOk (s1.fullForm i e1 ++ leBytes 2 (s.leaseLeft (s.newHold p)))

/-- WATCH_HOLD of a slot (R173). -/
def Site.holdSlot (s : Site) (p : Port) (i : Fin 512) : Handled :=
  if (s.watchSlot i).notice p then s.tellBroken i p
  else
    match s.watchEntry i with
    | none => s.refuse .notFound
    | some e =>
      match e.hold with
      | some h => if h.port = p then s.grantWatchHold i e p else s.refuse .heldByOther
      | none => if 4 ≤ s.holds.get p then s.refuse .holdLimit else (s.gainHold p).grantWatchHold i e p

/-- WATCH_HOLD (R173). -/
def Site.watchHold (s : Site) (p : Port) (body : List Byte) : Handled :=
  match slotOf (natAt body 0 2) with
  | some i => s.holdSlot p i
  | none => s.refuse .badValue

/-- The answer of a release: the entry's revision, or absent when the pending contributions retired it (R178; log 22). -/
def releaseField (r : Option Word16) : List Byte := optField 2 (r.map wordField)

/-- A release taken: the pending applied, then answered (R177, R178). -/
def Site.releaseHeld (s : Site) (i : Fin 512) (e : WatchEntry) : Handled :=
  let r := s.releaseEntry i e
  r.1.answerOk (releaseField (if r.2 then some (r.1.revisionAt i) else none))

/-- WATCH_RELEASE of a slot (R178). -/
def Site.releaseSlot (s : Site) (p : Port) (i : Fin 512) : Handled :=
  if (s.watchSlot i).notice p then s.tellBroken i p
  else
    match s.watchEntry i with
    | some e => if heldBy e.hold p then s.releaseHeld i e else s.refuse .notHeld
    | none => s.refuse .notHeld

/-- WATCH_RELEASE (R178). -/
def Site.watchRelease (s : Site) (p : Port) (body : List Byte) : Handled :=
  match slotOf (natAt body 0 2) with
  | some i => s.releaseSlot p i
  | none => s.refuse .badValue

/-- A watch lease runs out (R177). -/
def Site.watchLeaseExpiry (s : Site) (i : Fin 512) : Site :=
  match s.watchLeaseDue i with
  | some e => ((s.raise .leaseExpired).releaseEntry i e).1
  | none => s

/-! ### Amending and retiring -/

/-- The changes an amendment names (R184). -/
structure Amendment where
  level : Option WatchLevel
  floor : Option WatchLevel
  note : Option (List Byte)
  clear : Bool
  deriving DecidableEq, Repr

/-- A change named, with its field read: outer none when the field is not one it may be (R184). -/
def named {α : Type} (b : Bool) (v : Option α) : Option (Option α) := if b then v.map some else some none

/-- The amendment a body carries from byte 4 on: none when no change or an unknown one is named, or a named field is out of range
(R184; log 24). -/
def readAmendment (body : List Byte) : Option Amendment :=
  let set := BitVec.ofNat 8 (natAt body 4 1)
  if set = 0#8 ∨ 16 ≤ set.toNat then none
  else
    match named (set.getLsbD 0) (WatchLevel.ofCode (natAt body 5 1)), named (set.getLsbD 1) (WatchLevel.ofCode (natAt body 6 1)),
        named (set.getLsbD 2) (readNote body 7) with
    | some l, some f, some n => some { level := l, floor := f, note := n, clear := set.getLsbD 3 }
    | _, _, _ => none

/-- The level that an amendment leaves (R184). -/
def Amendment.levelAfter (a : Amendment) (e : WatchEntry) : WatchLevel := a.level.getD e.level

/-- The floor that an amendment leaves (R185). -/
def Amendment.floorAfter (a : Amendment) (e : WatchEntry) : Option WatchLevel :=
  match e.origin with
  | .raised => a.level
  | .enrolled => a.floor.or e.floor

/-- A clear of counts (R185). -/
def WatchEntry.clearCounts (e : WatchEntry) : WatchEntry :=
  { e with
    passages := 0#16
    exceedances := 0#16
    cleanRun := 0
    unseen := 0
    rise1 := []
    rise2 := []
    excess1 := []
    excess2 := []
    stale := false }

/-- An entry amended, before its revision rises (R185). -/
def WatchEntry.amend (e : WatchEntry) (a : Amendment) : WatchEntry :=
  let e1 : WatchEntry :=
    { e with
      level := a.levelAfter e
      floor := a.floorAfter e
      origin := if a.level.isSome then .enrolled else e.origin
      cleanRun := if a.level.isSome then 0 else e.cleanRun
      note := a.note.getD e.note }
  if a.clear then e1.clearCounts else e1

/-- The floor that would result lies above the level that would result (R184). -/
def Amendment.floorTooHigh (a : Amendment) (e : WatchEntry) : Bool :=
  (a.floorAfter e).any (fun f => f.above (a.levelAfter e))

/-- The checks an amendment and a retirement share, by slot, notice, holder and revision (R184, R185). -/
def Site.withRevision (s : Site) (p : Port) (i : Fin 512) (expected : Word16) (f : WatchEntry → Handled) : Handled :=
  if (s.watchSlot i).notice p then s.tellBroken i p
  else
    match s.watchEntry i with
    | none => s.refuse .notFound
    | some e =>
      if heldByOther e.hold p then s.refuse .heldByOther
      else if e.revision ≠ expected then s.answer { status := .stale, body := s.fullForm i e }
      else f e

/-- An amendment's last checks and its effect (R184, R185). -/
def Site.amendEntry (s : Site) (i : Fin 512) (a : Amendment) (e : WatchEntry) : Handled :=
  if e.origin = .raised ∧ a.floor.isSome = true then s.refuse .wrongState
  else if a.floorTooHigh e then s.refuse .badValue
  else
    ((s.putEntry i (e.amend a).revise).enqueue (.slot i)).answerOk (wordField (e.amend a).revise.revision)

/-- The revision a body carries in bytes 2 and 3 (R184, R185). -/
def revisionIn (body : List Byte) : Word16 := BitVec.ofNat 16 (natAt body 2 2)

/-- WATCH_AMEND (R184). -/
def Site.watchAmend (s : Site) (p : Port) (body : List Byte) : Handled :=
  match slotOf (natAt body 0 2), readAmendment body with
  | some i, some a => s.withRevision p i (revisionIn body) (s.amendEntry i a)
  | _, _ => s.refuse .badValue

/-- An entry retired by its request: pending contributions discarded and counted, the sender's hold ended, the slot FREE
(R185). -/
def Site.retireEntry (s : Site) (i : Fin 512) (e : WatchEntry) : Site :=
  let s1 := s.setCounts { s.counts with contributionsDiscarded := bumpBy e.pending.length s.counts.contributionsDiscarded }
  (s1.endHold i).freeSlot i

/-- WATCH_RETIRE (R185). -/
def Site.watchRetire (s : Site) (p : Port) (body : List Byte) : Handled :=
  match slotOf (natAt body 0 2) with
  | some i => s.withRevision p i (revisionIn body) (fun e => (s.retireEntry i e).answerOk [])
  | none => s.refuse .badValue

/-! ### SWEEP_NOW -/

/-- The outcome of SWEEP_NOW, in the order STARTED, KEPT_PENDING, ALREADY_RUNNING (R188). -/
def Site.sweepOutcome (s : Site) : Nat :=
  if s.watch.sweepState ≠ .idle then 2 else if s.passageOpen then 1 else 0

/-- SWEEP_NOW (R188). -/
def Site.sweepNow (s : Site) : Handled :=
  if s.clock.isSet = false then s.refuse .wrongState
  else s.takeSweepStart.answerOk (byteField s.sweepOutcome ++ wordField s.takeSweepStart.watch.sweepSerial)

namespace Machine

/-- WATCH_LEASE_EXPIRY (R177). -/
def execWatchLeaseExpiry (slot : Fin 512) (s : State) : Host.Outcome State Fault Refusal :=
  onSite (fun t => t.whenRunning (fun t => t.watchLeaseExpiry slot)) s

/-- SWEEP_VISIT (R189). -/
def execSweepVisit (s : State) : Host.Outcome State Fault Refusal := onSite (fun t => t.whenRunning Site.sweepVisit) s

/-- WATCH_FIND (R181). -/
def execWatchFind (p : Port) (tag : Byte) (body : List Byte) (s : State) : Host.Outcome State Fault Refusal :=
  request .watchFind p tag body (fun t => t.watchFind body) s

/-- WATCH_SCAN (R182). -/
def execWatchScan (p : Port) (tag : Byte) (body : List Byte) (s : State) : Host.Outcome State Fault Refusal :=
  request .watchScan p tag body (fun t => t.watchScan body) s

/-- WATCH_ENROL (R183). -/
def execWatchEnrol (p : Port) (tag : Byte) (body : List Byte) (s : State) : Host.Outcome State Fault Refusal :=
  request .watchEnrol p tag body (fun t => t.watchEnrol body) s

/-- WATCH_AMEND (R184). -/
def execWatchAmend (p : Port) (tag : Byte) (body : List Byte) (s : State) : Host.Outcome State Fault Refusal :=
  request .watchAmend p tag body (fun t => t.watchAmend p body) s

/-- WATCH_RETIRE (R185). -/
def execWatchRetire (p : Port) (tag : Byte) (body : List Byte) (s : State) : Host.Outcome State Fault Refusal :=
  request .watchRetire p tag body (fun t => t.watchRetire p body) s

/-- WATCH_HOLD (R173). -/
def execWatchHold (p : Port) (tag : Byte) (body : List Byte) (s : State) : Host.Outcome State Fault Refusal :=
  request .watchHold p tag body (fun t => t.watchHold p body) s

/-- WATCH_RELEASE (R178). -/
def execWatchRelease (p : Port) (tag : Byte) (body : List Byte) (s : State) : Host.Outcome State Fault Refusal :=
  request .watchRelease p tag body (fun t => t.watchRelease p body) s

/-- SWEEP_NOW (R188). -/
def execSweepNow (p : Port) (tag : Byte) (body : List Byte) (s : State) : Host.Outcome State Fault Refusal :=
  request .sweepNow p tag body (fun t => t.sweepNow) s

end Machine

end Sys2Proof
end

