-- ==== Sys2Proof/Machine/Dispatch.lean ====
section
/-! DEFINITION. One arm per command: the direct call of its meaning. -/

namespace Sys2Proof.Machine

/-- The effect of a command on everything but the queue. -/
def exec (i : Instr) (s : State) : Host.Outcome State Fault Refusal :=
  match i with
  | .coldStart lrateHigh srateHigh => Sys2Proof.Machine.execColdStart lrateHigh srateHigh s
  | .loadSettingsImage image => Sys2Proof.Machine.execLoadSettingsImage image s
  | .loadSerialImage image => Sys2Proof.Machine.execLoadSerialImage image s
  | .loadSlotImage image => Sys2Proof.Machine.execLoadSlotImage image s
  | .loadingEnd => Sys2Proof.Machine.execLoadingEnd s
  | .headChange head level => Sys2Proof.Machine.execHeadChange head level s
  | .stuckTimerExpiry head => Sys2Proof.Machine.execStuckTimerExpiry head s
  | .quietTimerExpiry head => Sys2Proof.Machine.execQuietTimerExpiry head s
  | .armTimerExpiry => Sys2Proof.Machine.execArmTimerExpiry s
  | .armTimeoutExpiry => Sys2Proof.Machine.execArmTimeoutExpiry s
  | .standstillTimerExpiry => Sys2Proof.Machine.execStandstillTimerExpiry s
  | .clearTimerExpiry => Sys2Proof.Machine.execClearTimerExpiry s
  | .passageLimitExpiry => Sys2Proof.Machine.execPassageLimitExpiry s
  | .moduleByteGap line next => Sys2Proof.Machine.execModuleByteGap line next s
  | .moduleReady line frame => Sys2Proof.Machine.execModuleReady line frame s
  | .bayScannerReport line frame => Sys2Proof.Machine.execBayScannerReport line frame s
  | .tagReport frame => Sys2Proof.Machine.execTagReport frame s
  | .composeDerive => Sys2Proof.Machine.execComposeDerive s
  | .composeTestCriteria => Sys2Proof.Machine.execComposeTestCriteria s
  | .composeWatchedVehicles => Sys2Proof.Machine.execComposeWatchedVehicles s
  | .composeSelect => Sys2Proof.Machine.execComposeSelect s
  | .composeVerdict => Sys2Proof.Machine.execComposeVerdict s
  | .passageContribution => Sys2Proof.Machine.execPassageContribution s
  | .compositionEnd => Sys2Proof.Machine.execCompositionEnd s
  | .trainLeaseExpiry slot => Sys2Proof.Machine.execTrainLeaseExpiry slot s
  | .watchLeaseExpiry slot => Sys2Proof.Machine.execWatchLeaseExpiry slot s
  | .sweepVisit => Sys2Proof.Machine.execSweepVisit s
  | .clockSecond => Sys2Proof.Machine.execClockSecond s
  | .storeWriteStart => Sys2Proof.Machine.execStoreWriteStart s
  | .storeAckTimeout => Sys2Proof.Machine.execStoreAckTimeout s
  | .storeWriteEnd readBackSame => Sys2Proof.Machine.execStoreWriteEnd readBackSame s
  | .portByteGap port next => Sys2Proof.Machine.execPortByteGap port next s
  | .requestFrameDiscard port what => Sys2Proof.Machine.execRequestFrameDiscard port what s
  | .answerSent port => Sys2Proof.Machine.execAnswerSent port s
  | .unknownRequest port tag kind body => Sys2Proof.Machine.execUnknownRequest port tag kind body s
  | .identify port tag body => Sys2Proof.Machine.execIdentify port tag body s
  | .status port tag body => Sys2Proof.Machine.execStatus port tag body s
  | .flagsClear port tag body => Sys2Proof.Machine.execFlagsClear port tag body s
  | .enablesSet port tag body => Sys2Proof.Machine.execEnablesSet port tag body s
  | .countersRead port tag body => Sys2Proof.Machine.execCountersRead port tag body s
  | .countersClear port tag body => Sys2Proof.Machine.execCountersClear port tag body s
  | .siteReset port tag body => Sys2Proof.Machine.execSiteReset port tag body s
  | .pointStatus port tag body => Sys2Proof.Machine.execPointStatus port tag body s
  | .headRestore port tag body => Sys2Proof.Machine.execHeadRestore port tag body s
  | .passageStatus port tag body => Sys2Proof.Machine.execPassageStatus port tag body s
  | .rosterRead port tag body => Sys2Proof.Machine.execRosterRead port tag body s
  | .vehicleRead port tag body => Sys2Proof.Machine.execVehicleRead port tag body s
  | .moduleStatus port tag body => Sys2Proof.Machine.execModuleStatus port tag body s
  | .criterionRead port tag body => Sys2Proof.Machine.execCriterionRead port tag body s
  | .criterionWrite port tag body => Sys2Proof.Machine.execCriterionWrite port tag body s
  | .trainList port tag body => Sys2Proof.Machine.execTrainList port tag body s
  | .trainRead port tag body => Sys2Proof.Machine.execTrainRead port tag body s
  | .trainHold port tag body => Sys2Proof.Machine.execTrainHold port tag body s
  | .trainRelease port tag body => Sys2Proof.Machine.execTrainRelease port tag body s
  | .trainResolve port tag body => Sys2Proof.Machine.execTrainResolve port tag body s
  | .trainRetire port tag body => Sys2Proof.Machine.execTrainRetire port tag body s
  | .watchFind port tag body => Sys2Proof.Machine.execWatchFind port tag body s
  | .watchScan port tag body => Sys2Proof.Machine.execWatchScan port tag body s
  | .watchEnrol port tag body => Sys2Proof.Machine.execWatchEnrol port tag body s
  | .watchAmend port tag body => Sys2Proof.Machine.execWatchAmend port tag body s
  | .watchRetire port tag body => Sys2Proof.Machine.execWatchRetire port tag body s
  | .watchHold port tag body => Sys2Proof.Machine.execWatchHold port tag body s
  | .watchRelease port tag body => Sys2Proof.Machine.execWatchRelease port tag body s
  | .sweepNow port tag body => Sys2Proof.Machine.execSweepNow port tag body s
  | .clockRead port tag body => Sys2Proof.Machine.execClockRead port tag body s
  | .clockSet port tag body => Sys2Proof.Machine.execClockSet port tag body s
  | .settingRead port tag body => Sys2Proof.Machine.execSettingRead port tag body s
  | .settingWrite port tag body => Sys2Proof.Machine.execSettingWrite port tag body s
  | .storeSave port tag body => Sys2Proof.Machine.execStoreSave port tag body s
  | .storeRetry port tag body => Sys2Proof.Machine.execStoreRetry port tag body s
  | .rstnLowOrPowerLoss => Sys2Proof.Machine.execRstnLowOrPowerLoss s
  | .moduleFrameDiscard line what => Sys2Proof.Machine.execModuleFrameDiscard line what s

end Sys2Proof.Machine
end

