-- ==== Sys2Proof/Machine/Tick.lean ====
section
/-! DEFINITION. What time does by itself: the idle step of the block (log 2). -/

namespace Sys2Proof

/-- A line sends the frame at the head of those given to it, whole (R71). -/
def ModuleLine.sendOne (l : ModuleLine) : ModuleLine := { l with sending := l.sending.drop 1 }

/-- One tick of 0.1 ms of the running time base, which runs from the end of loading (R1, R226); each module line sends its next
frame (log 2). -/
def Site.tick (s : Site) : Site :=
  if s.mode = .running then (s.setNow (s.now + 1)).mapLines (fun _ l => l.sendOne) else s

end Sys2Proof
end

