-- ==== Sys2Proof/WellFormed.lean ====
section
/-! DEFINITION. Which command terms spell an event of the spec. The conditions stand in Machine/Frames.lean: a frame's length
bytes bound its payload or body; a report comes on the line of its module; a discarded frame has the fault its cause names; an
unknown request's kind is outside the catalogue (R69, R70, R194, R196, R199; log 3). -/

namespace Sys2Proof

/-- The command spells an event of the spec. -/
def Instr.wf : Instr → Bool
  | .coldStart _ _ => true
  | .loadSettingsImage _ => true
  | .loadSerialImage _ => true
  | .loadSlotImage _ => true
  | .loadingEnd => true
  | .headChange _ _ => true
  | .stuckTimerExpiry _ => true
  | .quietTimerExpiry _ => true
  | .armTimerExpiry => true
  | .armTimeoutExpiry => true
  | .standstillTimerExpiry => true
  | .clearTimerExpiry => true
  | .passageLimitExpiry => true
  | .moduleByteGap _ _ => true
  | .moduleReady _ frame => readyWf frame
  | .bayScannerReport line frame => reportWf line frame
  | .tagReport frame => tagWf frame
  | .composeDerive => true
  | .composeTestCriteria => true
  | .composeWatchedVehicles => true
  | .composeSelect => true
  | .composeVerdict => true
  | .passageContribution => true
  | .compositionEnd => true
  | .trainLeaseExpiry _ => true
  | .watchLeaseExpiry _ => true
  | .sweepVisit => true
  | .clockSecond => true
  | .storeWriteStart => true
  | .storeAckTimeout => true
  | .storeWriteEnd _ => true
  | .portByteGap _ _ => true
  | .requestFrameDiscard _ what => what.wf
  | .answerSent _ => true
  | .unknownRequest _ _ kind body => unknownWf kind body
  | .identify _ _ body => bodyFits body
  | .status _ _ body => bodyFits body
  | .flagsClear _ _ body => bodyFits body
  | .enablesSet _ _ body => bodyFits body
  | .countersRead _ _ body => bodyFits body
  | .countersClear _ _ body => bodyFits body
  | .siteReset _ _ body => bodyFits body
  | .pointStatus _ _ body => bodyFits body
  | .headRestore _ _ body => bodyFits body
  | .passageStatus _ _ body => bodyFits body
  | .rosterRead _ _ body => bodyFits body
  | .vehicleRead _ _ body => bodyFits body
  | .moduleStatus _ _ body => bodyFits body
  | .criterionRead _ _ body => bodyFits body
  | .criterionWrite _ _ body => bodyFits body
  | .trainList _ _ body => bodyFits body
  | .trainRead _ _ body => bodyFits body
  | .trainHold _ _ body => bodyFits body
  | .trainRelease _ _ body => bodyFits body
  | .trainResolve _ _ body => bodyFits body
  | .trainRetire _ _ body => bodyFits body
  | .watchFind _ _ body => bodyFits body
  | .watchScan _ _ body => bodyFits body
  | .watchEnrol _ _ body => bodyFits body
  | .watchAmend _ _ body => bodyFits body
  | .watchRetire _ _ body => bodyFits body
  | .watchHold _ _ body => bodyFits body
  | .watchRelease _ _ body => bodyFits body
  | .sweepNow _ _ body => bodyFits body
  | .clockRead _ _ body => bodyFits body
  | .clockSet _ _ body => bodyFits body
  | .settingRead _ _ body => bodyFits body
  | .settingWrite _ _ body => bodyFits body
  | .storeSave _ _ body => bodyFits body
  | .storeRetry _ _ body => bodyFits body
  | .rstnLowOrPowerLoss => true
  | .moduleFrameDiscard line what => what.wf line

end Sys2Proof
end

