-- ==== Sys2Proof/Safety.lean ====
section
/-! DEFINITION. What the statements speak of: the conditions on a state and a request, the state after an answer, and the
invariants. -/

namespace Sys2Proof

/-! ### Conditions on the site -/

/-- The checks of R199's rows 2 to 4 pass: the site is RUNNING or the request is one that any state answers, the body length is
one that the kind takes, and the sending port may make the request (R200). -/
abbrev Site.Passes (s : Site) (p : Port) (k : RequestKind) (body : List Byte) : Prop :=
  (s.mode = .running ∨ (s.mode = .loading ∧ (k = .identify ∨ k = .status ∨ k = .clockRead))) ∧
    (k.bodyBytes.1 ≤ body.length ∧ body.length ≤ k.bodyBytes.2) ∧
    (p = .siteLink ∨ privilegeOf k body = .read ∨ privilegeOf k body = .hold ∨
      (privilegeOf k body = .write ∧ s.setting .serviceWrites = 1))

/-- A flag is in the set of flags (R204). -/
abbrev Site.Has (s : Site) (f : Flag) : Prop := s.hasFlag f = true

/-! ### Invariants -/

/-- The write queue holds each item at most once, and the item in flight is not in it (R220). -/
def StoreUnit.QueueSound (u : StoreUnit) : Prop := u.queue.Nodup ∧ ∀ w, u.inFlight = some w → w.item ∉ u.queue

/-- No port counts more than four holds (R157). -/
def Site.HoldsSound (s : Site) : Prop := ∀ p, s.holds.get p ≤ 4

/-- A watch entry has at most four pending contributions, and none without a holder (R174). -/
def WatchEntry.PendingSound (e : WatchEntry) : Prop := e.pending.length ≤ 4 ∧ (e.pending ≠ [] → e.hold.isSome = true)

/-- Every watch entry keeps R174's bound on pending contributions. -/
def Site.PendingSound (s : Site) : Prop := ∀ i e, s.watchEntry i = some e → e.PendingSound

/-- While the clock is unset, CLOCK_UNSET is set (R204, R212). -/
abbrev Site.ClockFlagSound (s : Site) : Prop := s.clock.isSet = false → s.Has .clockUnset

/-- Every net count lies in 0 to 4,095 (R16). -/
def Site.NetsSound (s : Site) : Prop := ∀ p, (s.point p).net ≤ 4095

/-- How many train records a port holds (R157). -/
def Site.recordsHeld (s : Site) (p : Port) : Nat := s.train.toList.countP (fun r => r.any (fun r => heldBy r.hold p))

/-- How many watch entries a port holds (R157). -/
def Site.entriesHeld (s : Site) (p : Port) : Nat := s.watch.slots.toList.countP (fun w => w.entry.any (fun e => heldBy e.hold p))

/-- The key of a contribution; a SWEEP contribution, made for the entry it visits, carries none (R140, R162, R189). -/
def Contribution.key : Contribution → Option WatchKey
  | .passage k _ _ _ _ _ => some k
  | .resolution k _ => some k
  | .sweep _ => none

/-- The holds and the keys of the tables: each port's hold count is the number of records and entries it holds (R157), no port
holds anything in LOADING, what is pending at an entry is for its key (R167), and while RUNNING no two LIVE entries have one key
(R165). -/
structure Site.TablesSound (s : Site) : Prop where
  counted : ∀ p, s.holds.get p = s.recordsHeld p + s.entriesHeld p
  loading : s.mode = .loading → ∀ p, s.holds.get p = 0
  keyed : ∀ i e c k, s.watchEntry i = some e → c ∈ e.pending → c.key = some k → k = e.key
  keys : s.mode = .running → ∀ i j e f, s.watchEntry i = some e → s.watchEntry j = some f → e.key = f.key → i = j

/-- The records of the table and the passage: at most one record is OPEN or CLOSING (R144); one is OPEN exactly while a passage is
open and one CLOSING exactly while a composition is in flight (R27, R43, R132); an opening is held only while a composition is in
flight, with its passage direction set (R30). -/
structure Site.RecordsSound (s : Site) : Prop where
  active : ∀ i j r q, s.recordAt i = some r → s.recordAt j = some q → r.phase ≠ .closed → q.phase ≠ .closed → i = j
  opened : (∃ i r, s.recordAt i = some r ∧ r.phase = .opened) ↔ s.passageOpen = true
  closing : (∃ i r, s.recordAt i = some r ∧ r.phase = .closing) ↔ s.composing = true
  held : s.passage.held = true → s.composing = true ∧ s.passage.direction.isSome = true

/-- The deferred count of a verdict is the number of its findings that are DEFERRED (R139, R161). -/
def Site.VerdictsSound (s : Site) : Prop :=
  ∀ i r v, s.recordAt i = some r → r.verdict = some v → v.deferred = v.findings.countP (fun f => f.state == .deferred)

/-- The roster: LIVE exactly while a passage is open, at most 1,024 entries and 256 vehicles, vehicles numbered in order (R45,
R57); an entry is PRESENT exactly up to the net axle count, and the roster reaches that count or 1,024 (R49, R52); the gates have
counted nothing when a passage waits for its first gate crossing (R16, R26). -/
structure Site.RosterSound (s : Site) : Prop where
  live : s.roster.standing = .live ↔ s.passageOpen = true
  entries : s.roster.entries.length ≤ 1024
  vehicles : s.roster.vehicles.length ≤ 256
  positions : ∀ (k : Nat) v, s.roster.vehicles[k]? = some v → v.position = k + 1
  present : ∀ (k : Nat) e, s.roster.entries[k]? = some e → (e.state = .present ↔ k + 1 ≤ s.headingNet)
  reached : min s.headingNet 1024 ≤ s.roster.entries.length
  waiting : s.passage.phase ≠ .idle → s.passageOpen = false → s.passage.held = false →
    (s.point .ga).net = 0 ∧ (s.point .gb).net = 0

/-- While a passage is arming, armed, held or open, every cursor lies between 0 and the roster length of R80, and a beyond count is
above 0 only where the cursor equals that length (R80). -/
def Site.PlacesSound (s : Site) : Prop :=
  s.passage.phase ≠ .idle ∨ s.passage.held = true →
    ∀ n, (s.line n).cursor ≤ s.rosterLen ∧ (0 < (s.line n).beyond → (s.line n).cursor = s.rosterLen)

/-! ### Heads -/

/-- A head of the site. -/
def Site.head (s : Site) (h : HeadId) : Head := (s.point h.point).head h.no

/-- The site with the pin of a head at a level. -/
def Site.pinned (s : Site) (h : HeadId) (v : Level) : Site := s.setPins (s.pins.put h v)

/-- A point with the change of one head taken: level, health, last-change time (R1, R3). -/
def Site.changedPoint (s : Site) (h : HeadId) (v : Level) : Point :=
  (s.point h.point).putHead h.no ((s.head h).change v s.now)

/-! ### Module lines -/

/-- A module frame that passes the CRC and form checks of its line (R69, R70): kind byte, frame code, length, direction byte. -/
abbrev WellMade (n : Fin 8) (f : ModuleFrame) : Prop :=
  f.crc = f.rightCrc ∧ f.kind = BitVec.ofNat 8 (lineKind n).frameByte ∧
    payloadBytes (lineKind n) f.code = some f.payload.length ∧
    (n.val < 6 → f.code = 4#8 → natAt f.payload 0 1 = 1 ∨ natAt f.payload 0 1 = 2)

/-- A frame's passage check passes: the current passage number, and a module that the frame may come from (R70, R72). -/
abbrev Site.Current (s : Site) (n : Fin 8) (f : ModuleFrame) : Prop :=
  s.modules.passageNumber = some f.passage ∧ (s.line n).arming ≠ .notFitted ∧
    ((s.line n).arming = .idle → n = 6 ∧ f.code = 4#8)

/-- A frame is taken on a line: the site is RUNNING, the frame is sound and current (R69, R70). -/
abbrev Site.Hears (s : Site) (n : Fin 8) (f : ModuleFrame) : Prop := s.mode = .running ∧ WellMade n f ∧ s.Current n f

/-- The site with a line's receiver hunting, as it is once a frame is whole (R69). -/
def Site.hunted (s : Site) (n : Fin 8) : Site := s.putLine n { s.line n with receiver := .hunting }

/-- A record of the table is OPEN (R27). -/
abbrev Site.HasOpenRecord (s : Site) : Prop := ∃ i k, s.recordAt i = some k ∧ k.phase = .opened

/-- The site `u` after a bay's, a scanner's or the tag reader's frame is taken as a READY, from the site `t` whose receiver hunts: a
module that is READY or IDLE stays so; an ARMING one is READY, and ends the arming when it is the last one awaited (R23, R74); a
MISSING one is READY with LATE_MODULE (R74). Those awaited are the modules of the latched MODULES_FITTED (R73; log 32). -/
def Site.ShownUp (t : Site) (n : Fin 8) (u : Site) : Prop :=
  let a := t.passage
  let up := t.putLine n { t.line n with arming := .ready }
  let all := a.timers.arm.isSome = true ∧ ∀ k : Fin 8, t.fitted k.val = true → (up.line k).arming = .ready
  let still := (t.line n).arming
  ((still = .ready ∨ still = .idle) ∧ u = t) ∨ (still = .arming ∧ ¬all ∧ u = up) ∨
    (still = .arming ∧ all ∧ a.phase ≠ .arming ∧ u = up.setPassage { a with timers := { a.timers with arm := none } }) ∨
    (still = .arming ∧ all ∧ a.phase = .arming ∧ u = up.setPassage
      { a with
        phase := .armed
        timers := { a.timers with arm := none, armTimeout := if a.held then none else some t.now } }) ∨
    (still = .missing ∧ t.HasOpenRecord ∧ u = up.addRecordCause .lateModule) ∨
    (still = .missing ∧ ¬t.HasOpenRecord ∧ u = up.addPending .lateModule)

/-! ### A new passage -/

/-- The site `r` after the call for a new passage in direction `d`, from the site `t`: the serial taken, SERIAL queued, the working
settings latched and passage time started (R20); the counting direction set, with every net count 0 (R16), and known to have been set (log 26); every module of the
latched MODULES_FITTED ARMING, with ARM and the direction sent on its line, every other one NOT_FITTED, and places, expected
sequences, passage tallies, direction-reversed mark and passage ambient cleared, healths and line counters as they were (R73); the
arm timer started, unless nothing is fitted (R23). -/
def Site.CalledFor (t : Site) (d : Dir) (r : Site) : Prop :=
  let serial := t.store.nextSerial
  let fitted (n : Fin 8) : Bool := (BitVec.ofNat 8 (t.setting .modulesFitted)).getLsbD n.val
  let arm (n : Fin 8) : ModuleFrame := ModuleFrame.make (BitVec.ofNat 8 (lineKind n).frameByte) (serial.setWidth 16)
    (t.line n).sendSeq 1#8 [if d = .ab then 1#8 else 2#8]
  r.passage.expected = some d ∧ r.passage.serial = some serial ∧ r.passage.armedMoment = t.now ∧ r.passage.latched = t.settings ∧
    r.store =
      { t.store.enqueue .serial with nextSerial := if serial = 0xFFFFFFFF#32 then 1#32 else serial + 1#32 } ∧
    r.points.direction = some d ∧ r.points.everSet = true ∧
    (∀ q, r.point q = { t.point q with net := 0, last := (t.point q).last.map (fun c => { c with sinceSet := false }) }) ∧
    r.modules.passageNumber = some (serial.setWidth 16) ∧ r.modules.reversed = false ∧ r.modules.ambient = none ∧
    (∀ n, r.line n =
      { t.line n with
        arming := if fitted n then .arming else .notFitted
        cursor := 0
        beyond := 0
        expected := 1#16
        crcTally := 0#16
        orphanTally := 0#16
        sendSeq := if fitted n then (t.line n).sendSeq + 1#16 else (t.line n).sendSeq
        sending := if fitted n then (t.line n).sending ++ [arm n] else (t.line n).sending }) ∧
    ((∃ n, fitted n = true) → r.passage.timers.arm = some t.now) ∧
    ((∀ n, fitted n = false) → r.passage.timers.arm = t.passage.timers.arm)

/-- Nothing but the passage controller, the points, the modules and the store differs from `t` in `r`. -/
def Site.SameBeside (t r : Site) : Prop :=
  r.mode = t.mode ∧ r.now = t.now ∧ r.pins = t.pins ∧ r.roster = t.roster ∧ r.settings = t.settings ∧
    r.composition = t.composition ∧ r.train = t.train ∧ r.watch = t.watch ∧ r.flags = t.flags ∧ r.enables = t.enables ∧
    r.counts = t.counts ∧ r.holds = t.holds ∧ r.clock = t.clock ∧ r.freeDraws = t.freeDraws

/-! ### Vehicles -/

/-- From the vehicles `vs` and the entries `es`, the last vehicle `v` is CLOSED: with tag state SINGLE or CONFIRMED and at most 12 axles
its orientation is fixed by R64's table, and the entries of its run take the axle indexes of R65; else nothing but its state
changes. -/
def LastVehicleClosed (vs : List Vehicle) (es : List AxleEntry) (v : Vehicle) (vs' : List Vehicle) (es' : List AxleEntry) : Prop :=
  let fixed := (v.tagState = .single ∨ v.tagState = .confirmed) ∧ v.axleCount ≤ 12
  let leads := 2 * v.readPosition.getD 0 ≤ v.axleCount
  let orientation : Orientation :=
    match v.taggedEnd with
    | some .one => if leads then .end1Leading else .end2Leading
    | some .two => if leads then .end2Leading else .end1Leading
    | none => .unknown
  let index (e : AxleEntry) : Option Nat :=
    match orientation with
    | .end1Leading => some e.position
    | .end2Leading => some (v.axleCount + 1 - e.position)
    | .unknown => none
  vs.getLast? = some v ∧
    (fixed → vs' = vs.dropLast ++ [{ v with state := .closed, orientation := orientation }] ∧
      es' = es.map (fun e => if e.vehicle = vs.length then { e with axleIndex := index e } else e)) ∧
    (¬fixed → vs' = vs.dropLast ++ [{ v with state := .closed }] ∧ es' = es)

/-! ### Watch entries -/

/-- The LIVE entry found for a key, and its slot (R165, R167). -/
abbrev Site.KeyAt (s : Site) (k : WatchKey) (i : Fin 512) (e : WatchEntry) : Prop := s.findKey k = some i ∧ s.watchEntry i = some e

namespace Machine

/-- A frame that completes on the port is taken: the part is not held, the answer queue has a place, and no request of the port is
in progress (R193, R197, R198). -/
abbrev State.Open (s : State) (p : Port) : Prop :=
  s.site.mode ≠ .held ∧ s.inProgress p = false ∧ (s.line p).answers.length < 4

/-- A request reaches its owner (R197 to R200). -/
abbrev State.Takes (s : State) (p : Port) (k : RequestKind) (body : List Byte) : Prop := s.Open p ∧ s.site.Passes p k body

/-- The state after an answer: the port's receiver hunts, the site is `t`, and the answer stands last in the port's queue
(R193, R198). Nothing else differs from `s`. -/
def State.answered (s : State) (p : Port) (tag kind : Byte) (st : Status) (body : List Byte) (t : Site) : State :=
  ((s.receive p .hunting).setSite t).pushAnswer p { tag := tag, kind := kind, status := st, body := body }

/-- The state after a request of the catalogue answered with a status, a body and a site. -/
def State.after (s : State) (p : Port) (tag : Byte) (k : RequestKind) (st : Status) (body : List Byte) (t : Site) : State :=
  s.answered p tag k.code st body t

/-- The state after a request answered OK with a body and a site. -/
def State.granted (s : State) (p : Port) (tag : Byte) (k : RequestKind) (body : List Byte) (t : Site) : State :=
  s.after p tag k .ok body t

/-- The state after a request refused with a status: an empty body, the site as it was. -/
def State.refused (s : State) (p : Port) (tag : Byte) (k : RequestKind) (st : Status) : State := s.after p tag k st [] s.site

/-- Neither port has more answers than its queue has places, the one kept for a request in progress included (R198). -/
def State.AnswersSound (s : State) : Prop := ∀ p, s.placesTaken p ≤ 4

/-- The invariants of the machine: the write queue (R220), the hold counts (R157), the pending contributions (R174), the net counts
(R16), CLOCK_UNSET while the clock is unset (R204), no flag enabled in LOADING (R206), the answer queues (R198), the keys and holds
of the tables (R157, R165), the records and the passage (R144), the verdicts (R139), the roster (R45, R52), the module places
(R80). -/
structure State.Sound (s : State) : Prop where
  queue : s.site.store.QueueSound
  holds : s.site.HoldsSound
  pending : s.site.PendingSound
  nets : s.site.NetsSound
  clock : s.site.ClockFlagSound
  quiet : s.site.mode = .loading → s.site.enables = 0#18
  answers : s.AnswersSound
  tables : s.site.TablesSound
  records : s.site.RecordsSound
  verdicts : s.site.VerdictsSound
  roster : s.site.RosterSound
  places : s.site.PlacesSound

/-- The running site: what the spec calls RUNNING (R203). -/
abbrev State.Running (s : State) : Prop := s.site.mode = .running

/-- A request as a command carries it. -/
structure Request where
  kind : RequestKind
  port : Port
  tag : Byte
  body : List Byte
  deriving DecidableEq, Repr

/-- The request that a command is, if it is one of the catalogue. -/
def requestOf : Instr → Option Request
  | .identify p tag body => some ⟨.identify, p, tag, body⟩
  | .status p tag body => some ⟨.status, p, tag, body⟩
  | .flagsClear p tag body => some ⟨.flagsClear, p, tag, body⟩
  | .enablesSet p tag body => some ⟨.enablesSet, p, tag, body⟩
  | .countersRead p tag body => some ⟨.countersRead, p, tag, body⟩
  | .countersClear p tag body => some ⟨.countersClear, p, tag, body⟩
  | .siteReset p tag body => some ⟨.siteReset, p, tag, body⟩
  | .pointStatus p tag body => some ⟨.pointStatus, p, tag, body⟩
  | .headRestore p tag body => some ⟨.headRestore, p, tag, body⟩
  | .passageStatus p tag body => some ⟨.passageStatus, p, tag, body⟩
  | .rosterRead p tag body => some ⟨.rosterRead, p, tag, body⟩
  | .vehicleRead p tag body => some ⟨.vehicleRead, p, tag, body⟩
  | .moduleStatus p tag body => some ⟨.moduleStatus, p, tag, body⟩
  | .criterionRead p tag body => some ⟨.criterionRead, p, tag, body⟩
  | .criterionWrite p tag body => some ⟨.criterionWrite, p, tag, body⟩
  | .trainList p tag body => some ⟨.trainList, p, tag, body⟩
  | .trainRead p tag body => some ⟨.trainRead, p, tag, body⟩
  | .trainHold p tag body => some ⟨.trainHold, p, tag, body⟩
  | .trainRelease p tag body => some ⟨.trainRelease, p, tag, body⟩
  | .trainResolve p tag body => some ⟨.trainResolve, p, tag, body⟩
  | .trainRetire p tag body => some ⟨.trainRetire, p, tag, body⟩
  | .watchFind p tag body => some ⟨.watchFind, p, tag, body⟩
  | .watchScan p tag body => some ⟨.watchScan, p, tag, body⟩
  | .watchEnrol p tag body => some ⟨.watchEnrol, p, tag, body⟩
  | .watchAmend p tag body => some ⟨.watchAmend, p, tag, body⟩
  | .watchRetire p tag body => some ⟨.watchRetire, p, tag, body⟩
  | .watchHold p tag body => some ⟨.watchHold, p, tag, body⟩
  | .watchRelease p tag body => some ⟨.watchRelease, p, tag, body⟩
  | .sweepNow p tag body => some ⟨.sweepNow, p, tag, body⟩
  | .clockRead p tag body => some ⟨.clockRead, p, tag, body⟩
  | .clockSet p tag body => some ⟨.clockSet, p, tag, body⟩
  | .settingRead p tag body => some ⟨.settingRead, p, tag, body⟩
  | .settingWrite p tag body => some ⟨.settingWrite, p, tag, body⟩
  | .storeSave p tag body => some ⟨.storeSave, p, tag, body⟩
  | .storeRetry p tag body => some ⟨.storeRetry, p, tag, body⟩
  | .coldStart _ _ | .loadSettingsImage _ | .loadSerialImage _ | .loadSlotImage _ | .loadingEnd | .headChange _ _
  | .stuckTimerExpiry _ | .quietTimerExpiry _ | .armTimerExpiry | .armTimeoutExpiry | .standstillTimerExpiry
  | .clearTimerExpiry | .passageLimitExpiry | .moduleByteGap _ _ | .moduleReady _ _ | .bayScannerReport _ _
  | .tagReport _ | .composeDerive | .composeTestCriteria | .composeWatchedVehicles | .composeSelect | .composeVerdict
  | .passageContribution | .compositionEnd | .trainLeaseExpiry _ | .watchLeaseExpiry _ | .sweepVisit | .clockSecond
  | .storeWriteStart | .storeAckTimeout | .storeWriteEnd _ | .portByteGap _ _ | .requestFrameDiscard _ _
  | .answerSent _ | .unknownRequest _ _ _ _ | .rstnLowOrPowerLoss | .moduleFrameDiscard _ _ => none

end Machine

end Sys2Proof
end

