-- ==== Sys2Proof/Certificates/Slice0/Obligations.lean ====
section
/-! DEFINITION. The statements about the model, for the provers: OBLIGATIONS.json says what each formalises. -/

open Sys2Proof Sys2Proof.Machine

/-! ### The machine and its ports -/

/-- A step takes the command at the front of the queue, and is that command's effect on the state with the queue's rest. -/
def Obligations.StepRunsTheFrontCommand : Prop :=
  ∀ (s : State) (c : Instr) (rest : List Instr), s.pending = c :: rest → step s = exec c (s.setPending rest)

/-- With no command waiting a tick of 0.1 ms passes while RUNNING, and each module line sends one frame; in LOADING or while held
nothing happens. The model's choice: log 2. -/
def Obligations.IdleStepTicks : Prop :=
  ∀ s : State, s.pending = [] →
    (s.site.mode = .running →
      step s = .next (s.setSite ((s.site.setNow (s.site.now + 1)).setModules
        { s.site.modules with
          lines := tableMapIdx (fun _ l => { l with sending := l.sending.drop 1 }) s.site.modules.lines }))) ∧
    (s.site.mode ≠ .running → step s = .next s)

/-- The state right after reset is the entry to LOADING (R224), with an empty queue. Values that the model names there: head lines
and rate straps (log 5, log 6), head levels and last-change times (log 7), slot stamps (log 30), armed moment (log 36), next store
stamp and next serial (log 37), latched settings (log 46), the sweep's serial, cursor and start-pending mark (log 52). COLD_START
brings any state there, but for the queue of commands, the head lines and the model's own `freeDraws`, at the rates that the
straps give (R193). -/
def Obligations.ResetEntersLoading : Prop :=
  let s := State.reset
  s.pending = [] ∧ s.site.mode = .loading ∧ s.site.passage.phase = .idle ∧ s.site.passage.held = false ∧
    s.site.composition = none ∧ s.site.train = Vector.replicate 4 none ∧ s.site.roster.standing = .none ∧
    s.site.roster.entries = [] ∧ s.site.holds = { link := 0, service := 0 } ∧
    s.site.counters = List.replicate 67 0#16 ∧ s.site.flags = BitVec.twoPow 18 17 ∧ s.site.enables = 0#18 ∧
    s.site.clock.reading = ⟨2000, 1, 1, 0, 0, 0, 6⟩ ∧ s.site.clock.isSet = false ∧ s.site.settings = factoryBlock ∧
    s.site.settings.generation = 0#16 ∧ s.site.store.state = .online ∧ s.site.store.queue = [] ∧
    s.site.store.inFlight = none ∧ s.site.store.failures = 0 ∧ s.site.store.loading = .settings ∧
    (∀ i, s.site.watchEntry i = none) ∧ s.site.points.direction = none ∧
    (∀ p, s.site.point p = Point.coldStart) ∧ s.siteLink = PortLine.coldStart false ∧
    s.servicePort = PortLine.coldStart false ∧ s.site.pins = HeadLines.allClear ∧
    ∀ (t : State) (a b : Bool), exec (.coldStart a b) t = .next
      { pending := t.pending
        site := { s.site with pins := t.site.pins, freeDraws := t.site.freeDraws }
        siteLink := { fast := a, receiver := .hunting, answers := [] }
        servicePort := { fast := b, receiver := .hunting, answers := [] } }

/-- A command whose term spells an event of the spec answers a next state and leaves the queue of commands as it was; any other
term is the fault malformedCommand. The model's choice of terms: log 3. -/
def Obligations.EveryWellFormedCommandCompletes : Prop :=
  ∀ (c : Instr) (s : State),
    (c.wf = true → ∃ t, exec c s = .next t ∧ t.pending = s.pending) ∧
    (c.wf = false → exec c s = .fault .malformedCommand)

/-- RSTN low or power lost holds the part and cuts off a write in flight (R224). While it is held no command but COLD_START has an
effect: a head line only moves its pin. What RSTN low keeps is the model's choice: log 35. -/
def Obligations.HeldPartTakesNothing : Prop :=
  (∀ s : State, exec .rstnLowOrPowerLoss s =
    .next (s.setSite ((s.site.setMode .held).setStore { s.site.store with inFlight := none }))) ∧
  ∀ s : State, s.site.mode = .held →
    (∀ c : Instr, c.wf = true → (∀ a b, c ≠ .coldStart a b) → (∀ h v, c ≠ .headChange h v) → c ≠ .rstnLowOrPowerLoss →
      exec c s = .next s) ∧
    (∀ h v, exec (.headChange h v) s = .next (s.setSite (s.site.pinned h v)))

/-- The checks that the ports make of a request of the catalogue, in their order: the first that fails decides the answer, which
has an empty body, and the request has no effect (R199, R200). The catalogue, row by row: kind code, privilege class, least and
greatest body length; a SETTING_WRITE that names SERVICE_WRITES, setting 27, is of the site class (R200, R217). -/
def Obligations.PortChecksInOrder : Prop :=
  (let rows : List (RequestKind × Byte × Privilege × Nat × Nat) :=
    [(.identify, 0x01#8, .read, 1, 1), (.status, 0x02#8, .read, 0, 0), (.flagsClear, 0x03#8, .site, 4, 4),
     (.enablesSet, 0x04#8, .site, 4, 4), (.countersRead, 0x05#8, .read, 0, 0), (.countersClear, 0x06#8, .site, 0, 0),
     (.siteReset, 0x07#8, .site, 0, 0), (.pointStatus, 0x10#8, .read, 0, 0), (.headRestore, 0x11#8, .write, 1, 1),
     (.passageStatus, 0x18#8, .read, 0, 0), (.rosterRead, 0x20#8, .read, 8, 8), (.vehicleRead, 0x21#8, .read, 8, 8),
     (.moduleStatus, 0x28#8, .read, 0, 0), (.criterionRead, 0x30#8, .read, 1, 1), (.criterionWrite, 0x31#8, .write, 14, 14),
     (.trainList, 0x40#8, .read, 0, 0), (.trainRead, 0x41#8, .read, 8, 8), (.trainHold, 0x42#8, .hold, 4, 4),
     (.trainRelease, 0x43#8, .hold, 4, 4), (.trainResolve, 0x44#8, .write, 6, 6), (.trainRetire, 0x45#8, .write, 4, 4),
     (.watchFind, 0x50#8, .read, 9, 9), (.watchScan, 0x51#8, .read, 4, 4), (.watchEnrol, 0x52#8, .write, 11, 27),
     (.watchAmend, 0x53#8, .write, 8, 24), (.watchRetire, 0x54#8, .write, 4, 4), (.watchHold, 0x55#8, .hold, 2, 2),
     (.watchRelease, 0x56#8, .hold, 2, 2), (.sweepNow, 0x57#8, .write, 0, 0), (.clockRead, 0x60#8, .read, 0, 0),
     (.clockSet, 0x61#8, .write, 8, 8), (.settingRead, 0x62#8, .read, 1, 1), (.settingWrite, 0x63#8, .write, 5, 5),
     (.storeSave, 0x64#8, .site, 0, 0), (.storeRetry, 0x65#8, .write, 0, 0)]
   (rows.map Prod.fst).Nodup ∧ (∀ k : RequestKind, (k, k.code, k.privilege, k.bodyBytes) ∈ rows) ∧
    (∀ kind : Byte, inCatalogue kind = true ↔ ∃ row ∈ rows, row.2.1 = kind) ∧
    (∀ body, natAt body 0 1 = 27 → privilegeOf .settingWrite body = .site) ∧
    (∀ body, natAt body 0 1 ≠ 27 → privilegeOf .settingWrite body = .write) ∧
    (∀ k body, k ≠ .settingWrite → privilegeOf k body = k.privilege)) ∧
  ∀ (c : Instr) (r : Request) (s : State), requestOf c = some r → bodyFits r.body = true → s.Open r.port →
    let ready := s.site.mode = .running ∨ r.kind = .identify ∨ r.kind = .status ∨ r.kind = .clockRead
    let fits := r.kind.bodyBytes.1 ≤ r.body.length ∧ r.body.length ≤ r.kind.bodyBytes.2
    let c0 := privilegeOf r.kind r.body
    (¬ready → exec c s = .next (s.refused r.port r.tag r.kind .notReady)) ∧
    (ready → ¬fits → exec c s = .next (s.refused r.port r.tag r.kind .badLength)) ∧
    (ready → fits → r.port = .servicePort → (c0 = .site ∨ (c0 = .write ∧ s.site.setting .serviceWrites ≠ 1)) →
      exec c s = .next (s.refused r.port r.tag r.kind .denied))

/-- A frame that arrives when its port's queue has no place is dropped and counted; one that arrives while a STORE_SAVE is in
progress on its port is answered BUSY. Neither has another effect, and a kind outside the catalogue is treated alike: these come
before every check of R199 (R197, R198). -/
def Obligations.BusyAndFullQueue : Prop :=
  ∀ (c : Instr) (p : Port) (tag kind : Byte) (s : State), s.site.mode ≠ .held →
    (∃ r, requestOf c = some r ∧ bodyFits r.body = true ∧ r.port = p ∧ r.tag = tag ∧ r.kind.code = kind) ∨
      (∃ body, c = .unknownRequest p tag kind body ∧ bodyFits body = true ∧ inCatalogue kind = false) →
    let taken := (s.line p).answers.length + (if p = .siteLink ∧ s.site.store.waiting.isSome then 1 else 0)
    (4 ≤ taken → p = .siteLink →
      exec c s = .next ((s.receive p .hunting).setSite
        (s.site.setCounts { s.site.counts with linkDropped := bump s.site.counts.linkDropped }))) ∧
    (4 ≤ taken → p = .servicePort →
      exec c s = .next ((s.receive p .hunting).setSite
        (s.site.setCounts { s.site.counts with serviceDropped := bump s.site.counts.serviceDropped }))) ∧
    (taken < 4 → p = .siteLink → s.site.store.waiting.isSome = true →
      exec c s = .next (s.answered p tag kind .busy [] s.site))

/-- The line events of a port: a gap or a discarded frame counts a frame error; after a gap the next byte is a hunting byte, and
after a length above 1,000 the two length bytes are (R196); an answer sent leaves the queue (R198); a kind outside the catalogue
is answered UNKNOWN_REQUEST (R199). -/
def Obligations.PortLineEvents : Prop :=
  ∀ (s : State) (p : Port), s.site.mode ≠ .held →
    let counted := s.setSite (s.site.setCounts
      (match p with
       | .siteLink => { s.site.counts with linkFrameErrors := bump s.site.counts.linkFrameErrors }
       | .servicePort => { s.site.counts with serviceFrameErrors := bump s.site.counts.serviceFrameErrors }))
    let starts (n : Word16) : Prop := n.toNat % 256 = 0xA5 ∨ n.toNat / 256 = 0xA5
    exec (.portByteGap p 0xA5#8) s = .next (counted.receive p .inFrame) ∧
    (∀ b, b ≠ 0xA5#8 → exec (.portByteGap p b) s = .next (counted.receive p .hunting)) ∧
    (∀ n : Word16, 1000 < n.toNat → starts n →
      exec (.requestFrameDiscard p (.length n)) s = .next (counted.receive p .inFrame)) ∧
    (∀ n : Word16, 1000 < n.toNat → ¬starts n →
      exec (.requestFrameDiscard p (.length n)) s = .next (counted.receive p .hunting)) ∧
    (∀ w : RequestDiscard, w.wf = true → (∀ n, w ≠ .length n) →
      exec (.requestFrameDiscard p w) s = .next (counted.receive p .hunting)) ∧
    exec (.answerSent p) s = .next (s.putLine p { s.line p with answers := (s.line p).answers.drop 1 }) ∧
    (∀ tag kind body, bodyFits body = true → inCatalogue kind = false → s.Open p →
      exec (.unknownRequest p tag kind body) s = .next (s.answered p tag kind .unknownRequest [] s.site))

/-! ### The requests of the ports block -/

/-- STATUS answers OK with its fourteen fields (R203); IDENTIFY answers the leaf it names, or BAD_VALUE above leaf 2 (R202). Neither
changes anything. The characters of a leaf are in ASCII: the model's choice, log 38. -/
def Obligations.StatusAndIdentifyRead : Prop :=
  (∀ (s : State) (p : Port) (tag : Byte) (body : List Byte), s.Takes p .status body →
    let t := s.site
    exec (.status p tag body) s = .next (s.granted p tag .status
      (leBytes 1 (if t.mode = .loading then 0 else 1) ++ leBytes 1 t.passage.phase.code ++ yesNo t.passage.held ++
        yesNo t.composition.isSome ++ leBytes 4 t.flags.toNat ++ leBytes 4 t.enables.toNat ++
        leBytes 1 (if t.store.state = .online then 0 else 1) ++ leBytes 2 t.store.queue.length ++ yesNo t.clock.isSet ++
        leBytes 2 (t.watch.slots.toList.countP (fun w => w.entry.isNone)) ++
        t.train.toList.flatMap (fun r => leBytes 1 (slotStateCode (r.map TrainRecord.phase))) ++
        leBytes 1 t.holds.link ++ leBytes 1 t.holds.service ++ yesNo (t.setting .serviceWrites == 1) ++
        leBytes 1 t.watch.sweepState.code) t)) ∧
  ∀ (s : State) (p : Port) (tag : Byte) (body : List Byte), s.Takes p .identify body →
    let leaf := natAt body 0 1
    (leaf = 0 → exec (.identify p tag body) s = .next (s.granted p tag .identify
      [2#8, 0x4F#8, 0x53#8, 0x50#8, 0x52#8, 0x41#8, 0x54#8, 0x48#8, 0x57#8, 0x58#8, 0x34#8, 0x38#8] s.site)) ∧
    (leaf = 1 → exec (.identify p tag body) s = .next (s.granted p tag .identify
      ([1#8, 0#8] ++ leBytes 1 (s.site.setting .modulesFitted)) s.site)) ∧
    (leaf = 2 → exec (.identify p tag body) s = .next (s.granted p tag .identify
      [8#8, 1#8, 0#8, 4#8, 2#8, 0#8, 1#8, 3#8, 4#8, 0#8, 4#8, 96#8, 0#8, 5#8, 0#8, 2#8, 6#8, 24#8, 0#8, 7#8, 4#8, 0#8,
       8#8, 4#8, 0#8] s.site)) ∧
    (2 < leaf → exec (.identify p tag body) s = .next (s.refused p tag .identify .badValue))

/-- COUNTERS_READ answers the 67 counters in the order of R208 and changes nothing; COUNTERS_CLEAR answers them alike and sets every
one of them to 0 at that moment, and nothing else changes; it takes an empty body and is of the site class (R208, R209). -/
def Obligations.CountersReadAndClear : Prop :=
  ∀ (s : State) (p : Port) (tag : Byte) (body : List Byte),
    let t := s.site
    let all : List Counter :=
      [t.counts.linkFrameErrors, t.counts.linkDropped, t.counts.serviceFrameErrors, t.counts.serviceDropped,
       (t.point .pa).spurious, (t.point .ga).spurious, (t.point .gb).spurious, (t.point .pb).spurious,
       t.passage.falseApproaches, t.roster.earlyTags, t.roster.lateTags, t.roster.unplacedTags, t.roster.failedReads] ++
      t.modules.lines.toList.flatMap
        (fun l => [l.crcErrors, l.malformed, l.stale, l.outOfSequence, l.missingReports, l.orphans]) ++
      [t.counts.reclaimedUnread, t.counts.deferredAbandoned, t.counts.raisesRefused, t.counts.contributionsDiscarded,
       t.store.faults, t.store.entriesLost]
    let cleared : Site :=
      { t with
        counts := .zero
        points :=
          { t.points with
            pa := { t.points.pa with spurious := 0#16 }, ga := { t.points.ga with spurious := 0#16 }
            gb := { t.points.gb with spurious := 0#16 }, pb := { t.points.pb with spurious := 0#16 } }
        passage := { t.passage with falseApproaches := 0#16 }
        roster := { t.roster with earlyTags := 0#16, lateTags := 0#16, unplacedTags := 0#16, failedReads := 0#16 }
        modules :=
          { t.modules with
            lines := tableMapIdx
              (fun _ l => { l with crcErrors := 0#16, malformed := 0#16, stale := 0#16, outOfSequence := 0#16,
                                   missingReports := 0#16, orphans := 0#16 }) t.modules.lines }
        store := { t.store with faults := 0#16, entriesLost := 0#16 } }
    (s.Takes p .countersRead body →
      exec (.countersRead p tag body) s = .next (s.granted p tag .countersRead (all.flatMap (fun c => leBytes 2 c.toNat)) t)) ∧
    (s.Takes p .countersClear body →
      exec (.countersClear p tag body) s =
        .next (s.granted p tag .countersClear (all.flatMap (fun c => leBytes 2 c.toNat)) cleared)) ∧
    all.length = 67 ∧ cleared.counters = List.replicate 67 0#16 ∧
    RequestKind.countersClear.bodyBytes = (0, 0) ∧ privilegeOf .countersClear body = .site

/-- FLAGS_CLEAR: a set naming a bit from 18 to 31 is BAD_VALUE; otherwise every flag named is cleared, CLOCK_UNSET is set again when
it is named and the clock is unset, the others stay, the answer is the flag set after the clear, and the attention line follows
it (R205). The premise, that CLOCK_UNSET stands while the clock is unset, is one of the invariants that every step keeps. -/
def Obligations.FlagsClearNamed : Prop :=
  ∀ (s : State) (p : Port) (tag : Byte) (body : List Byte), s.site.ClockFlagSound → s.Takes p .flagsClear body →
    let set := natAt body 0 4
    let named := BitVec.ofNat 18 set
    let left := s.site.flags &&& ~~~ named
    let after := if named.getLsbD 17 = true ∧ s.site.clock.isSet = false then left ||| BitVec.twoPow 18 17 else left
    (2 ^ 18 ≤ set → exec (.flagsClear p tag body) s = .next (s.refused p tag .flagsClear .badValue)) ∧
    (set < 2 ^ 18 → exec (.flagsClear p tag body) s =
      .next (s.granted p tag .flagsClear (leBytes 4 after.toNat) (s.site.setFlags after))) ∧
    (s.site.setFlags after).attention = (s.site.mode != .held && after &&& s.site.enables != 0#18)

/-- ENABLES_SET: a set naming a bit from 18 to 31 is BAD_VALUE; otherwise the enable set becomes the set carried, the answer is the
enable set and the flag set, and no flag changes. The enable set is empty after cold start and after a site reset, and no image
of the store is built from it (R206). -/
def Obligations.EnablesSetReplaced : Prop :=
  (∀ (s : State) (p : Port) (tag : Byte) (body : List Byte), s.Takes p .enablesSet body →
    let set := natAt body 0 4
    (2 ^ 18 ≤ set → exec (.enablesSet p tag body) s = .next (s.refused p tag .enablesSet .badValue)) ∧
    (set < 2 ^ 18 → exec (.enablesSet p tag body) s =
      .next (s.granted p tag .enablesSet (leBytes 4 set ++ leBytes 4 s.site.flags.toNat)
        (s.site.setEnables (BitVec.ofNat 18 set))))) ∧
  (∀ (s : State) (a b : Bool), ∃ t, exec (.coldStart a b) s = .next t ∧ t.site.enables = 0#18) ∧
  (∀ (s : State) (p : Port) (tag : Byte) (body : List Byte), s.Takes p .siteReset body →
    ∃ t, exec (.siteReset p tag body) s = .next t ∧ t.site.enables = 0#18) ∧
  (∀ (t : Site) (e : BitVec 18) (i : StoreItem), (t.setEnables e).imageOf i = t.imageOf i)

/-- The attention line is asserted exactly while some flag is both set and enabled and the part is not held; it is released
throughout LOADING, where no member is enabled (R207). -/
def Obligations.AttentionLine : Prop :=
  (∀ t : Site, t.attention = true ↔ t.mode ≠ .held ∧ ∃ f : Flag, t.Has f ∧ t.enables.getLsbD f.bit = true) ∧
  (∀ t : Site, t.mode = .loading → t.enables = 0#18 → t.attention = false)

/-- SITE_RESET answers OK with an empty body, and does the steps of R210. Passage, composition, records, roster and points are at
their reset values (armed moment: log 36); every module armed for a passage is sent STAND_DOWN and every line is as R78 gives;
heads are IN_SERVICE with the reset as last change and the crossing machines restart (R1, R3, R8); watch holds end, and then what
was pending is applied in slot order (R179); sweep, flags, enables and counters are reset; settings, clock and running time are as
they were. So is the store: state, failure count, stamps, serial, the save waiting, and the write in flight but for the changed
mark of a slot changed by what was pending; its queue gains such slots (R210, R220, R221). Two things that stand through the reset
are the model's, and no rule's own words: that the counting direction was once set (`everSet`, a field of the model's own: DEDUCED,
log 26), and each module line's receiver (DESIGN CHOICE, log 9). -/
def Obligations.SiteResetClears : Prop :=
  ∀ (s : State) (p : Port) (tag : Byte) (body : List Byte), s.Takes p .siteReset body →
    let applied (v : Site) (i : Fin 512) : Site :=
      match s.site.watchEntry i with
      | some e => (Site.applyPending i e.pending true v).1
      | none => v
    ∃ t u : Site, exec (.siteReset p tag body) s = .next (s.granted p tag .siteReset [] t) ∧
      t.passage =
        { phase := .idle, held := false, expected := none, direction := none, serial := none, armedMoment := 0, gate := none
          checkSet := 0#4, pending := 0#22, latched := s.site.passage.latched, lastGate := none
          tally := { count := 0, sum := 0, least := 0, greatest := 0 }
          timers := { arm := none, armTimeout := none, standstill := none, clear := none, limit := none }
          outcomeToBe := none, falseApproaches := 0#16 } ∧
      t.composition = none ∧ t.train = Vector.replicate 4 none ∧
      t.roster.entries = [] ∧ t.roster.vehicles = [] ∧ t.roster.standing = .none ∧ t.roster.serial = none ∧
      t.roster.generation = s.site.roster.generation + 1#16 ∧ t.points.direction = none ∧
      t.points.everSet = s.site.points.everSet ∧
      (∀ q, (t.point q).condition = .normal ∧ (t.point q).net = 0 ∧ (t.point q).last = none ∧ (t.point q).lead = none ∧
        (t.point q).rocked = false ∧ (t.point q).machine =
          (if (t.point q).head1.level = .occupied ∨ (t.point q).head2.level = .occupied then .settling else .idle)) ∧
      (∀ h, t.head h = { level := (s.site.head h).level, health := .inService, lastChange := s.site.now }) ∧
      t.modules.passageNumber = none ∧ t.modules.reversed = false ∧ t.modules.ambient = none ∧
      (∀ n : Fin 8,
        let l := s.site.line n
        let armed := l.arming = .arming ∨ l.arming = .ready ∨ l.arming = .missing
        let fitted := (BitVec.ofNat 8 (s.site.setting .modulesFitted)).getLsbD n.val = true
        let standDown := ModuleFrame.make (BitVec.ofNat 8 (lineKind n).frameByte) (s.site.modules.passageNumber.getD 0#16)
          l.sendSeq 2#8 []
        t.line n =
          { arming := if fitted then .idle else .notFitted, health := .inService, lastClose := none, cursor := 0, beyond := 0
            expected := 1#16, crcTally := 0#16, orphanTally := 0#16, crcErrors := 0#16, malformed := 0#16, stale := 0#16
            outOfSequence := 0#16, missingReports := 0#16, orphans := 0#16
            sendSeq := if armed then l.sendSeq + 1#16 else l.sendSeq
            sending := if armed then l.sending ++ [standDown] else l.sending, receiver := l.receiver }) ∧
      t.holds = { link := 0, service := 0 } ∧ (∀ i e, t.watchEntry i = some e → e.hold = none ∧ e.pending = []) ∧
      (∀ i, u.watchSlot i =
        { s.site.watchSlot i with
          entry := (s.site.watchEntry i).map (fun e => { e with hold := none, pending := [] })
          noticeLink := false
          noticeService := false }) ∧
      u.settings = s.site.settings ∧ u.watch.sweepSerial = s.site.watch.sweepSerial ∧ u.store = s.site.store ∧
      t.watch = ((List.finRange 512).foldl applied u).watch ∧
      t.store =
        { s.site.store with
          queue := ((List.finRange 512).foldl applied u).store.queue
          inFlight := ((List.finRange 512).foldl applied u).store.inFlight
          faults := 0#16
          entriesLost := 0#16 } ∧
      (t.store.inFlight = s.site.store.inFlight ∨
        ∃ w, s.site.store.inFlight = some w ∧ t.store.inFlight = some { w with changed := true }) ∧
      t.watch.sweepState = .idle ∧ t.watch.cursor = 0 ∧ t.watch.startPending = false ∧
      t.watch.sweepSerial = s.site.watch.sweepSerial ∧
      t.flags = (if s.site.clock.isSet then 0#18 else BitVec.twoPow 18 17) ∧ t.enables = 0#18 ∧
      t.counters = List.replicate 67 0#16 ∧ t.mode = s.site.mode ∧ t.now = s.site.now ∧ t.pins = s.site.pins ∧
      t.settings = s.site.settings ∧ t.clock = s.site.clock


/-! ### Heads, points and net counts -/

/-- The rows of a crossing machine that make no crossing: those of a NORMAL point (R9, R11), and SETTLING at a NORMAL and at a
DEGRADED point, left when the heads followed are clear together (R8, R12). The point after each, and nothing else but the pin. -/
def Obligations.CrossingMachineRows : Prop :=
  ∀ (s : State) (h : HeadId) (v : Level), s.Running → (s.site.head h).level ≠ v → (s.site.head h).health ≠ .cutOff →
    let q := s.site.changedPoint h v
    let gives (p : Point) : Prop := exec (.headChange h v) s = .next (s.setSite ((s.site.pinned h v).putPoint h.point p))
    let idle : Point := { q with machine := .idle, lead := none, interval := none, rocked := false }
    let taken : Option Nat := q.interval.or (q.lead.map (fun t => s.site.now - t))
    (q.condition = .normal →
      (q.machine = .idle → h.no = .one → v = .occupied → gives { q with machine := .lead1, lead := some s.site.now }) ∧
      (q.machine = .idle → h.no = .two → v = .occupied → gives { q with machine := .lead2, lead := some s.site.now }) ∧
      (q.machine = .lead1 → h.no = .two → v = .occupied → gives { q with machine := .over1, interval := taken }) ∧
      (q.machine = .lead1 → h.no = .one → v = .clear → gives idle) ∧
      (q.machine = .over1 → h.no = .one → v = .clear → gives { q with machine := .trail1 }) ∧
      (q.machine = .over1 → h.no = .two → v = .clear → gives { q with machine := .lead1, rocked := true }) ∧
      (q.machine = .trail1 → h.no = .one → v = .occupied → gives { q with machine := .over1, rocked := true }) ∧
      (q.machine = .lead2 → h.no = .one → v = .occupied → gives { q with machine := .over2, interval := taken }) ∧
      (q.machine = .lead2 → h.no = .two → v = .clear → gives idle) ∧
      (q.machine = .over2 → h.no = .two → v = .clear → gives { q with machine := .trail2 }) ∧
      (q.machine = .over2 → h.no = .one → v = .clear → gives { q with machine := .lead2, rocked := true }) ∧
      (q.machine = .trail2 → h.no = .two → v = .occupied → gives { q with machine := .over2, rocked := true }) ∧
      (q.machine = .settling → q.head1.level = .clear → q.head2.level = .clear → gives idle) ∧
      (q.machine = .settling → (q.head1.level = .occupied ∨ q.head2.level = .occupied) → gives q)) ∧
    (q.condition = .degraded → q.machine = .settling → (v = .clear → gives idle) ∧ (v = .occupied → gives q))

/-- The changes that make a crossing: TRAIL1 and TRAIL2 left at a NORMAL point, with the interval that R11 gives (R9), and LEAD
left at a DEGRADED point, with R13's direction and no interval (R12). The machine is IDLE again, and the crossing is handed on.
R13's direction: at a gate, that of the other gate's last crossing when that gate is not OUT and the crossing was made since the
counting direction was last set; else the counting direction, or the inward one. -/
def Obligations.CrossingsMade : Prop :=
  (∀ (s : State) (h : HeadId) (v : Level), s.Running → (s.site.head h).level ≠ v → (s.site.head h).health ≠ .cutOff →
    let q := s.site.changedPoint h v
    let base := (s.site.pinned h v).putPoint h.point { q with machine := .idle, lead := none, interval := none, rocked := false }
    let lead : CrossState := if h.no = .one then .lead1 else .lead2
    let interval : Option Nat :=
      if q.rocked then none else q.interval.bind (fun i => if max i 1 ≤ 65535 then some (max i 1) else none)
    (q.condition = .normal → q.machine = .trail1 → h.no = .two → v = .clear →
      exec (.headChange h v) s = .next (s.setSite (base.handOn h.point .ab interval))) ∧
    (q.condition = .normal → q.machine = .trail2 → h.no = .one → v = .clear →
      exec (.headChange h v) s = .next (s.setSite (base.handOn h.point .ba interval))) ∧
    (q.condition = .degraded → q.machine = .idle → v = .occupied →
      exec (.headChange h v) s = .next (s.setSite
        ((s.site.pinned h v).putPoint h.point { q with machine := lead, lead := some s.site.now }))) ∧
    (q.condition = .degraded → q.machine = lead → v = .clear →
      exec (.headChange h v) s = .next (s.setSite (base.handOn h.point (s.site.degradedDir h.point) none)))) ∧
  ∀ t : Site,
    t.degradedDir .pa = t.points.direction.getD .ab ∧ t.degradedDir .pb = t.points.direction.getD .ba ∧
    (∀ c, (t.point .gb).condition ≠ .out → (t.point .gb).last = some c → c.sinceSet = true → t.degradedDir .ga = c.dir) ∧
    (∀ c, (t.point .ga).condition ≠ .out → (t.point .ga).last = some c → c.sinceSet = true → t.degradedDir .gb = c.dir) ∧
    ((t.point .gb).condition = .out ∨ (∀ c, (t.point .gb).last = some c → c.sinceSet = false) →
      t.degradedDir .ga = t.points.direction.getD .ab) ∧
    ((t.point .ga).condition = .out ∨ (∀ c, (t.point .ga).last = some c → c.sinceSet = false) →
      t.degradedDir .gb = t.points.direction.getD .ba)

/-- Head changes that reach no crossing machine: in LOADING none is taken, a level that stands already is no change, and a CUT_OFF
head's level and last-change time are followed (R1, R4), as are those of every head of an OUT point, whose machine and net count
stand (R14). A STANDING head that clears is IN_SERVICE (R3). -/
def Obligations.HeadChangesFollowed : Prop :=
  ∀ (s : State) (h : HeadId) (v : Level),
    let d := s.site.head h
    (s.site.mode ≠ .running → exec (.headChange h v) s = .next (s.setSite (s.site.pinned h v))) ∧
    (s.Running → d.level = v → exec (.headChange h v) s = .next (s.setSite (s.site.pinned h v))) ∧
    (s.Running → d.level ≠ v → d.health = .cutOff →
      exec (.headChange h v) s = .next (s.setSite ((s.site.pinned h v).putPoint h.point
        ((s.site.point h.point).putHead h.no { level := v, health := .cutOff, lastChange := s.site.now })))) ∧
    (s.Running → d.level ≠ v → (s.site.point h.point).condition = .out → d.health = .cutOff ∧ ∃ r,
      exec (.headChange h v) s = .next (s.setSite r) ∧ (r.point h.point).machine = (s.site.point h.point).machine ∧
        (r.point h.point).net = (s.site.point h.point).net ∧ (r.point h.point).condition = .out ∧
        r.passage = s.site.passage ∧ r.roster = s.site.roster) ∧
    (s.Running → d.level ≠ v → ∃ t, exec (.headChange h v) s = .next t) ∧
    (d.change v s.site.now).level = v ∧ (d.change v s.site.now).lastChange = s.site.now ∧
    (d.health = .standing → v = .clear → (d.change v s.site.now).health = .inService) ∧
    (d.health ≠ .standing ∨ v = .occupied → (d.change v s.site.now).health = d.health)

/-- HEAD_RESTORE is answered by the head's health and level at the moment it is taken (R6). The head timers: an IN_SERVICE
head occupied for STUCK_LIMIT becomes STANDING in an open passage and CUT_OFF otherwise (R2); a CUT_OFF head clear for
QUIET_PERIOD returns to IN_SERVICE (R4). An expiry that is not due has no effect: log 10. A point's condition follows the
health of its heads (R7); a change of it restarts the crossing machine from the levels (R8), sets HEAD_CUT_OFF on an entry
to DEGRADED or OUT (R7), and at OUT takes the point from the check set of an open passage (R29). -/
def Obligations.HeadHealthFollowed : Prop :=
  (∀ (s : State) (p : Port) (tag : Byte) (body : List Byte), s.Takes p .headRestore body →
    let n := natAt body 0 1
    (n < 1 ∨ 8 < n → exec (.headRestore p tag body) s = .next (s.refused p tag .headRestore .badValue)) ∧
    (1 ≤ n → n ≤ 8 → ∃ h, HeadId.ofNumber n = some h) ∧
    (∀ h, HeadId.ofNumber n = some h →
      let d := s.site.head h
      (d.health = .cutOff → d.level = .clear → exec (.headRestore p tag body) s =
        .next (s.granted p tag .headRestore [] (s.site.changeHealth h .inService))) ∧
      (d.health = .cutOff → d.level = .occupied → exec (.headRestore p tag body) s =
        .next (s.refused p tag .headRestore .wrongState)) ∧
      (d.health = .standing → exec (.headRestore p tag body) s = .next (s.refused p tag .headRestore .wrongState)) ∧
      (d.health = .inService → exec (.headRestore p tag body) s = .next (s.granted p tag .headRestore [] s.site)))) ∧
  (∀ (s : State) (h : HeadId), s.Running →
    let d := s.site.head h
    let stuck := d.health = .inService ∧ d.level = .occupied ∧ d.lastChange + 10000 * s.site.setting .stuckLimit ≤ s.site.now
    let quiet := d.health = .cutOff ∧ d.level = .clear ∧ d.lastChange + 10000 * s.site.setting .quietPeriod ≤ s.site.now
    (stuck → s.site.passageOpen = true →
      exec (.stuckTimerExpiry h) s = .next (s.setSite (s.site.changeHealth h .standing))) ∧
    (stuck → s.site.passageOpen = false →
      exec (.stuckTimerExpiry h) s = .next (s.setSite (s.site.changeHealth h .cutOff))) ∧
    (¬stuck → exec (.stuckTimerExpiry h) s = .next s) ∧
    (quiet → exec (.quietTimerExpiry h) s = .next (s.setSite (s.site.changeHealth h .inService))) ∧
    (¬quiet → exec (.quietTimerExpiry h) s = .next s)) ∧
  (∀ p : Point, (p.condition = .normal ↔ p.head1.health ≠ .cutOff ∧ p.head2.health ≠ .cutOff) ∧
    (p.condition = .out ↔ p.head1.health = .cutOff ∧ p.head2.health = .cutOff)) ∧
  (∀ (t : Site) (h : HeadId) (v : HeadHealth),
    let old := t.point h.point
    let q := old.putHead h.no { old.head h.no with health := v }
    let followed (d : Head) : Prop := d.health ≠ .cutOff ∧ d.level = .occupied
    let again (m : CrossState) : Point := { q with machine := m, lead := none, interval := none, rocked := false }
    (q.condition = old.condition → t.changeHealth h v = t.putPoint h.point q) ∧
    (q.condition ≠ old.condition → ∀ m : CrossState,
      (m = .settling ∧ (followed q.head1 ∨ followed q.head2) ∨ m = .idle ∧ ¬followed q.head1 ∧ ¬followed q.head2) →
        (q.condition = .normal → t.changeHealth h v = t.putPoint h.point (again m)) ∧
        (q.condition = .degraded → t.changeHealth h v = (t.putPoint h.point (again m)).raise .headCutOff) ∧
        (q.condition = .out →
          t.changeHealth h v = ((t.putPoint h.point (again m)).raise .headCutOff).leaveCheckSet h.point)))

/-- A crossing made is recorded as its point's last crossing; then it is a spurious reverse, counted and withheld, or it is handed
to the passage controller and afterwards counted, in the counting direction that then stands (R15), by the rows of each counting
direction, which setting the counting direction starts at 0 (R16, R17). One taken in CLEARING that returned the site to IN_PASSAGE
and leaves the counts agreeing brings CLEARING back with a fresh clear timer, whether or not its own count changed (R39; log 50).
The since-set mark of a crossing made before the direction was ever set is the model's choice: log 26. -/
def Obligations.CrossingTakenAndCounted : Prop :=
  (∀ (t : Site) (p : PointId) (d : Dir) (interval : Option Nat),
    let t1 := t.putPoint p
      { t.point p with
        last := some { dir := d, interval := interval, degraded := (t.point p).condition == .degraded,
                       sinceSet := t.points.everSet } }
    let spurious := t.passageOpen = true ∧ t.points.direction = some d.flip ∧ (t.point p).net = 0
    (spurious → t.handOn p d interval = t1.putPoint p { t1.point p with spurious := bump (t.point p).spurious }) ∧
    (¬spurious → t.handOn p d interval = t1.takeAndCount p d interval)) ∧
  (∀ (t : Site) (p : PointId) (d : Dir) (interval : Option Nat),
    let r := t.takeAndCount p d interval
    let u := (t.takeCrossing p d interval).1.countCrossing p d (t.takeCrossing p d interval).2
    let agreed := (u.passage.phase = .inPassage ∨ u.passage.phase = .standstill) ∧ 2 ≤ u.passage.members ∧
      ∃ n, 1 ≤ n ∧ ∀ q, u.passage.watches q = true → (u.point q).net = n
    (t.passage.phase ≠ .clearing ∨ ¬agreed → r = u) ∧
    (t.passage.phase = .clearing → agreed → r = u.setPassage
      { u.passage with
        phase := .clearing
        outcomeToBe := some .complete
        timers := { u.passage.timers with clear := some u.now, standstill := none } })) ∧
  ∀ (t : Site) (p : PointId) (d : Dir) (f : GateFigures),
    let q := t.point p
    (t.points.direction = none → t.countCrossing p d f = t) ∧
    (t.points.direction = some d → q.net < 4095 →
      t.countCrossing p d f = (t.putPoint p { q with net := q.net + 1 }).netChanged p q.net (q.net + 1) f) ∧
    (t.points.direction = some d → 4095 ≤ q.net → t.countCrossing p d f = t) ∧
    (t.points.direction = some d.flip → 0 < q.net →
      t.countCrossing p d f = (t.putPoint p { q with net := q.net - 1 }).netChanged p q.net (q.net - 1) f) ∧
    (t.points.direction = some d.flip → q.net = 0 →
      t.countCrossing p d f = t.putPoint p { q with spurious := bump q.spurious }) ∧
    (t.setDirection d).points.direction = some d ∧
    (∀ r, ((t.setDirection d).point r).net = 0 ∧
      ∀ c, ((t.setDirection d).point r).last = some c → c.sinceSet = false) ∧
    t.clearDirection = t.setPoints { t.points with direction := none }

/-! ### The status reads, and the passage controller -/

/-- POINT_STATUS (R18), PASSAGE_STATUS (R44) and MODULE_STATUS (R91) answer OK with their fields and change nothing of the spec's
state: `freeDraws`, which counts on at PASSAGE_STATUS, is the model's own field. The whole seconds of a present level, rounded down,
are the model's choice (log 43); a stopped timer's seconds are a free value (log 15); the 2 bytes of every timer's seconds (log 44,
log 34) and the codes of none (log 18) are the model's choice. -/
def Obligations.TracksideStatusReads : Prop :=
  (∀ (s : State) (p : Port) (tag : Byte) (body : List Byte), s.Takes p .pointStatus body →
    let head (d : Head) : List Byte :=
      leBytes 1 d.level.code ++ leBytes 1 d.health.code ++ leBytes 2 (min ((s.site.now - d.lastChange) / 10000) 65535)
    let last (c : LastCrossing) : List Byte :=
      leBytes 1 c.dir.code ++ optNat 2 c.interval ++ yesNo c.degraded ++ yesNo c.sinceSet
    let point (q : Point) : List Byte :=
      leBytes 1 q.condition.code ++ leBytes 1 q.machine.code ++ leBytes 2 q.net ++ leBytes 2 q.spurious.toNat ++
        optField 6 (q.last.map last) ++ head q.head1 ++ head q.head2
    exec (.pointStatus p tag body) s = .next (s.granted p tag .pointStatus
      (leBytes 1 ((s.site.points.direction.map Dir.code).getD 2) ++ point (s.site.point .pa) ++ point (s.site.point .ga) ++
        point (s.site.point .gb) ++ point (s.site.point .pb)) s.site)) ∧
  (∀ (s : State) (p : Port) (tag : Byte) (body : List Byte), s.Takes p .passageStatus body →
    let t := s.site
    let a := t.passage
    let timer (start : Option Nat) (limit : Nat) (n : TimerName) : List Byte :=
      match start with
      | some x => leBytes 1 0 ++ leBytes 2 ((x + 10000 * limit - t.now + 9999) / 10000)
      | none => leBytes 1 1 ++ leBytes 2 (Config.stoppedSeconds t.freeDraws n).toNat
    exec (.passageStatus p tag body) s = .next (s.granted p tag .passageStatus
      (leBytes 1 a.phase.code ++ yesNo a.held ++ yesNo t.composition.isSome ++
        optField 4 (a.serial.map (fun n => leBytes 4 n.toNat)) ++ leBytes 1 ((a.expected.map Dir.code).getD 2) ++
        leBytes 1 ((a.direction.map Dir.code).getD 2) ++ leBytes 1 ((a.gate.map Gate.code).getD 2) ++
        leBytes 1 a.checkSet.toNat ++
        leBytes 4 (match t.recordIn .opened with | some r => r.causes | none => a.pending).toNat ++
        optField 1 (a.outcomeToBe.map (fun o => leBytes 1 o.code)) ++
        leBytes 4 (if a.serial.isSome then t.passageTime else 0#32).toNat ++ leBytes 2 t.gateNet ++
        timer a.timers.arm (t.latchedSetting .armLimit) .arm ++
        timer a.timers.armTimeout (t.latchedSetting .armTimeout) .armTimeout ++
        timer a.timers.standstill (t.latchedSetting .standstillTime) .standstill ++
        timer a.timers.clear (t.latchedSetting .clearTime) .clear ++
        timer a.timers.limit (60 * t.latchedSetting .passageLimit) .limit ++ leBytes 2 a.falseApproaches.toNat)
      (t.setFreeDraws (t.freeDraws + 1)))) ∧
  ∀ (s : State) (p : Port) (tag : Byte) (body : List Byte), s.Takes p .moduleStatus body →
    let m := s.site.modules
    let line (n : Fin 8) : List Byte :=
      let l := m.lines[n]
      leBytes 1 (lineKind n).code ++ leBytes 1 l.arming.code ++ leBytes 1 l.health.code ++
        optNat 1 (l.lastClose.map LastClose.code) ++ leBytes 2 l.cursor ++ leBytes 2 l.beyond ++ leBytes 2 l.expected.toNat ++
        leBytes 2 l.crcTally.toNat ++ leBytes 2 l.orphanTally.toNat ++ leBytes 2 l.crcErrors.toNat ++
        leBytes 2 l.malformed.toNat ++ leBytes 2 l.stale.toNat ++ leBytes 2 l.outOfSequence.toNat ++
        leBytes 2 l.missingReports.toNat ++ leBytes 2 l.orphans.toNat
    exec (.moduleStatus p tag body) s = .next (s.granted p tag .moduleStatus
      (optField 2 (m.passageNumber.map (fun w => leBytes 2 w.toNat)) ++ yesNo m.reversed ++ optInt 2 m.ambient ++
        line 0 ++ line 1 ++ line 2 ++ line 3 ++ line 4 ++ line 5 ++ line 6 ++ line 7) s.site)

/-- An approach crossing before a passage is open: outward in IDLE nothing; inward in IDLE the site arms (R21), with the serial, the
latch and ARM of R20 and R73, or, with both gates OUT, counts a false approach; inward at the far approach in ARMING or ARMED it is
an opposing approach (R25). Arming changes the passage controller, the points, the modules and the store alone. -/
def Obligations.ApproachCrossings : Prop :=
  ∀ (t : Site) (p : PointId) (d : Dir) (interval : Option Nat), p = .pa ∨ p = .pb → t.passage.held = false →
    let r := (t.takeCrossing p d interval).1
    let fitted (n : Nat) : Bool := (BitVec.ofNat 8 (t.setting .modulesFitted)).getLsbD n
    let none8 : Prop := ∀ n : Fin 8, fitted n.val = false
    let called : Passage :=
      { t.passage with
        expected := some d, serial := some t.store.nextSerial, armedMoment := t.now, latched := t.settings }
    (t.passage.phase = .idle → d ≠ p.inward → r = t) ∧
    (t.passage.phase = .idle → d = p.inward → t.isOut .ga = true → t.isOut .gb = true →
      r = (t.setPassage { t.passage with falseApproaches := bump t.passage.falseApproaches }).raise .gatesOut) ∧
    (t.passage.phase = .idle → d = p.inward → (t.isOut .ga = false ∨ t.isOut .gb = false) →
      t.CalledFor d r ∧ t.SameBeside r ∧
        (¬none8 → r.passage = { called with phase := .arming, timers := { t.passage.timers with arm := some t.now } }) ∧
        (none8 → r.passage = { called with phase := .armed, timers := { t.passage.timers with armTimeout := some t.now } })) ∧
    (∀ e, (t.passage.phase = .arming ∨ t.passage.phase = .armed) → t.passage.expected = some e → p = e.farApproach →
      d = p.inward → r = (t.addPending .opposingApproach).raise .opposingApproach) ∧
    (∀ e, (t.passage.phase = .arming ∨ t.passage.phase = .armed) → t.passage.expected = some e →
      (p ≠ e.farApproach ∨ d ≠ p.inward) → r = t)

/-- A gate crossing before a passage is open. In IDLE the serial, the latch, the net counts, ARM and the arm timer are as at any
call for a new passage (R20, R22, R30, R73); in ARMING and ARMED serial, latch, places and arm timer stand. With no composition in
flight the crossing opens the passage: UNANNOUNCED in IDLE (R22), with LATE_ARM in ARMING, with DIRECTION_MISMATCH against the
expected direction (R26), which makes every net count 0 (R16), a new record OPEN with these causes, those pending,
GATE_SUBSTITUTED and CLOCK_UNSET as they apply and no other (R27, R28, R146), a new roster LIVE (R46), the counting gate chosen
(R28), the check set formed, without the upstream approach in the first and the third case (R22, R26, R29): a cause that stands
among the pending causes already would leave it out too. The crossing that opens is then taken as any crossing, so that at the
counting gate it becomes the last counting-gate crossing (R35): the model's reading, log 27. With a composition in flight the
opening is held, and the last counting-gate crossing is the one that was held, or none (R30, log 27); the causes are pending with
OPENED_LATE, and no other. -/
def Obligations.GateCrossingsOpen : Prop :=
  ∀ (t : Site) (p : PointId) (d : Dir) (interval : Option Nat), p = .ga ∨ p = .gb → t.passage.held = false →
    t.passage.phase = .idle ∨ t.passage.phase = .arming ∨ t.passage.phase = .armed →
    let r := (t.takeCrossing p d interval).1
    let gate : Gate := if t.isOut d.entryGate.point then d.exitGate else d.entryGate
    let serial : Option Serial := if t.passage.phase = .idle then some t.store.nextSerial else t.passage.serial
    let has (set : BitVec 22) (c : Cause) : Prop := set.getLsbD c.bit = true
    let agrees := t.passage.phase ≠ .idle ∧ t.passage.expected = some d
    let upstream := agrees ∧ ¬has t.passage.pending .unannounced ∧ ¬has t.passage.pending .directionMismatch
    let gained (k : Cause) : Prop := has t.passage.pending k ∨ (k = .unannounced ∧ t.passage.phase = .idle) ∨
      (k = .lateArm ∧ t.passage.phase = .arming) ∨
      (k = .directionMismatch ∧ t.passage.phase ≠ .idle ∧ t.passage.expected ≠ some d)
    let spacing : Nat := r.passage.latched.nat (if gate = .ga then .gaHeadSpacing else .gbHeadSpacing)
    (t.passage.phase = .idle → t.CalledFor d r) ∧
    (t.passage.phase ≠ .idle → r.store = t.store ∧ r.modules.lines = t.modules.lines ∧
      r.modules.passageNumber = t.modules.passageNumber ∧ r.modules.ambient = t.modules.ambient ∧
      r.passage.expected = t.passage.expected ∧ r.passage.latched = t.passage.latched ∧
      r.passage.armedMoment = t.passage.armedMoment ∧ r.passage.timers.arm = t.passage.timers.arm) ∧
    (gate.point = p → r.passage.lastGate = some
      { time := t.now, dir := d, speed := interval.bind (speedOf spacing) }) ∧
    (gate.point ≠ p → r.passage.lastGate = none) ∧
    (¬agrees → ∀ q, (r.point q).net = 0) ∧ (agrees → ∀ q, (r.point q).net = (t.point q).net) ∧
    r.points.direction = (if agrees then t.points.direction else some d) ∧
    r.modules.reversed = (if t.passage.phase = .idle then false else if agrees then t.modules.reversed else true) ∧
    (t.composition = none →
      r.passage.phase = .inPassage ∧ r.passage.direction = some d ∧ r.passage.gate = some gate ∧ r.passage.serial = serial ∧
        (∀ q, r.passage.watches q = true ↔
          t.isOut q = false ∧ (q = d.entryGate.point ∨ q = d.exitGate.point ∨ (q = d.upstream ∧ upstream))) ∧
        (∃ u : Site, t.SameBeside u ∧ t.takeCrossing p d interval = (u.openPassage d false).takeGateCrossing p d interval) ∧
        r.passage.timers.standstill = some t.now ∧ r.passage.timers.limit = some t.now ∧ r.passage.timers.armTimeout = none ∧
        r.passage.pending = 0#22 ∧ r.roster.standing = .live ∧ r.roster.entries = [] ∧ r.roster.vehicles = [] ∧
        r.roster.serial = serial ∧ r.roster.generation = t.roster.generation + 1#16 ∧
        (∃ i c, r.recordAt i = some c ∧ c.phase = .opened ∧ c.direction = d ∧ c.serial = serial.getD 0#32 ∧
          c.opened = t.clock.reading ∧ c.readMark = false ∧ c.hold = none ∧
          ∀ k : Cause, has c.causes k ↔ gained k ∨ (k = .gateSubstituted ∧ gate ≠ d.entryGate) ∨
            (k = .clockUnset ∧ t.clock.isSet = false))) ∧
    (t.composition ≠ none →
      r.passage.phase = t.passage.phase ∧ r.passage.held = true ∧ r.passage.direction = some d ∧
        r.passage.gate = some gate ∧ r.passage.serial = serial ∧ 
        (∀ k : Cause, has r.passage.pending k ↔ gained k ∨ k = .openedLate) ∧
        (t.passage.phase = .armed → r.passage.timers.armTimeout = none) ∧
        t.SameBeside r)

/-- An opening: a slot taken by R148 among the records in opening order (R147), with the old record's hold broken (R149) and what it
held accounted for (R150); the new record OPEN, younger than every other (R27, R145, R147); the counting gate and the check set by
the conditions of the points (R28, R29); the roster LIVE and empty (R46); the timers (R36, R42); a RUNNING sweep suspended (R190).
With no slot FREE and no record CLOSED and unheld the oldest record of all is taken: case 3 of R148 where every slot is CLOSED and
held, and elsewhere the model's choice, log 31. -/
def Obligations.OpeningOfPassage : Prop :=
  ∀ (t : Site) (d : Dir) (held : Bool),
    let r := t.openPassage d held
    let a := t.passage
    let gate : Gate := if t.isOut d.entryGate.point then d.exitGate else d.entryGate
    let has (set : BitVec 22) (c : Cause) : Prop := set.getLsbD c.bit = true
    let free (k : Option TrainRecord) : Prop := k = none
    let loose (k : TrainRecord) : Prop := k.phase = .closed ∧ k.hold = none
    let deferred (k : TrainRecord) : Nat := (k.verdict.map Verdict.deferred).getD 0
    let settled (k : TrainRecord) : Prop := loose k ∧ k.readMark = true ∧ deferred k = 0
    let some4 (p : TrainRecord → Prop) : Prop := ∃ j k, t.recordAt j = some k ∧ p k
    let oldest (i : Fin 4) (p : TrainRecord → Prop) : Prop :=
      ∃ k, t.recordAt i = some k ∧ p k ∧ ∀ j q, t.recordAt j = some q → p q → k.rank ≤ q.rank
    (∃ i new, r.recordAt i = some new ∧
      ((∃ j, free (t.recordAt j)) → free (t.recordAt i) ∧ ∀ j, free (t.recordAt j) → i ≤ j) ∧
      ((∀ j, ¬free (t.recordAt j)) → some4 settled → oldest i settled) ∧
      ((∀ j, ¬free (t.recordAt j)) → ¬some4 settled → some4 loose → oldest i loose) ∧
      ((∀ j, ¬free (t.recordAt j)) → ¬some4 loose → oldest i (fun _ => True)) ∧
      (∀ j, j ≠ i → (r.recordAt j).isSome = (t.recordAt j).isSome) ∧
      (∀ j k, j ≠ i → t.recordAt j = some k → k.phase ≠ .opened ∨ gate = d.entryGate → r.recordAt j = some k) ∧
      (∀ j k, j ≠ i → t.recordAt j = some k → k.rank < new.rank) ∧
      new.phase = .opened ∧ new.serial = a.serial.getD 0#32 ∧ new.direction = d ∧ new.opened = t.clock.reading ∧
      new.close = none ∧ new.verdict = none ∧ new.readMark = false ∧ new.hold = none ∧
      new.generation = a.latched.generation ∧
      (∀ c : Cause, has new.causes c ↔ has a.pending c ∨ (c = .gateSubstituted ∧ gate ≠ d.entryGate) ∨
        (c = .clockUnset ∧ t.clock.isSet = false)) ∧
      (t.recordAt i = none → r.holds = t.holds ∧ r.counts = t.counts ∧ r.flags = t.flags) ∧
      (∀ k, t.recordAt i = some k →
        r.holds = (match k.hold with | some h => t.holds.dec h.port | none => t.holds) ∧
        r.counts = { t.counts with
          reclaimedUnread := if k.readMark then t.counts.reclaimedUnread else bump t.counts.reclaimedUnread
          deferredAbandoned := bumpBy (deferred k) t.counts.deferredAbandoned } ∧
        (∀ f : Flag, r.Has f ↔ t.Has f ∨ (f = .leaseExpired ∧ k.hold.isSome = true) ∨
          (f = .recordLost ∧ k.readMark = false)))) ∧
    r.passage.phase = .inPassage ∧ r.passage.gate = some gate ∧ r.passage.pending = 0#22 ∧ r.passage.serial = a.serial ∧
    r.passage.held = a.held ∧ r.passage.direction = a.direction ∧ r.passage.outcomeToBe = none ∧
    r.passage.lastGate = (if held then a.lastGate else none) ∧ r.passage.tally = { count := 0, sum := 0, least := 0, greatest := 0 } ∧
    r.passage.timers =
      { arm := a.timers.arm, armTimeout := none, standstill := some t.now, clear := none, limit := some t.now } ∧
    (∀ q, r.passage.watches q = true ↔ t.isOut q = false ∧ (q = d.entryGate.point ∨ q = d.exitGate.point ∨
      (q = d.upstream ∧ ¬has a.pending .unannounced ∧ ¬has a.pending .directionMismatch))) ∧
    r.roster = { t.roster with
      entries := [], vehicles := [], serial := a.serial, standing := .live, generation := t.roster.generation + 1#16, net := 0 } ∧
    r.watch = { t.watch with sweepState := if t.watch.sweepState = .running then .suspended else t.watch.sweepState } ∧
    r.points = t.points ∧ r.modules = t.modules ∧ r.store = t.store ∧ r.composition = t.composition

/-- Crossings while an opening is held: at a gate counted and nothing else but the last counting-gate crossing (R31); at an approach
as R25 gives, the far approach by the expected direction (log 40). When the held opening takes effect the passage opens from its
pending causes, with its last counting-gate crossing (R32, R35); the roster takes one axle for each of the counting gate's net
count, 1,024 at most, without speed and gap (R53), as any append does (R85); and the counts are tested as they stand. -/
def Obligations.HeldOpening : Prop :=
  (∀ (t : Site) (p : PointId) (d : Dir) (interval : Option Nat), t.passage.held = true → t.passageOpen = false →
    let r := t.takeCrossing p d interval
    let opposing : Prop := ∃ e, t.passage.expected = some e ∧ p = e.farApproach ∧ d = p.inward
    (p = .ga ∨ p = .gb → r = t.takeGateCrossing p d interval) ∧
    (p = .pa ∨ p = .pb → opposing →
      r = ((t.addPending .opposingApproach).raise .opposingApproach, { speed := none, gap := none })) ∧
    (p = .pa ∨ p = .pb → ¬opposing → r = (t, { speed := none, gap := none }))) ∧
  (∀ (t : Site) (d : Dir), t.passage.direction = some d →
    let opened := (t.setPassage { t.passage with held := false }).openPassage d true
    let n := opened.gateNet
    let filled := opened.fillRoster n
    let clears (o : PassageOutcome) : Site := filled.setPassage
      { filled.passage with
        phase := .clearing
        outcomeToBe := some o
        timers := { filled.passage.timers with clear := some t.now, standstill := none } }
    let agreed := 2 ≤ filled.passage.members ∧ ∃ m, 1 ≤ m ∧ ∀ q, filled.passage.watches q = true → (t.point q).net = m
    n = (t.point (if t.isOut d.entryGate.point then d.exitGate else d.entryGate).point).net ∧
    (n = 0 → t.effectHeld = clears .withdrawn) ∧ (n ≠ 0 → agreed → t.effectHeld = clears .complete) ∧
    (n ≠ 0 → ¬agreed → t.effectHeld = filled) ∧
    filled.roster.entries.length = min n 1024 ∧ filled.roster.standing = .live ∧ filled.passage = opened.passage ∧
    (∀ (k : Nat) (e : AxleEntry), filled.roster.entries[k]? = some e → e.ordinal = k + 1 ∧ e.state = .present ∧
      e.crossingTime = 0#32 ∧ e.speed = none ∧ e.gap = none ∧ e.gapClass = .unknown) ∧
    (∀ l : Fin 8, (filled.line l).cursor = (t.line l).cursor + min (t.line l).beyond (min n 1024) ∧
      (filled.line l).beyond = (t.line l).beyond - min n 1024)) ∧
  (∀ (t : Site) (n : Nat),
    let u := fillAxles (min n 1024) t
    (t.fillRoster n = if 1024 < n then u.addRecordCause .rosterFull else u) ∧ fillAxles 0 t = t ∧
      fillAxles (n + 1) t = fillAxles n (t.appendAxle 0#32 none none)) ∧
  (∀ (t : Site) (time : BitVec 32) (speed gap : Option Nat) (l : Fin 8),
    (t.appendAxle time speed gap).line l =
      (if 0 < (t.line l).beyond then { t.line l with cursor := (t.line l).cursor + 1, beyond := (t.line l).beyond - 1 }
       else t.line l))

/-- A crossing in an open passage, before it is counted: a gate crossing in IN_PASSAGE or STANDSTILL restarts the standstill timer
in IN_PASSAGE (R36); in CLEARING a crossing at the check set or the counting gate returns to IN_PASSAGE (R39); any other changes
nothing. At the counting gate the crossing then has its gap and becomes the last counting-gate crossing (R35); at any other point
it carries neither speed nor gap. -/
def Obligations.CrossingsInPassage : Prop :=
  (∀ (t : Site) (p : PointId) (d : Dir) (interval : Option Nat),
    let back := t.setPassage
      { t.passage with
        phase := .inPassage
        outcomeToBe := none
        timers := { t.passage.timers with clear := none, standstill := some t.now } }
    let counts := t.passage.watches p = true ∨ t.passage.gate.map Gate.point = some p
    let runs := t.passage.phase = .inPassage ∨ t.passage.phase = .standstill
    let takes (u : Site) : Prop := t.takeOpenCrossing p = u ∧ t.takeCrossing p d interval = u.takeGateCrossing p d interval
    (runs → p = .ga ∨ p = .gb → takes back) ∧ (runs → p = .pa ∨ p = .pb → takes t) ∧
    (t.passage.phase = .clearing → counts → takes back) ∧ (t.passage.phase = .clearing → ¬counts → takes t) ∧
    (t.passage.gate.map Gate.point ≠ some p → t.takeGateCrossing p d interval = (t, { speed := none, gap := none }))) ∧
  ∀ (t : Site) (g : Gate) (d : Dir) (interval : Option Nat), t.passage.gate = some g →
    let r := t.takeGateCrossing g.point d interval
    r.1 = t.setPassage { t.passage with lastGate := some { time := t.now, dir := d, speed := r.2.speed } } ∧
    (∀ (v : Nat) (k : GateCrossing), r.2.speed = some v → t.passage.lastGate = some k → t.points.direction = some d →
      k.dir = d → r.2.gap = some (min 65535 ((2 * v * (t.now - k.time) + 360) / 720))) ∧
    (r.2.speed = none ∨ t.passage.lastGate = none ∨ t.points.direction ≠ some d ∨
      (∃ k, t.passage.lastGate = some k ∧ k.dir ≠ d) → r.2.gap = none)

/-- The speed of a crossing: taken at the counting gate alone, from the interval and the latched head spacing of that gate, as 360
times the spacing over the interval, to the nearest whole unit with halves up; none without an interval or above 3,000 (R34). -/
def Obligations.SpeedOfCrossing : Prop :=
  (∀ (t : Site) (g : Gate) (d : Dir) (interval : Option Nat), t.passage.gate = some g →
    (t.takeGateCrossing g.point d interval).2.speed =
      interval.bind (speedOf (t.passage.latched.nat (if g = .ga then .gaHeadSpacing else .gbHeadSpacing)))) ∧
  (∀ (t : Site) (p : PointId) (d : Dir) (interval : Option Nat), t.passage.gate.map Gate.point ≠ some p →
    (t.takeGateCrossing p d interval).2.speed = none) ∧
  (∀ spacing interval v : Nat, 1 ≤ interval → 2 * interval * v ≤ 720 * spacing + interval →
    720 * spacing + interval < 2 * interval * (v + 1) → speedOf spacing interval = if v ≤ 3000 then some v else none) ∧
  speedOf 450 124 = some 1306 ∧ speedOf 450 2025 = some 80 ∧ speedOf 450 40 = none

/-- What a counted crossing does. In an open passage a change at the counting gate goes to the roster (R33, R47 to R51), a rise
with a speed is taken into the tally, a fall adds ROLLBACK (R33); a change at a gate is followed by the count check (R41), a fall
at the counting gate by the withdrawal test (R38), a change at a member of the check set by the clearing condition (R37). While an
opening is held a fall at the counting gate adds ROLLBACK to the pending causes (R31). Nothing else changes: the OPEN record gains
those causes alone. -/
def Obligations.CountedCrossings : Prop :=
  ∀ (t : Site) (p : PointId) (old new : Nat) (f : GateFigures), old ≠ new →
    let a := t.passage
    let r := t.netChanged p old new f
    let atGate := a.gate.map Gate.point = some p
    let rises := atGate ∧ old < new
    let falls := atGate ∧ new < old
    let moved : Site :=
      if rises then t.rosterRise new t.passageTime f.speed f.gap else if falls then t.rosterFall old else t
    let k := a.tally
    let tally : SpeedTally :=
      match f.speed with
      | some v =>
        if rises then
          { count := k.count + 1, sum := k.sum + v, least := if k.count = 0 then v else min k.least v, greatest := max k.greatest v }
        else k
      | none => k
    let runs := a.phase = .inPassage ∨ a.phase = .standstill
    let withdrawn := runs ∧ falls ∧ t.gateNet = 0 ∧ moved.roster.entries ≠ []
    let agreed := runs ∧ ¬withdrawn ∧ a.watches p = true ∧ 2 ≤ a.members ∧
      ∃ n, 1 ≤ n ∧ ∀ q, a.watches q = true → (t.point q).net = n
    let fault := (p = .ga ∨ p = .gb) ∧ a.watches .ga = true ∧ a.watches .gb = true ∧
      ∃ d, a.direction = some d ∧ (t.point d.entryGate.point).net < (t.point d.exitGate.point).net
    let clears (o : PassageOutcome) : Passage :=
      { a with
        tally := tally
        phase := .clearing
        outcomeToBe := some o
        timers := { a.timers with clear := some t.now, standstill := none } }
    let has (set : BitVec 22) (c : Cause) : Prop := set.getLsbD c.bit = true
    (t.passageOpen = true →
      (withdrawn → r.passage = clears .withdrawn) ∧ (agreed → r.passage = clears .complete) ∧
      (¬withdrawn → ¬agreed → r.passage = { a with tally := tally }) ∧
      r.roster = moved.roster ∧ r.modules = moved.modules ∧
      (∀ i q, moved.recordAt i = some q → q.phase = .opened → ∃ b : BitVec 22,
        r.recordAt i = some { q with causes := b } ∧
        ∀ c : Cause, has b c ↔ has q.causes c ∨ (c = .rollback ∧ falls) ∨ (c = .gateCountFault ∧ fault)) ∧
      (∀ i q, moved.recordAt i = some q → q.phase ≠ .opened → r.recordAt i = some q) ∧
      (∀ i, moved.recordAt i = none → r.recordAt i = none) ∧
      r.points = t.points ∧ r.watch = t.watch ∧ r.store = t.store ∧ r.flags = t.flags ∧ r.counts = t.counts ∧
      r.mode = t.mode ∧ r.now = t.now ∧ r.pins = t.pins ∧ r.settings = t.settings ∧ r.composition = t.composition ∧
      r.enables = t.enables ∧ r.holds = t.holds ∧ r.clock = t.clock ∧ r.freeDraws = t.freeDraws) ∧
    (t.passageOpen = false → a.held = true → falls → r = t.addPending .rollback) ∧
    (t.passageOpen = false → a.held = false ∨ ¬falls → r = t)

/-- A point that becomes OUT in an open passage leaves the check set, and the count check and the clearing condition follow (R29,
R37, R41; that the count check follows a change of membership is the model's reading, log 33); with fewer than two members
STANDSTILL becomes CLEARING and CLEARING adds COUNT_UNCHECKED (R39, R40). -/
def Obligations.CheckSetLeft : Prop :=
  ∀ (t : Site) (p : PointId),
    let r := t.leaveCheckSet p
    (t.passageOpen = false ∨ t.passage.watches p = false → r = t) ∧
    (t.passageOpen = true → t.passage.watches p = true → ∃ u : Site,
      (∃ c : BitVec 4, u = t.setPassage { t.passage with checkSet := c } ∧
        ∀ q, u.passage.watches q = true ↔ q ≠ p ∧ t.passage.watches q = true) ∧
      ∀ v : Site,
        let fault := u.passage.watches .ga = true ∧ u.passage.watches .gb = true ∧
          ∃ d, t.passage.direction = some d ∧ (t.point d.entryGate.point).net < (t.point d.exitGate.point).net
        let few := u.passage.members < 2
        let agreed := ¬few ∧ ∃ n, 1 ≤ n ∧ ∀ q, u.passage.watches q = true → (t.point q).net = n
        let clears (o : PassageOutcome) : Site := v.setPassage
          { v.passage with
            phase := .clearing
            outcomeToBe := some o
            timers := { v.passage.timers with clear := some t.now, standstill := none } }
        (fault ∧ v = u.addRecordCause .gateCountFault) ∨ (¬fault ∧ v = u) →
          (t.passage.phase = .inPassage ∨ t.passage.phase = .standstill → agreed → r = clears .complete) ∧
          (t.passage.phase = .inPassage → ¬agreed → r = v) ∧
          (t.passage.phase = .standstill → ¬few → ¬agreed → r = v) ∧
          (t.passage.phase = .standstill → few →
            r = (clears (if t.gateNet = 0 then .withdrawn else .complete)).addRecordCause .countUnchecked) ∧
          (t.passage.phase = .clearing → few → r = v.addRecordCause .countUnchecked) ∧
          (t.passage.phase = .clearing → ¬few → r = v))

/-- The timers of the passage controller. The arm timer's expiry makes the modules that have not answered MISSING and turns ARMING
to ARMED (R23, R76); the arm timeout's expiry stands the modules down and returns an ARMED site to IDLE (R24). The standstill
timer (R36, R40), the clear timer, which closes by the counting gate's count (R39), and the passage limit, which closes TIMED_OUT
(R42). The fitted modules are those of the latched MODULES_FITTED, the model's reading (log 32); the line of any other is sent
nothing (R23, R24, R73). An expiry that is not due has no effect: log 10. -/
def Obligations.PassageTimersExpire : Prop :=
  (∀ s : State, s.Running →
    let t := s.site
    let a := t.passage
    let armDue := ∃ x, a.timers.arm = some x ∧ x + 10000 * t.latchedSetting .armLimit ≤ t.now
    let outDue := a.phase = .armed ∧ a.held = false ∧
      ∃ x, a.timers.armTimeout = some x ∧ x + 10000 * t.latchedSetting .armTimeout ≤ t.now
    let given := t.mapLines (fun _ l => if l.arming = .arming then { l with arming := .missing } else l)
    (armDue → a.phase ≠ .arming → exec .armTimerExpiry s =
      .next (s.setSite (given.setPassage { a with timers := { a.timers with arm := none } }))) ∧
    (armDue → a.phase = .arming → exec .armTimerExpiry s =
      .next (s.setSite (given.setPassage
        { a with
          phase := .armed
          timers := { a.timers with arm := none, armTimeout := if a.held then none else some t.now } }))) ∧
    (¬armDue → exec .armTimerExpiry s = .next s) ∧
    (outDue → ∃ r, exec .armTimeoutExpiry s = .next (s.setSite r) ∧
      r.passage = { a with
        phase := .idle, expected := none, serial := none, pending := 0#22, timers := .stopped
        falseApproaches := bump a.falseApproaches } ∧
      r.points = { t.points with direction := none } ∧ r.train = t.train ∧ r.store = t.store ∧
      (∀ n : Fin 8, t.fitted n.val = true → (r.line n).sending = (t.line n).sending ++
        [ModuleFrame.make (BitVec.ofNat 8 (lineKind n).frameByte) (t.modules.passageNumber.getD 0#16) (t.line n).sendSeq 2#8
          []]) ∧
      (∀ n : Fin 8, t.fitted n.val = false → (r.line n).sending = (t.line n).sending) ∧
      (∀ n : Fin 8, (r.line n).sendSeq = (if t.fitted n.val then (t.line n).sendSeq + 1#16 else (t.line n).sendSeq)) ∧
      (∀ n : Fin 8, (t.line n).arming ≠ .notFitted → (r.line n).arming = .idle) ∧
      (∀ n : Fin 8, (t.line n).arming = .notFitted → (r.line n).arming = .notFitted)) ∧
    (¬outDue → exec .armTimeoutExpiry s = .next s)) ∧
  ∀ s : State, s.Running →
    let t := s.site
    let a := t.passage
    let due (start : Option Nat) (limit : Nat) : Prop := ∃ x, start = some x ∧ x + 10000 * limit ≤ t.now
    let still := a.phase = .inPassage ∧ due a.timers.standstill (t.latchedSetting .standstillTime)
    let clear := a.phase = .clearing ∧ due a.timers.clear (t.latchedSetting .clearTime)
    let limit := t.passageOpen = true ∧ due a.timers.limit (60 * t.latchedSetting .passageLimit)
    let byCount : PassageOutcome := if t.gateNet = 0 then .withdrawn else .complete
    (still → 2 ≤ a.members → exec .standstillTimerExpiry s = .next (s.setSite
      ((t.setPassage { a with phase := .standstill, timers := { a.timers with standstill := none } }).addRecordCause
        .standstill))) ∧
    (still → a.members < 2 → exec .standstillTimerExpiry s = .next (s.setSite
      ((t.setPassage
        { a with
          phase := .clearing
          outcomeToBe := some byCount
          timers := { a.timers with clear := some t.now, standstill := none } }).addRecordCause .countUnchecked))) ∧
    (¬still → exec .standstillTimerExpiry s = .next s) ∧
    (clear → exec .clearTimerExpiry s = .next (s.setSite (t.close byCount))) ∧
    (¬clear → exec .clearTimerExpiry s = .next s) ∧
    (limit → exec .passageLimitExpiry s = .next (s.setSite (t.close .timedOut))) ∧
    (¬limit → exec .passageLimitExpiry s = .next s)

/-- A close, as one event: STAND_DOWN sent, the record CLOSING with its close figures, the roster FINAL, the composition started
on the latched settings, and the passage controller back in IDLE with the net counts as they were (R43, R60, R77). Every STANDING
head is CUT_OFF, with HEAD_CUT_OFF and the crossing machine restarted where its point's condition changes (R3, R7, R8); each
module's last-close outcome and health, MODULE_MISSING and MODULE_SUSPECT follow the passage it served (R77, R79); a pending sweep
start is taken, its sweep suspended at once (R187). A current vehicle that is OPEN is CLOSED, which can fix its orientation (R60,
R64, R65); the record takes the speed figures of the tally (R33). No cause follows from a head that the close cuts off, and the
check set is cleared without its tests: the model's reading, log 25. The fitted modules are those of the latched MODULES_FITTED,
the model's reading (log 32); the line of any other is sent nothing (R23, R73). -/
def Obligations.CloseOfPassage : Prop :=
  ∀ (t : Site) (o : PassageOutcome),
    let r := t.close o
    let fitted (n : Fin 8) : Prop := t.fitted n.val = true
    let end0 (n : Fin 8) : Arming :=
      if (t.line n).arming = .arming ∧ t.passage.timers.arm.isSome = true then .missing else (t.line n).arming
    let health (n : Fin 8) : ModuleHealth :=
      if 0 < (t.line n).orphanTally.toNat ∨ 8 < (t.line n).crcTally.toNat then .suspect
      else if end0 n = .ready then .inService
      else (t.line n).health
    let missing := ∃ n, fitted n ∧ end0 n = .missing
    let suspect := ∃ n, fitted n ∧ (t.line n).health = .inService ∧ health n = .suspect
    let standing (h : HeadId) : Prop := (t.head h).health = .standing
    let has (set : BitVec 22) (c : Cause) : Prop := set.getLsbD c.bit = true
    r.passage.phase = .idle ∧ r.passage.direction = none ∧ r.passage.expected = none ∧ r.passage.gate = none ∧
      r.passage.checkSet = 0#4 ∧ r.passage.serial = none ∧ r.passage.timers = .stopped ∧ r.points.direction = none ∧
      (∀ p, (r.point p).net = (t.point p).net) ∧
      (∀ h, (standing h → (r.head h).health = .cutOff) ∧ (¬standing h → (r.head h).health = (t.head h).health) ∧
        (r.head h).level = (t.head h).level ∧ (r.head h).lastChange = (t.head h).lastChange) ∧
      (∀ p, (r.point p).condition = (t.point p).condition → r.point p = t.point p) ∧
      (∀ p, (r.point p).condition ≠ (t.point p).condition →
        let q := r.point p
        let followed (d : Head) : Prop := d.health ≠ .cutOff ∧ d.level = .occupied
        q.machine = (if followed q.head1 ∨ followed q.head2 then .settling else .idle) ∧ q.lead = none ∧ q.interval = none ∧
          q.rocked = false ∧ q.last = (t.point p).last ∧ q.spurious = (t.point p).spurious) ∧
      r.roster.standing = .final ∧ r.roster.net = t.gateNet ∧ r.roster.serial = t.roster.serial ∧
      (∀ v, t.roster.vehicles.getLast? = some v → v.state = .opened →
        LastVehicleClosed t.roster.vehicles t.roster.entries v r.roster.vehicles r.roster.entries) ∧
      ((∀ v, t.roster.vehicles.getLast? = some v → v.state = .closed) →
        r.roster.vehicles = t.roster.vehicles ∧ r.roster.entries = t.roster.entries) ∧
      (∀ n : Fin 8, t.fitted n.val = true → (r.line n).sending = (t.line n).sending ++
        [ModuleFrame.make (BitVec.ofNat 8 (lineKind n).frameByte) (t.modules.passageNumber.getD 0#16) (t.line n).sendSeq 2#8
          []]) ∧
      (∀ n : Fin 8, t.fitted n.val = false → (r.line n).sending = (t.line n).sending) ∧
      (∀ n : Fin 8, (r.line n).sendSeq = (if t.fitted n.val then (t.line n).sendSeq + 1#16 else (t.line n).sendSeq)) ∧
      (∀ n : Fin 8, (r.line n).arming = (if end0 n = .ready ∨ end0 n = .missing then .idle else end0 n)) ∧
      (∀ n : Fin 8, (r.line n).lastClose = (match end0 n with
        | .ready => some .ready
        | .missing => some .missing
        | .notFitted => some .notFitted
        | .idle | .arming => (t.line n).lastClose)) ∧
      (∀ n : Fin 8, (fitted n → (r.line n).health = health n) ∧ (¬fitted n → (r.line n).health = (t.line n).health)) ∧
      (∀ f : Flag, r.Has f ↔ t.Has f ∨ (f = .moduleMissing ∧ missing) ∨ (f = .moduleSuspect ∧ suspect) ∨
        (f = .headCutOff ∧ ∃ p, (r.point p).condition ≠ (t.point p).condition)) ∧
      (∃ c, r.composition = some c ∧ c.step = .derive ∧ c.latched = t.passage.latched ∧ c.ambient = t.modules.ambient ∧
        ∀ n : Fin 8, c.suspect.getLsbD n.val = true ↔ (r.line n).health = .suspect) ∧
      r.watch = (if t.watch.startPending then
        { t.watch with sweepSerial := t.watch.sweepSerial + 1#16, sweepState := .suspended, cursor := 0, startPending := false }
        else t.watch) ∧
      (∀ i k, t.recordAt i = some k → k.phase = .opened → ∃ m, r.recordAt i = some m ∧ m.phase = .closing ∧
        m.serial = k.serial ∧
        (∀ c : Cause, has m.causes c ↔ has k.causes c ∨ (c = .moduleMissing ∧ missing) ∨
          (c = .clockUnset ∧ t.clock.isSet = false)) ∧
        ∃ f, m.close = some f ∧ f.closed = t.clock.reading ∧ f.outcome = o ∧ f.net = t.gateNet ∧
          f.ambient = t.modules.ambient ∧
          (t.passage.tally.count = 0 → f.speedMin = none ∧ f.speedMax = none ∧ f.speedMean = none) ∧
          (t.passage.tally.count ≠ 0 → f.speedMin = some t.passage.tally.least ∧ f.speedMax = some t.passage.tally.greatest ∧
            f.speedMean = some (t.passage.tally.sum / t.passage.tally.count)))

/-! ### The roster -/

/-- The roster follows the counting gate's count: a rise appends an entry, revives one, or finds the roster full (R47 to R49,
R51, R56); a fall retracts the entry of its ordinal (R50). The entry of ordinal 1 has no gap: the entry table, log 39. -/
def Obligations.RosterFollowsGateCount : Prop :=
  ∀ (t : Site) (m : Nat) (time : BitVec 32) (speed gap : Option Nat),
    let u := t.roster
    let n := u.entries.length
    let r := t.rosterRise m time speed gap
    let reason (k : Nat) : Reason := if t.fitted k then .missing else .notFitted
    (1024 < m → r = t.addRecordCause .rosterFull) ∧
    (∀ e : AxleEntry, 1 ≤ m → m ≤ 1024 → u.entries[m - 1]? = some e →
      r = t.setRoster
        { u with
          entries := u.entries.set (m - 1) { e with state := .present, reversedOver := true }
          generation := u.generation + 1#16 }) ∧
    (n < m → m ≤ 1024 →
      r.roster.entries.length = n + 1 ∧ r.roster.generation = u.generation + 1#16 ∧
        (∀ (i : Nat) (e : AxleEntry), u.entries[i]? = some e → ∃ x, r.roster.entries[i]? = some { e with axleIndex := x }) ∧
        ∃ e, r.roster.entries[n]? = some e ∧ e.ordinal = n + 1 ∧ e.state = .present ∧ e.crossingTime = time ∧ e.speed = speed ∧
          e.gap = (if n = 0 then none else gap) ∧
          e.gapClass =
            (match e.gap with
             | none => .unknown
             | some g =>
               if g ≤ t.latchedSetting .bogieGapMax then .bogie
               else if g ≤ t.latchedSetting .couplingGapMax then .coupling
               else .body) ∧
          (∀ k : Fin 4, e.bays[k] = ⟨.unmeasured (reason k.val), .unmeasured (reason k.val)⟩) ∧
          (∀ k : Fin 2, e.bearings[k] = .unmeasured (reason (k.val + 4))) ∧ e.recross = Vector.replicate 6 0 ∧
          e.reversedOver = false) ∧
    (∀ e : AxleEntry, 1 ≤ m → u.entries[m - 1]? = some e →
      t.rosterFall m = t.setRoster
        { u with
          entries := u.entries.set (m - 1) { e with state := .retracted }
          generation := u.generation + 1#16 }) ∧
    (n < m → t.rosterFall m = t)

/-- An appended axle's vehicle: R57's table, the closing at twelve axles (R58), vehicle 256 (R59), and the causes that each adds;
the first axle of a list adds none. A vehicle that is CLOSED, by a COUPLING gap or at twelve axles, can fix its orientation and
the axle indexes of its run (R64, R65); the entries and vehicles that the append does not close stay as they were. The entry of
ordinal 1 has no gap: the entry table, log 39. -/
def Obligations.AppendedAxleGrouped : Prop :=
  ∀ (t : Site) (time : BitVec 32) (speed gap : Option Nat),
    let u := t.roster
    let n := u.entries.length
    let c := gapClassOf t.passage.latched (if n = 0 then none else gap)
    let r := t.appendAxle time speed gap
    let vs := r.roster.vehicles
    let es := r.roster.entries
    let fresh : Vehicle :=
      { position := u.vehicles.length + 1, firstOrdinal := n + 1, axleCount := 1, state := .opened, tagState := .untagged,
        tagCode := none, taggedEnd := none, readPosition := none, orientation := .unknown, snapshot := Vector.replicate 13 none }
    let has (set : BitVec 22) (x : Cause) : Prop := set.getLsbD x.bit = true
    ∃ (e : AxleEntry) (w : Vehicle), vs.getLast? = some w ∧ e.ordinal = n + 1 ∧ e.axleIndex = none ∧ e.vehicle = vs.length ∧
      e.position = n + 1 - w.firstOrdinal + 1 ∧
      (u.vehicles = [] → vs = [fresh] ∧ es = u.entries ++ [e] ∧ r.train = t.train) ∧
      ∀ v, u.vehicles.getLast? = some v →
        let joined : Vehicle := { v with axleCount := v.axleCount + 1 }
        let longer := u.vehicles.dropLast ++ [joined]
        let full := v.position = 256
        let uncertain := c = .unknown
        let limit := ¬full ∧ v.state = .closed ∧ c ≠ .coupling
        let overfull := full ∧ (c = .coupling ∨ 12 ≤ v.axleCount)
        (¬full → v.state = .opened → c = .coupling →
          ∃ vs' es', LastVehicleClosed u.vehicles u.entries v vs' es' ∧ vs = vs' ++ [fresh] ∧ es = es' ++ [e]) ∧
        (¬full → v.state = .opened → c ≠ .coupling → v.axleCount + 1 < 12 → vs = longer ∧ es = u.entries ++ [e]) ∧
        (¬full → v.state = .opened → c ≠ .coupling → 12 ≤ v.axleCount + 1 →
          LastVehicleClosed longer (u.entries ++ [e]) joined vs es) ∧
        (¬full → v.state = .closed → vs = u.vehicles ++ [fresh] ∧ es = u.entries ++ [e]) ∧
        (full → vs = longer ∧ es = u.entries ++ [e]) ∧
        (∀ i k, t.recordAt i = some k → k.phase = .opened → ∃ q, r.recordAt i = some q ∧ q.phase = .opened ∧
          ∀ x : Cause, has q.causes x ↔ has k.causes x ∨ (x = .groupingUncertain ∧ uncertain) ∨ (x = .groupingLimit ∧ limit) ∨
            (x = .vehicleFull ∧ overfull))

/-- ROSTER_READ and VEHICLE_READ: BAD_VALUE, NOT_FOUND, or OK with the heading and the items asked for; neither changes anything
(R67, R68). The codes of the standing and of a level that is none, and the answer to a bad presence byte, are the model's choice:
log 18, log 20, log 24. -/
def Obligations.RosterAndVehicleReads : Prop :=
  ∀ (s : State) (p : Port) (tag : Byte) (body : List Byte),
    let u := s.site.roster
    let first := natAt body 5 2
    let count := natAt body 7 1
    let absent := u.standing = .none ∨ (natAt body 0 1 = 1 ∧ u.serial ≠ some (BitVec.ofNat 32 (natAt body 1 4)))
    let head : List Byte := leBytes 4 (u.serial.getD 0#32).toNat ++ leBytes 1 (if u.standing = .final then 1 else 0)
    let bay (v : BayValue) : List Byte :=
      match v with
      | .forces k m q => leBytes 1 0 ++ leBytes 2 k ++ leBytes 2 m ++ leBytes 1 q.code
      | .failed => [0#8, 0#8, 0#8, 0#8, 0#8, 3#8]
      | .unmeasured r => leBytes 1 r.code ++ [0#8, 0#8, 0#8, 0#8, 0#8]
    let bearing (v : BearingValue) : List Byte :=
      match v with
      | .temp x q => leBytes 1 0 ++ leIntBytes 2 x ++ leBytes 1 q.code
      | .failed => [0#8, 0#8, 0#8, 3#8]
      | .unmeasured r => leBytes 1 r.code ++ [0#8, 0#8, 0#8]
    let entry (e : AxleEntry) : List Byte :=
      leBytes 2 e.ordinal ++ leBytes 1 e.state.code ++ leBytes 4 e.crossingTime.toNat ++ optNat 2 e.speed ++ optNat 2 e.gap ++
        leBytes 1 e.gapClass.code ++ leBytes 2 e.vehicle ++ leBytes 2 e.position ++ optNat 1 e.axleIndex ++
        e.bays.toList.flatMap (fun b => bay b.rail1 ++ bay b.rail2) ++ e.bearings.toList.flatMap bearing ++
        e.recross.toList.flatMap (leBytes 1) ++ yesNo e.reversedOver
    let vehicle (v : Vehicle) : List Byte :=
      leBytes 2 v.position ++ leBytes 2 v.firstOrdinal ++ leBytes 2 v.axleCount ++
        leBytes 2 ((v.run u.entries).countP (fun e => e.state == .present)) ++ leBytes 1 v.state.code ++
        optField 8 (v.tagCode.map (fun c => leBytes 8 c.toNat)) ++ leBytes 1 v.tagState.code ++
        optNat 1 (v.taggedEnd.map VehicleEnd.number) ++ optNat 2 v.readPosition ++ leBytes 1 v.orientation.code ++
        v.snapshot.toList.flatMap (fun l => leBytes 1 ((l.map WatchLevel.code).getD 3))
    (s.Takes p .rosterRead body →
      let bad := 1 < natAt body 0 1 ∨ first < 1 ∨ 1024 < first ∨ count < 1 ∨ 8 < count
      let items := (u.entries.drop (first - 1)).take count
      (bad → exec (.rosterRead p tag body) s = .next (s.refused p tag .rosterRead .badValue)) ∧
      (¬bad → absent → exec (.rosterRead p tag body) s = .next (s.refused p tag .rosterRead .notFound)) ∧
      (¬bad → ¬absent → exec (.rosterRead p tag body) s = .next (s.granted p tag .rosterRead
        (head ++ leBytes 2 u.entries.length ++ leBytes 2 (if u.standing = .live then s.site.gateNet else u.net) ++
          leBytes 2 u.generation.toNat ++ leBytes 1 items.length ++ items.flatMap entry) s.site))) ∧
    (s.Takes p .vehicleRead body →
      let bad := 1 < natAt body 0 1 ∨ first < 1 ∨ 256 < first ∨ count < 1 ∨ 16 < count
      let items := (u.vehicles.drop (first - 1)).take count
      (bad → exec (.vehicleRead p tag body) s = .next (s.refused p tag .vehicleRead .badValue)) ∧
      (¬bad → absent → exec (.vehicleRead p tag body) s = .next (s.refused p tag .vehicleRead .notFound)) ∧
      (¬bad → ¬absent → exec (.vehicleRead p tag body) s = .next (s.granted p tag .vehicleRead
        (head ++ leBytes 2 u.vehicles.length ++ leBytes 2 u.generation.toNat ++ leBytes 1 items.length ++
          items.flatMap vehicle) s.site)))

/-! ### The module lines -/

/-- A frame taken whole on a module line: while the site is not RUNNING nothing; a bad CRC, a malformed frame and a stale frame are
each counted and discarded, in that order (R69, R70, R72). A gap inside a frame, and a frame discarded before its passage check,
are counted alike; after a gap the next byte is taken as a hunting byte, and after a length out of range the length byte is. In
LOADING, and while the part is held, none of them changes anything (R69, R224). -/
def Obligations.ModuleFramesChecked : Prop :=
  (∀ (s : State) (n : Fin 8) (f : ModuleFrame) (c : Instr), f.payload.length ≤ 11 →
    (c = .moduleReady n f ∧ f.code = 3#8) ∨ (c = .bayScannerReport n f ∧ n.val < 6 ∧ f.code = 4#8) ∨
      (c = .tagReport f ∧ n = 6 ∧ f.code = 4#8) →
    let l := s.site.line n
    let armed := l.arming = .arming ∨ l.arming = .ready ∨ l.arming = .missing
    let sets (k : ModuleLine) : Prop := exec c s = .next (s.setSite (s.site.putLine n { k with receiver := .hunting }))
    (s.site.mode ≠ .running → exec c s = .next s) ∧
    (s.Running → f.crc ≠ f.rightCrc →
      sets { l with crcErrors := bump l.crcErrors, crcTally := if armed then bump l.crcTally else l.crcTally }) ∧
    (s.Running → f.crc = f.rightCrc → ¬WellMade n f → sets { l with malformed := bump l.malformed }) ∧
    (s.Running → WellMade n f → ¬s.site.Current n f → sets { l with stale := bump l.stale })) ∧
  (∀ (s : State) (n : Fin 8), s.site.mode ≠ .running →
    (∀ b, exec (.moduleByteGap n b) s = .next s) ∧ exec (.moduleFrameDiscard n .stopBit) s = .next s ∧
    (∀ b : Byte, b.toNat < 6 ∨ 17 < b.toNat → exec (.moduleFrameDiscard n (.length b)) s = .next s) ∧
    (∀ f : ModuleFrame, f.payload.length ≤ 11 → f.crc ≠ f.rightCrc ∨ ¬WellMade n f →
      exec (.moduleFrameDiscard n (.frame f)) s = .next s)) ∧
  ∀ (s : State) (n : Fin 8), s.Running →
    let l := s.site.line n
    let armed := l.arming = .arming ∨ l.arming = .ready ∨ l.arming = .missing
    let broken (r : Receiver) : State := s.setSite (s.site.putLine n { l with malformed := bump l.malformed, receiver := r })
    exec (.moduleByteGap n 0xC3#8) s = .next (broken .inFrame) ∧
    (∀ b, b ≠ 0xC3#8 → exec (.moduleByteGap n b) s = .next (broken .hunting)) ∧
    exec (.moduleFrameDiscard n (.length 0xC3#8)) s = .next (broken .inFrame) ∧
    (∀ b : Byte, b.toNat < 6 ∨ 17 < b.toNat → b ≠ 0xC3#8 →
      exec (.moduleFrameDiscard n (.length b)) s = .next (broken .hunting)) ∧
    exec (.moduleFrameDiscard n .stopBit) s = .next (broken .hunting) ∧
    (∀ f : ModuleFrame, f.payload.length ≤ 11 → f.crc ≠ f.rightCrc →
      exec (.moduleFrameDiscard n (.frame f)) s = .next (s.setSite (s.site.putLine n
        { l with
          crcErrors := bump l.crcErrors
          crcTally := if armed then bump l.crcTally else l.crcTally
          receiver := .hunting }))) ∧
    (∀ f : ModuleFrame, f.payload.length ≤ 11 → f.crc = f.rightCrc → ¬WellMade n f →
      exec (.moduleFrameDiscard n (.frame f)) s = .next (broken .hunting))

/-- A READY that is taken: an ARMING module becomes READY, and the last one awaited ends the arming (R23, R74); a MISSING module
becomes READY with LATE_MODULE; a READY module answers again without effect. Those awaited are the modules of the latched
MODULES_FITTED (R73; log 32). The ambient unit's READY sets the passage ambient. -/
def Obligations.ReadyTaken : Prop :=
  ∀ (s : State) (n : Fin 8) (f : ModuleFrame), f.code = 3#8 → s.site.Hears n f →
    let t := s.site.hunted n
    let a := t.passage
    let x := intAt f.payload 0 2
    let ready := t.putLine n { t.line n with arming := .ready }
    let t1 := ready.setModules
      { ready.modules with
        ambient := if n = 7 then (if -600 ≤ x ∧ x ≤ 2500 then some x else none) else t.modules.ambient }
    let all := a.timers.arm.isSome = true ∧ ∀ k : Fin 8, t.fitted k.val = true → (t1.line k).arming = .ready
    let gives (r : Site) : Prop := exec (.moduleReady n f) s = .next (s.setSite r)
    ((t.line n).arming = .arming → ¬all → gives t1) ∧
    ((t.line n).arming = .arming → all → a.phase ≠ .arming →
      gives (t1.setPassage { a with timers := { a.timers with arm := none } })) ∧
    ((t.line n).arming = .arming → all → a.phase = .arming →
      gives (t1.setPassage
        { a with
          phase := .armed
          timers := { a.timers with arm := none, armTimeout := if a.held then none else some t.now } })) ∧
    ((t.line n).arming = .missing → t.HasOpenRecord → gives (t1.addRecordCause .lateModule)) ∧
    ((t.line n).arming = .missing → ¬t.HasOpenRecord → gives (t1.addPending .lateModule)) ∧
    ((t.line n).arming = .ready → gives t)

/-- A bay or scanner report: taken first as a READY where its module has not answered (R75); its sequence, the missing crossings
it tells (R81, R82), and its place as a FWD report (R84) or a REV report (R83), turned over under a direction reversal (R86); the
values it carries (R87), and how an entry takes them: the first value wins, a later report raises the re-crossing count, held at
15 (R54, R84). A place advances below the roster length without a test of the net axle count, where R80 would have an orphan: log
45. -/
def Obligations.ReportsPlaced : Prop :=
  (∀ (s : State) (n : Fin 8) (f : ModuleFrame), n.val < 6 → f.code = 4#8 → s.site.Hears n f →
    ∃ t, (s.site.hunted n).ShownUp n t ∧
    let d := (f.sequence - (t.line n).expected).toNat
    let w := Site.missingCrossings n d t
    let l := w.line n
    let fwd := natAt f.payload 0 1 = 1 ↔ t.modules.reversed = false
    let inRoster := l.beyond = 0 ∧ l.cursor + 1 ≤ w.rosterLen
    let inCount := l.cursor + l.beyond + 1 ≤ w.netAxles
    let gives (r : Site) : Prop :=
      exec (.bayScannerReport n f) s =
        .next (s.setSite (r.putLine n { r.line n with expected := f.sequence + 1#16 }))
    (4096 < d → exec (.bayScannerReport n f) s =
      .next (s.setSite (t.putLine n { t.line n with outOfSequence := bump (t.line n).outOfSequence }))) ∧
    (d ≤ 4096 → fwd → inRoster → gives ((w.putLine n { l with cursor := l.cursor + 1 }).setRoster
      (w.roster.updateEntry (l.cursor + 1) (fun e => e.take n (reportValues n f.payload))))) ∧
    (d ≤ 4096 → fwd → ¬inRoster → inCount → gives (w.putLine n { l with beyond := l.beyond + 1 })) ∧
    (d ≤ 4096 → fwd → ¬inRoster → ¬inCount →
      gives ((w.putLine n { l with orphans := bump l.orphans, orphanTally := bump l.orphanTally }).addCause .orphanReports)) ∧
    (d ≤ 4096 → ¬fwd → 0 < l.beyond → gives (w.putLine n { l with beyond := l.beyond - 1 })) ∧
    (d ≤ 4096 → ¬fwd → l.beyond = 0 → 0 < l.cursor →
      gives ((w.setRoster (w.roster.updateEntry l.cursor (fun e => { e with reversedOver := true }))).putLine n
        { l with cursor := l.cursor - 1 })) ∧
    (d ≤ 4096 → ¬fwd → l.beyond = 0 → l.cursor = 0 → gives w)) ∧
  (∀ (t : Site) (n : Fin 8) (k : Nat),
    let l : ModuleLine := { t.line n with missingReports := bump (t.line n).missingReports }
    Site.missingCrossings n 0 t = t ∧
    (l.cursor < t.rosterLen →
      Site.missingCrossings n (k + 1) t = Site.missingCrossings n k (t.putLine n { l with cursor := l.cursor + 1 })) ∧
    (t.rosterLen ≤ l.cursor → l.cursor + l.beyond + 1 ≤ t.netAxles →
      Site.missingCrossings n (k + 1) t = Site.missingCrossings n k (t.putLine n { l with beyond := l.beyond + 1 })) ∧
    (t.rosterLen ≤ l.cursor → t.netAxles < l.cursor + l.beyond + 1 →
      Site.missingCrossings n (k + 1) t = Site.missingCrossings n k (t.putLine n l))) ∧
  (∀ (payload : List Byte) (i : Nat),
    let k := natAt payload i 2
    let m := natAt payload (i + 2) 2
    let q := natAt payload (i + 4) 1
    ((q = 1 ∨ q = 2 ∨ q = 3) ∧ k ≤ 10000 ∧ m ≤ 10000 →
      ∃ v : Quality, v.code + 1 = q ∧ bayRail payload i = .forces k m v) ∧
    (q < 1 ∨ 3 < q ∨ 10000 < k ∨ 10000 < m → bayRail payload i = .failed)) ∧
  (∀ payload : List Byte,
    let x := intAt payload 1 2
    let q := natAt payload 3 1
    (q = 1 → -600 ≤ x → x ≤ 2500 → scannerValue payload = .temp x .good) ∧
    (q = 2 → -600 ≤ x → x ≤ 2500 → scannerValue payload = .temp x .noisy) ∧
    (q < 1 ∨ 2 < q ∨ x < -600 ∨ 2500 < x → scannerValue payload = .failed)) ∧
  (∀ (e : AxleEntry) (n : Fin 8) (v : ReportValues) (h6 : n.val < 6),
    let again : AxleEntry := { e with recross := e.recross.set n.val (min 15 (e.recross[n.val] + 1)) }
    (∀ (h4 : n.val < 4) (a b : BayValue), v = .bay a b →
      (e.bays[n.val].rail1 = .unmeasured .missing → e.take n v = { e with bays := e.bays.set n.val ⟨a, b⟩ }) ∧
      (∀ r, e.bays[n.val].rail1 = .unmeasured r → r ≠ .missing → e.take n v = e) ∧
      ((∀ r, e.bays[n.val].rail1 ≠ .unmeasured r) → e.take n v = again)) ∧
    (∀ (h2 : n.val - 4 < 2) (b : BearingValue), 4 ≤ n.val → v = .bearing b →
      (e.bearings[n.val - 4] = .unmeasured .missing → e.take n v = { e with bearings := e.bearings.set (n.val - 4) b }) ∧
      (∀ r, e.bearings[n.val - 4] = .unmeasured r → r ≠ .missing → e.take n v = e) ∧
      ((∀ r, e.bearings[n.val - 4] ≠ .unmeasured r) → e.take n v = again))) ∧
  (∀ (n : Fin 8) (payload : List Byte),
    (n.val < 4 → reportValues n payload = .bay (bayRail payload 1) (bayRail payload 6)) ∧
    (4 ≤ n.val → reportValues n payload = .bearing (scannerValue payload)))

/-- A tag report: taken first as a READY where the reader has not answered (R75), then by the roster unit in R61's order; its
quality and tagged end by R88. What a vehicle makes of a tag report for one of its axles (R62, R63), the orientation that a tag
fixes on a CLOSED vehicle (R64) with its axle indexes (R65), and the sides over the rails (R66). -/
def Obligations.TagReportsTaken : Prop :=
  (∀ (s : State) (f : ModuleFrame), f.code = 4#8 → s.site.Hears 6 f →
    ∃ t, (s.site.hunted 6).ShownUp 6 t ∧
    let u := t.roster
    let lag := t.latchedSetting .readerLag
    let side := natAt f.payload 8 1
    let good := (side = 1 ∨ side = 2) ∧ natAt f.payload 9 1 = 1
    let d : TagRead :=
      { code := BitVec.ofNat 64 (natAt f.payload 0 8), taggedEnd := if side = 2 then .two else .one, good := true }
    let gives (r : Site) : Prop := exec (.tagReport f) s = .next (s.setSite r)
    (¬good → gives (t.setRoster { u with failedReads := bump u.failedReads })) ∧
    (good → u.standing ≠ .live → gives (t.setRoster { u with lateTags := bump u.lateTags })) ∧
    (good → u.standing = .live → t.gateNet < lag + 1 → gives (t.setRoster { u with earlyTags := bump u.earlyTags })) ∧
    (good → u.standing = .live → lag + 1 ≤ t.gateNet → u.entries.length < t.gateNet - lag →
      gives (t.setRoster { u with unplacedTags := bump u.unplacedTags })) ∧
    (good → u.standing = .live → lag + 1 ≤ t.gateNet → ∀ e, u.entries[t.gateNet - lag - 1]? = some e →
      gives (t.assignTag d e))) ∧
  (∀ (t : Site) (d : TagRead) (e : AxleEntry) (v : Vehicle), t.roster.vehicleAt e.vehicle = some v →
    let r := t.assignTag d e
    let leads := 2 * e.position ≤ v.axleCount
    let way : Orientation := if (d.taggedEnd = .one ↔ leads) then .end1Leading else .end2Leading
    let index (x : AxleEntry) : Nat := if way = .end1Leading then x.position else v.axleCount + 1 - x.position
    let fixes := v.state = .closed ∧ v.axleCount ≤ 12
    (v.tagState = .untagged → ∃ w, r.roster.vehicleAt e.vehicle = some w ∧ w.tagState = .single ∧ w.tagCode = some d.code ∧
      w.taggedEnd = some d.taggedEnd ∧ w.readPosition = some e.position ∧
      (∀ i : Fin 13, w.snapshot[i] = t.levelOf { tag := d.code, index := i.val }) ∧
      (fixes → w.orientation = way ∧ r.roster.entries = t.roster.entries.map
        (fun x => if x.vehicle = e.vehicle then { x with axleIndex := some (index x) } else x)) ∧
      (¬fixes → w.orientation = v.orientation ∧ r.roster.entries = t.roster.entries)) ∧
    (v.tagState = .single → v.tagCode = some d.code →
      r.roster.vehicleAt e.vehicle = some { v with tagState := .confirmed } ∧ r.roster.entries = t.roster.entries ∧
        r.train = t.train) ∧
    (v.tagState = .single ∨ v.tagState = .confirmed → v.tagCode ≠ some d.code →
      r.roster.vehicleAt e.vehicle = some
        { v with
          tagState := .conflict, tagCode := none, taggedEnd := none, readPosition := none, orientation := .unknown
          snapshot := Vector.replicate 13 none } ∧
        r.roster.entries = t.roster.entries.map (fun x => if x.vehicle = e.vehicle then { x with axleIndex := none } else x) ∧
        r.train = (t.addRecordCause .tagConflict).train) ∧
    (v.tagState = .confirmed → v.tagCode = some d.code → r = t) ∧ (v.tagState = .conflict → r = t)) ∧
  (sideOver .ab .end1Leading .one = some .s1 ∧ sideOver .ab .end1Leading .two = some .s2 ∧
    sideOver .ab .end2Leading .one = some .s2 ∧ sideOver .ab .end2Leading .two = some .s1 ∧
    sideOver .ba .end1Leading .one = some .s2 ∧ sideOver .ba .end1Leading .two = some .s1 ∧
    sideOver .ba .end2Leading .one = some .s1 ∧ sideOver .ba .end2Leading .two = some .s2 ∧
    ∀ d r, sideOver d .unknown r = none)


/-! ### The composition -/

/-- The first five steps of a composition, each on the step before it: the quantities derived (R92, R111), the criteria tested
(R133), the watched vehicles found (R136), the findings selected with FINDINGS_OVERFLOW (R137), the verdict written with
DEFERRED_PRESENT (R138, R139). A step that is not the next one has no effect: log 1. -/
def Obligations.CompositionSteps : Prop :=
  ∀ (s : State) (c : Composition), s.Running → s.site.composition = some c →
    let t := s.site
    let put (t : Site) (c : Composition) : State := s.setSite (t.setComposition (some c))
    let cause (t : Site) (x : Cause) : Site := t.updateRecord .closing (fun r => { r with causes := setAdd r.causes x.bit })
    let v := makeVerdict t.roster c.derived c.kept c.overflow
    let written := t.updateRecord .closing (fun r => { r with verdict := some v })
    let selected : Composition :=
      { c with kept := selectFindings c.made, overflow := min (c.made.length - 96) 65535, step := .verdict }
    let sent : Composition := { c with contributions := t.contributionsNow c, step := .contribute }
    (exec .composeDerive s = .next (if c.step = .derive then
      put t { c with derived := derive c.latched c.suspect c.ambient t.roster, step := .test } else s)) ∧
    (exec .composeTestCriteria s = .next (if c.step = .test then
      put t { c with made := c.made ++ testCriteria c.latched (t.judgeInputs c), step := .watched } else s)) ∧
    (exec .composeWatchedVehicles s = .next (if c.step = .watched then
      put t { c with made := c.made ++ watchedFindings t.roster, step := .select } else s)) ∧
    (exec .composeSelect s = .next (if c.step = .select then
      (if c.made.length ≤ 96 then put t selected else put (cause t .findingsOverflow) selected) else s)) ∧
    (exec .composeVerdict s = .next (if c.step = .verdict then
      (if v.deferred = 0 then put written sent else put (cause written .deferredPresent) sent) else s))

/-- How a criterion is tested: its predicate (R127), the threshold that the watch snapshot chooses (R131), what a measured and an
unmeasured value make (R134), the fields of the finding (R135), the quantity each scope reads, and the items in their order
(R133). -/
def Obligations.CriteriaTested : Prop :=
  let counts (l : Option WatchLevel) : Prop := l = some .restrict ∨ l = some .withdraw
  (∀ v x : Int, (Predicate.met .ge v x = true ↔ x ≤ v) ∧ (Predicate.met .gt v x = true ↔ x < v) ∧
    (Predicate.met .le v x = true ↔ v ≤ x) ∧ (Predicate.met .lt v x = true ↔ v < x)) ∧
  (∀ (v : Vehicle) (e : AxleEntry),
    (axleThreshold v e = .watched ↔
      counts v.snapshot[0] ∨ ∃ i : Fin 13, e.axleIndex = some i.val ∧ counts v.snapshot[i]) ∧
    (vehicleThreshold v = .watched ↔ ∃ i : Fin 13, counts v.snapshot[i]) ∧ trainItem.threshold = .normal) ∧
  (∀ (n : Fin 24) (c : Criterion) (i : Item) (m : Measure),
    let x : Int := match i.threshold with | .normal => c.normal | .watched => c.watched
    let makes (s : FindingState) : Prop := testItem n c i m = some
      { number := 0, kind := .criterion n, vehicle := i.vehicle, ordinal := i.ordinal, rail := i.rail, side := i.side
        index := i.index, measure := some m, threshold := i.threshold, grade := c.grade, state := s, resolvedGrade := none }
    (∀ v, m = .value v → c.predicate.met v x = true → makes .final) ∧
    (∀ v, m = .value v → c.predicate.met v x = false → testItem n c i m = none) ∧
    (∀ r, m = .unmeasured r → (c.treatment = .ignore → testItem n c i m = none) ∧ (c.treatment = .meet → makes .final) ∧
      (c.treatment = .defer → makes .deferred))) ∧
  (∀ (d : Dir) (v : Vehicle) (e : AxleEntry) (r : Rail),
    let index : FindingIndex :=
      match e.axleIndex with
      | some i => { index := i, basis := .fromEnd1 }
      | none => { index := e.position, basis := .fromLeading }
    wheelItem d v e r =
      { vehicle := some e.vehicle, ordinal := some e.ordinal, rail := some r, side := sideOver d v.orientation r
        index := some index, threshold := axleThreshold v e } ∧
    axleItem v e =
      { vehicle := some e.vehicle, ordinal := some e.ordinal, rail := none, side := none, index := some index
        threshold := axleThreshold v e } ∧
    vehicleItem v =
      { vehicle := some v.position, ordinal := none, rail := none, side := none, index := none
        threshold := vehicleThreshold v } ∧
    trainItem = { vehicle := none, ordinal := none, rail := none, side := none, index := none, threshold := .normal }) ∧
  (∀ (w : WheelQuantities) (a : AxleQuantities) (v : VehicleQuantities) (q : Derived),
    w.of .wheelLoad = w.load ∧ w.of .wheelImpact = w.impact ∧ w.of .impactExcess = w.excess ∧ w.of .impactRatio = w.ratio ∧
      w.of .bearingTemp = w.temp ∧ w.of .bearingRise = w.rise ∧ a.of .axleLoad = a.load ∧ a.of .axleSideSplit = a.sideSplit ∧
      a.of .bearingCross = a.cross ∧ a.of .bearingTrainExcess = a.trainExcess ∧ v.of .vehicleLoad = v.load ∧
      v.of .vehicleEndSplit = v.endSplit ∧ v.of .vehicleSideSplit = v.sideSplit ∧ q.of .trainLoad = q.trainLoad ∧
      q.of .trainSpeed = q.trainSpeed) ∧
  (∀ q : QuantityName,
    (q.scope = .wheel ↔ q = .wheelLoad ∨ q = .wheelImpact ∨ q = .impactExcess ∨ q = .impactRatio ∨ q = .bearingTemp ∨
      q = .bearingRise) ∧
    (q.scope = .axle ↔ q = .axleLoad ∨ q = .axleSideSplit ∨ q = .bearingCross ∨ q = .bearingTrainExcess) ∧
    (q.scope = .vehicle ↔ q = .vehicleLoad ∨ q = .vehicleEndSplit ∨ q = .vehicleSideSplit) ∧
    (q.scope = .train ↔ q = .trainLoad ∨ q = .trainSpeed)) ∧
  ∀ (b : SettingsBlock) (j : JudgeInputs),
    let present := (j.roster.entries.zip j.derived.axles).filter (fun p => p.1.state == .present)
    let standing := (j.roster.vehicles.zip j.derived.vehicles).filter (fun p =>
      ((j.roster.entries.drop (p.1.firstOrdinal - 1)).take p.1.axleCount).any (fun e => e.state == .present))
    let one (n : Fin 24) (c : Criterion) (i : Item) (m : Measure) : List Finding := (testItem n c i m).toList
    let wheels (n : Fin 24) (c : Criterion) (p : AxleEntry × AxleQuantities) : List Finding :=
      match j.roster.vehicleAt p.1.vehicle with
      | some v => one n c (wheelItem j.direction v p.1 .one) (p.2.wheel1.of c.quantity) ++
          one n c (wheelItem j.direction v p.1 .two) (p.2.wheel2.of c.quantity)
      | none => []
    let axle (n : Fin 24) (c : Criterion) (p : AxleEntry × AxleQuantities) : List Finding :=
      match j.roster.vehicleAt p.1.vehicle with
      | some v => one n c (axleItem v p.1) (p.2.of c.quantity)
      | none => []
    testCriteria b j = (List.finRange 24).flatMap (fun n =>
      let c := b.criteria[n]
      if c.enabled = false then []
      else
        match c.quantity.scope with
        | .wheel => present.flatMap (wheels n c)
        | .axle => present.flatMap (axle n c)
        | .vehicle => standing.flatMap (fun p => one n c (vehicleItem p.1) (p.2.of c.quantity))
        | .train => one n c trainItem (j.derived.of c.quantity))

/-- The selection ranks the findings by R137's five keys, each deciding only between findings equal in every key before it, and
keeps the first 96, numbered from 1 in that ranking; each finding found is ranked once (R137). The worst grade is the highest
effective grade of the findings, CLEAR of none (R138). -/
def Obligations.SelectionAndWorstGrade : Prop :=
  (∀ fs : List Finding,
    let kind (f : Finding) : Nat :=
      match f.vehicle, f.ordinal, f.rail with
      | none, _, _ => 0
      | some _, none, _ => 1
      | some _, some _, none => 2
      | some _, some _, some _ => 3
    let place (f : Finding) : Nat := (f.ordinal.or f.vehicle).getD 0
    let criterion (f : Finding) : Nat := match f.kind with | .criterion n => n.val | .watchedVehicle => 24
    let rail (f : Finding) : Nat := match f.rail with | none => 0 | some .one => 1 | some .two => 2
    let before (f g : Finding) : Prop :=
      g.effective.code < f.effective.code ∨ (g.effective.code = f.effective.code ∧
        (kind f < kind g ∨ (kind f = kind g ∧
          (place f < place g ∨ (place f = place g ∧
            (criterion f < criterion g ∨ (criterion f = criterion g ∧ rail f < rail g)))))))
    ∃ ranked : List Finding, ranked.Perm fs ∧ ranked.Pairwise (fun f g => ¬before g f) ∧
      selectFindings fs = (ranked.take 96).zipIdx.map (fun p => { p.1 with number := p.2 + 1 })) ∧
  (∀ fs : List Finding,
    (selectFindings fs).length = min fs.length 96 ∧
    (∀ (i : Nat) (f : Finding), (selectFindings fs)[i]? = some f → f.number = i + 1 ∧
      ∃ g ∈ fs, f = { g with number := i + 1 })) ∧
  (∀ fs : List Finding,
    (∀ f ∈ fs, f.effective.code ≤ (worstGrade fs).code) ∧
    ((worstGrade fs = .clear) ∨ ∃ f ∈ fs, f.effective = worstGrade fs)) ∧
  (∀ f : Finding, (f.state ≠ .resolved → f.effective = f.grade) ∧
    (∀ g, f.state = .resolved → f.resolvedGrade = some g → f.effective = g))

/-- The watched-vehicle findings (R136), what the record takes at step 5 (R139), and the contributions with their order, grade,
DEFERRED mark and sides (R103, R122, R140 to R142). -/
def Obligations.VerdictAndContributions : Prop :=
  let standing (u : RosterUnit) (v : Vehicle) : Bool :=
    ((u.entries.drop (v.firstOrdinal - 1)).take v.axleCount).any (fun e => e.state == .present)
  (∀ (u : RosterUnit), watchedFindings u = (u.vehicles.filter (standing u)).filterMap (fun v =>
    let finding (g : Grade) : Finding :=
      { number := 0, kind := .watchedVehicle, vehicle := some v.position, ordinal := none, rail := none, side := none
        index := none, measure := none, threshold := .watched, grade := g, state := .final, resolvedGrade := none }
    if some .withdraw ∈ v.snapshot.toList then some (finding .alarm)
    else if some .restrict ∈ v.snapshot.toList then some (finding .note)
    else none)) ∧
  (∀ (u : RosterUnit) (q : Derived) (kept : List Finding) (overflow : Nat),
    let v := makeVerdict u q kept overflow
    v.grade = worstGrade kept ∧ v.findings = kept ∧ v.overflow = overflow ∧
      v.deferred = kept.countP (fun f => f.state == .deferred) ∧ v.trainLoad = q.trainLoad ∧ v.mean1 = q.mean1 ∧
      v.mean2 = q.mean2 ∧ v.rosterLength = u.entries.length ∧
      v.retracted = u.entries.countP (fun e => e.state == .retracted) ∧ v.vehicleCount = u.vehicles.length ∧
      ∀ (k : Nat) (c : Vehicle) (x : VehicleQuantities), u.vehicles[k]? = some c → q.vehicles[k]? = some x →
        ∃ w, v.vehicles[k]? = some w ∧ w.position = c.position ∧ w.firstOrdinal = c.firstOrdinal ∧
          w.axleCount = c.axleCount ∧ w.tagCode = c.tagCode ∧ w.tagState = c.tagState ∧ w.orientation = c.orientation ∧
          w.load = x.load ∧ w.worst = worstGrade (kept.filter (fun f => f.vehicle == some c.position)) ∧
          (∀ l, w.highest = some l → some l ∈ c.snapshot.toList) ∧
          ∀ l, some l ∈ c.snapshot.toList → ∃ m, w.highest = some m ∧ l.code ≤ m.code) ∧
  (∀ fs : List Finding,
    (∀ f ∈ fs, f.state = .final → f.grade.code ≤ (itemGrade fs).code) ∧
    (itemGrade fs = .clear ∨ ∃ f ∈ fs, f.state = .final ∧ f.grade = itemGrade fs) ∧
    (itemDeferred fs = true ↔ ∃ f ∈ fs, f.state = .deferred)) ∧
  (∀ (d : Dir) (o : Orientation) (a : AxleQuantities),
    let shown (m : Measure) : Option Int := match m with | .value x => some x | .unmeasured _ => none
    let v := sideValues d o a
    (o = .unknown → v = { rise1 := none, rise2 := none, excess1 := none, excess2 := none }) ∧
    (∀ w1 w2 : WheelQuantities,
      (sideOver d o .one = some .s1 ∧ w1 = a.wheel1 ∧ w2 = a.wheel2) ∨
        (sideOver d o .one = some .s2 ∧ w1 = a.wheel2 ∧ w2 = a.wheel1) →
      v = { rise1 := shown w1.rise, rise2 := shown w2.rise, excess1 := shown w1.excess, excess2 := shown w2.excess })) ∧
  (∀ (j : JudgeInputs) (made : List Finding) (n : Serial) (date : Date),
    let u := j.roster
    let sends (tag : TagCode) (i : Nat) (fs : List Finding) (v : SideValues) : Contribution :=
      .passage { tag := tag, index := i } n date (itemGrade fs) (itemDeferred fs) v
    let ofVehicle (v : Vehicle) : List Finding :=
      made.filter (fun f => f.vehicle == some v.position && f.ordinal.isNone && f.kind != .watchedVehicle)
    let ofAxle (e : AxleEntry) : List Finding := made.filter (fun f => f.ordinal == some e.ordinal)
    let axles (v : Vehicle) : List (AxleEntry × AxleQuantities) :=
      (((u.entries.zip j.derived.axles).drop (v.firstOrdinal - 1)).take v.axleCount).filter (fun p => p.1.state == .present)
    contributionsOf j made n date =
      (u.vehicles.filter (fun v => standing u v && (v.tagState == .single || v.tagState == .confirmed))).flatMap (fun v =>
        match v.tagCode with
        | none => []
        | some tag =>
          sends tag 0 (ofVehicle v) { rise1 := none, rise2 := none, excess1 := none, excess2 := none } ::
            (axles v).filterMap (fun p => p.1.axleIndex.map (fun i =>
              sends tag i (ofAxle p.1) (sideValues j.direction v.orientation p.2))))) ∧
  ∀ (t : Site) (c : Composition) (r : TrainRecord) (f : CloseFigures),
    t.recordIn .closing = some r → r.close = some f → t.contributionsNow c =
      contributionsOf { direction := r.direction, roster := t.roster, derived := c.derived } c.made r.serial
        { year := f.closed.year, month := f.closed.month, day := f.closed.day }

/-- The handing over and the end of a composition: the next contribution goes to the watch table (R142); when none is left the
record is CLOSED with its flags, and a held opening takes effect or a SUSPENDED sweep resumes (R32, R143, R190).
PASSAGE_CONTRIBUTION and COMPOSITION_END have no effect when they are not the next step: the model's choice, log 1. -/
def Obligations.CompositionEnds : Prop :=
  (∀ (s : State) (c : Composition), s.Running → s.site.composition = some c → c.step = .contribute →
    let t := s.site
    let closed := (t.updateRecord .closing (fun r => { r with phase := .closed })).setComposition none
    let flagged : Site :=
      match t.recordIn .closing with
      | some r =>
        let g := match r.verdict with | some v => v.grade | none => .clear
        let f1 := closed.raise .trainClosed
        let f2 := if g = .alarm ∨ g = .stop then f1.raise .gradeAlarm else f1
        if 0 < r.deferred then f2.raise .deferredWaiting else f2
      | none => closed
    (∀ k ks, c.contributions = k :: ks →
      exec .passageContribution s =
        .next (s.setSite ((t.setComposition (some { c with contributions := ks })).contribute k)) ∧
      exec .compositionEnd s = .next s) ∧
    (c.contributions = [] →
      exec .passageContribution s = .next s ∧
      (t.passage.held = true → exec .compositionEnd s = .next (s.setSite flagged.effectHeld)) ∧
      (t.passage.held = false → t.watch.sweepState = .suspended →
        exec .compositionEnd s = .next (s.setSite (flagged.setWatch { t.watch with sweepState := .running }))) ∧
      (t.passage.held = false → t.watch.sweepState ≠ .suspended → exec .compositionEnd s = .next (s.setSite flagged)))) ∧
  ∀ s : State, (∀ c, s.Running → s.site.composition = some c → c.step ≠ .contribute) →
    exec .passageContribution s = .next s ∧ exec .compositionEnd s = .next s

/-- The load and heat speed bands of the latched settings: outside without a speed, inside from the least to the greatest speed,
both included (R96, R114). Quantities of a wheel and of an axle: RETRACTED and OUT_OF_BAND items (R94, R96, R114), the wheel load
with the values that serve it (R95, R97), the wheel impact (R98), the impact excess (R99) and ratio (R100), the axle load (R101)
and side split (R102), the bearing temperature (R115, R116), rise (R118) and cross difference (R119), the train excess (R121);
each with the reason it carries when an input of it is unmeasured. -/
def Obligations.WheelAndAxleQuantities : Prop :=
  (∀ (b : SettingsBlock) (e : AxleEntry),
    (e.speed = none → inLoadBand b e = false ∧ inHeatBand b e = false) ∧
    (∀ v, e.speed = some v →
      (inLoadBand b e = true ↔ b.nat .loadSpeedMin ≤ v ∧ v ≤ b.nat .loadSpeedMax) ∧
      (inHeatBand b e = true ↔ b.nat .heatSpeedMin ≤ v ∧ v ≤ b.nat .heatSpeedMax))) ∧
  (∀ (i : DeriveInputs) (e : AxleEntry) (r : Rail),
    let w := deriveWheel i e r
    let loads := [w.load, w.impact, w.excess, w.ratio]
    let heats := [w.temp, w.rise, w.trainExcess]
    (e.state = .retracted → ∀ m ∈ loads ++ heats, m = .unmeasured .retracted) ∧
    (e.state = .present → inLoadBand i.latched e = false → ∀ m ∈ loads, m = .unmeasured .outOfBand) ∧
    (e.state = .present → inHeatBand i.latched e = false → ∀ m ∈ heats, m = .unmeasured .outOfBand) ∧
    (e.state = .present → inHeatBand i.latched e = true → i.ambient = none → w.rise = .unmeasured .noAmbient) ∧
    (e.state = .present → inHeatBand i.latched e = true → ∀ a x, i.ambient = some a → w.temp = .value x →
      w.rise = .value (x - a)) ∧
    (e.state = .present → inLoadBand i.latched e = true →
      let values : List (BayValue × Bool) := (List.finRange 4).map (fun k =>
        (match r with | .one => e.bays[k].rail1 | .two => e.bays[k].rail2, i.suspect.getLsbD k.val))
      let means : List Nat := values.filterMap (fun p =>
        match p with
        | (.forces _ m .good, false) => some m
        | _ => none)
      let peaks : List Nat := values.filterMap (fun p =>
        match p.1 with
        | .forces k _ .good => some k
        | .forces k _ .noisy => some k
        | .forces k _ .clipped => some k
        | _ => none)
      w.load = wheelLoad means (i.latched.nat .minGoodBays) ∧
        (∀ x, x ∈ peaks → (∀ y ∈ peaks, y ≤ x) → w.impact = .value x) ∧
        (peaks = [] → (∀ p ∈ values, p.1 = .unmeasured .notFitted) → w.impact = .unmeasured .notFitted) ∧
        (peaks = [] → ¬(∀ p ∈ values, p.1 = .unmeasured .notFitted) → w.impact = .unmeasured .missing) ∧
        w.excess = impactExcess w.impact w.load ∧ w.ratio = impactRatio w.impact w.load) ∧
    (e.state = .present → inHeatBand i.latched e = true →
      let b := match r with | .one => e.bearings[0] | .two => e.bearings[1]
      let mean := match r with | .one => i.mean1 | .two => i.mean2
      (∀ x q, b = .temp x q → q = .good ∨ q = .noisy → w.temp = .value x) ∧
        (∀ x q, b = .temp x q → q = .clipped ∨ q = .failed → w.temp = .unmeasured .missing) ∧
        (b = .failed → w.temp = .unmeasured .missing) ∧ (b = .unmeasured .notFitted → w.temp = .unmeasured .notFitted) ∧
        (∀ q, b = .unmeasured q → q ≠ .notFitted → w.temp = .unmeasured .missing) ∧
        (∀ q, w.temp = .unmeasured q → w.trainExcess = .unmeasured q) ∧
        (∀ x, w.temp = .value x → mean = none → w.trainExcess = .unmeasured .tooFew) ∧
        (∀ x m, w.temp = .value x → mean = some m → w.trainExcess = .value (x - m)) ∧
        (∀ q, i.ambient.isSome = true → w.temp = .unmeasured q → w.rise = .unmeasured q))) ∧
  (∀ (i : DeriveInputs) (e : AxleEntry),
    let a := deriveAxle i e
    a.wheel1 = deriveWheel i e .one ∧ a.wheel2 = deriveWheel i e .two ∧ a.load = axleLoad a.wheel1.load a.wheel2.load ∧
      a.sideSplit = axleSideSplit a.wheel1.load a.wheel2.load ∧ a.cross = bearingCross i.latched e ∧
      a.trainExcess = axleTrainExcess a.wheel1.trainExcess a.wheel2.trainExcess) ∧
  (∀ (m n : Measure) (a b : Int) (q r : Reason),
    (a + b = 0 → axleSideSplit (.value a) (.value b) = .value 0) ∧
    (∀ x d : Int, 0 < a + b → d = (if a ≤ b then b - a else a - b) →
      (2 * x - 1) * (a + b) ≤ 2000 * d → 2000 * d < (2 * x + 1) * (a + b) → axleSideSplit (.value a) (.value b) = .value x) ∧
    (axleLoad m n = .unmeasured q → axleSideSplit m n = .unmeasured q) ∧
    axleTrainExcess (.value a) (.value b) = .value (if a ≤ b then b else a) ∧
    axleTrainExcess (.value a) (.unmeasured q) = .value a ∧ axleTrainExcess (.unmeasured q) (.value a) = .value a ∧
    axleTrainExcess (.unmeasured q) (.unmeasured r) = .unmeasured q) ∧
  (∀ (means : List Nat) (k : Nat), 0 < k →
    (means.length < k → wheelLoad means k = .unmeasured .tooFew) ∧
    (k ≤ means.length → ∀ x : Int,
      (2 * x - 1) * means.length ≤ 2 * ((means.sum : Nat) : Int) → 2 * ((means.sum : Nat) : Int) < (2 * x + 1) * means.length →
        wheelLoad means k = .value x)) ∧
  (∀ a b : Int,
    impactExcess (.value a) (.value b) = .value (max 0 (a - b)) ∧
    impactRatio (.value a) (.value 0) = .value (if 0 < a then 10000 else 0) ∧
    (∀ x : Int, 0 < b → (2 * x - 1) * b ≤ 2000 * a → 2000 * a < (2 * x + 1) * b →
      impactRatio (.value a) (.value b) = .value (min 10000 x)) ∧
    axleLoad (.value a) (.value b) = .value (a + b)) ∧
  (∀ (q r : Reason) (a : Int),
    impactExcess (.unmeasured q) (.value a) = .unmeasured q ∧ impactExcess (.unmeasured q) (.unmeasured r) = .unmeasured q ∧
      impactExcess (.value a) (.unmeasured r) = .unmeasured r ∧ impactRatio (.unmeasured q) (.value a) = .unmeasured q ∧
      impactRatio (.unmeasured q) (.unmeasured r) = .unmeasured q ∧ impactRatio (.value a) (.unmeasured r) = .unmeasured r ∧
      axleLoad (.unmeasured q) (.unmeasured r) = .unmeasured q ∧ axleLoad (.unmeasured q) (.value a) = .unmeasured q ∧
      axleLoad (.value a) (.unmeasured r) = .unmeasured r) ∧
  (∀ (b : SettingsBlock) (e : AxleEntry) (x y : Int) (q : Reason),
    (bearingTemp b e .one = .value x → bearingTemp b e .two = .value y →
      bearingCross b e = .value (if x ≤ y then y - x else x - y)) ∧
    (bearingTemp b e .one = .unmeasured q → bearingCross b e = .unmeasured q) ∧
    (bearingTemp b e .one = .value x → bearingTemp b e .two = .unmeasured q → bearingCross b e = .unmeasured q) ∧
    (e.state = .retracted → bearingCross b e = .unmeasured .retracted) ∧
    (e.state = .present → inHeatBand b e = false → bearingCross b e = .unmeasured .outOfBand))

/-- Quantities of the vehicles and the train: the vehicle load (R104), end split (R105) and side split (R106), which carry the
reason of an unmeasured vehicle load whatever the loads of its axles and wheels, the train load (R107) and speed (R108), the train
means of the two rails (R120), and which items each is formed over. -/
def Obligations.VehicleAndTrainQuantities : Prop :=
  let nearest (x part whole : Int) : Prop := (2 * x - 1) * whole ≤ 2 * part ∧ 2 * part < (2 * x + 1) * whole
  let sum (xs : List Int) : Int := xs.foldr (· + ·) 0
  let present (e : AxleEntry) : Prop := e.state = .present
  (∀ (run : List AxleEntry) (loads : List Measure) (xs : List Int),
    ((∃ e ∈ run, ¬present e) → vehicleLoad run loads = .unmeasured .partialItem) ∧
    ((∀ e ∈ run, present e) → (∃ q, .unmeasured q ∈ loads) → vehicleLoad run loads = .unmeasured .tooFew) ∧
    ((∀ e ∈ run, present e) → loads = xs.map .value → vehicleLoad run loads = .value (sum xs))) ∧
  (∀ (q : Reason) (loads loads1 loads2 : List Measure),
    vehicleEndSplit (.unmeasured q) loads = .unmeasured q ∧ vehicleSideSplit (.unmeasured q) loads1 loads2 = .unmeasured q) ∧
  (∀ (w : Int) (xs ys zs : List Int),
    let half := xs.length / 2
    let front := sum (xs.take half)
    let rear := sum (xs.drop (xs.length - half))
    let apart (a b : Int) : Int := if a ≤ b then b - a else a - b
    vehicleEndSplit (.value 0) (xs.map .value) = .value 0 ∧
    vehicleSideSplit (.value 0) (ys.map .value) (zs.map .value) = .value 0 ∧
    (∀ x, 0 < w → nearest x (1000 * apart front rear) w → vehicleEndSplit (.value w) (xs.map .value) = .value x) ∧
    (∀ x, 0 < w → nearest x (1000 * apart (sum ys) (sum zs)) w →
      vehicleSideSplit (.value w) (ys.map .value) (zs.map .value) = .value x)) ∧
  (∀ (net : Nat) (entries : List AxleEntry) (loads : List Measure) (xs : List Int),
    (entries.length < net → trainLoad net entries loads = .unmeasured .partialItem) ∧
    (net ≤ entries.length → loads = [] → entries ≠ [] → trainLoad net entries loads = .unmeasured .retracted) ∧
    (net ≤ entries.length → loads = [] → entries = [] → trainLoad net entries loads = .unmeasured .missing) ∧
    (∀ q rest, net ≤ entries.length → loads = xs.map .value ++ .unmeasured q :: rest →
      trainLoad net entries loads = .unmeasured q) ∧
    (net ≤ entries.length → loads ≠ [] → loads = xs.map .value → trainLoad net entries loads = .value (sum xs))) ∧
  (∀ (entries : List AxleEntry) (e : AxleEntry) (v : Nat), e ∈ entries → present e → e.speed = some v →
    (∀ f ∈ entries, present f → ∀ x, f.speed = some x → x ≤ v) → trainSpeed entries = .value v) ∧
  (∀ entries : List AxleEntry, (∀ e ∈ entries, present e → e.speed = none) → trainSpeed entries = .unmeasured .missing) ∧
  (∀ (b : SettingsBlock) (entries : List AxleEntry) (r : Rail) (xs : List Int),
    xs = entries.filterMap (fun e => match bearingTemp b e r with | .value x => some x | .unmeasured _ => none) →
    (xs.length < b.nat .trainMeanMin → trainMean b entries r = none) ∧
    (∀ x, b.nat .trainMeanMin ≤ xs.length → 0 < xs.length → nearest x (sum xs) xs.length → trainMean b entries r = some x)) ∧
  ∀ (b : SettingsBlock) (suspect : BitVec 8) (ambient : Option Int) (u : RosterUnit),
    let q := derive b suspect ambient u
    let i : DeriveInputs := { latched := b, suspect := suspect, ambient := ambient, mean1 := q.mean1, mean2 := q.mean2 }
    let run {α : Type} (v : Vehicle) (xs : List α) : List α := (xs.drop (v.firstOrdinal - 1)).take v.axleCount
    q.mean1 = trainMean b u.entries .one ∧ q.mean2 = trainMean b u.entries .two ∧ q.axles = u.entries.map (deriveAxle i) ∧
      q.vehicles = u.vehicles.map (fun v =>
        let axles := run v q.axles
        let load := vehicleLoad (run v u.entries) (axles.map AxleQuantities.load)
        { load := load, endSplit := vehicleEndSplit load (axles.map AxleQuantities.load)
          sideSplit := vehicleSideSplit load (axles.map (fun a => a.wheel1.load)) (axles.map (fun a => a.wheel2.load)) }) ∧
      q.trainLoad = trainLoad u.net u.entries (((u.vehicles.zip q.vehicles).filter
        (fun p => (run p.1 u.entries).any (fun e => e.state == .present))).map (fun p => p.2.load)) ∧
      q.trainSpeed = trainSpeed u.entries

/-! ### The train table -/

/-- TRAIN_LIST answers the four slots; TRAIN_READ answers by part, range, serial and record state, and the first SUMMARY of a
CLOSED record marks it read (R152 to R156). The codings left open are the model's choice: log 18, log 19, log 20 (the state byte
of SUMMARY), log 21, and log 47, the places of holder and lease in the SUMMARY of an OPEN record; the rounding of a lease in
SUMMARY: log 51; the kind byte of a WATCHED_VEHICLE finding is a free value (log 17). -/
def Obligations.TrainReads : Prop :=
  ∀ (s : State) (p : Port) (tag : Byte) (body : List Byte),
    let t := s.site
    let n := BitVec.ofNat 32 (natAt body 0 4)
    let part := natAt body 4 1
    let first := natAt body 5 2
    let count := natAt body 7 1
    let bad := 2 < part ∨ (part = 1 ∧ (first < 1 ∨ 256 < first ∨ count < 1 ∨ 32 < count)) ∨
      (part = 2 ∧ (first < 1 ∨ 96 < first ∨ count < 1 ∨ 24 < count))
    let slot (x : Option TrainRecord) : List Byte :=
      match x with
      | none => leBytes 1 0
      | some r =>
        leBytes 1 (slotStateCode (some r.phase)) ++ leBytes 4 r.serial.toNat ++
          optNat 1 (if r.phase = .closed then r.verdict.map (fun v => v.grade.code) else none) ++ yesNo r.readMark ++
          optNat 1 (if r.phase = .closed then r.verdict.map Verdict.deferred else none) ++
          leBytes 1 (match r.hold with | none => 0 | some h => h.port.code + 1) ++ optNat 2 (r.hold.map t.leaseLeft)
    let holder (h : Option Hold) : List Byte :=
      leBytes 1 (match h with | none => 0 | some h => h.port.code + 1) ++ optNat 2 (h.map t.leaseLeft)
    let tally := t.passage.tally
    let shown (x : Nat) : Option Nat := if tally.count = 0 then none else some x
    let top (r : TrainRecord) : List Byte :=
      leBytes 4 r.serial.toNat ++ leBytes 1 (slotStateCode (some r.phase)) ++ leBytes 1 r.direction.code ++
        dateTimeField r.opened
    let closed (r : TrainRecord) (f : CloseFigures) (v : Verdict) : List Byte :=
      top r ++ optField 8 (some (dateTimeField f.closed)) ++ optNat 1 (some f.outcome.code) ++ leBytes 2 f.net ++
        optNat 2 (some v.rosterLength) ++ optNat 2 (some v.retracted) ++ optNat 2 (some v.vehicleCount) ++
        optNat 2 f.speedMin ++ optNat 2 f.speedMax ++ optNat 2 f.speedMean ++
        optField 5 (some (measureField 4 v.trainLoad)) ++ optInt 2 v.mean1 ++ optInt 2 v.mean2 ++ optInt 2 f.ambient ++
        optNat 1 (some v.grade.code) ++ leBytes 4 r.causes.toNat ++ optNat 1 (some v.findings.length) ++
        optNat 2 (some v.overflow) ++ optNat 1 (some v.deferred) ++ yesNo r.readMark ++ holder r.hold ++
        leBytes 2 r.generation.toNat
    let opened (r : TrainRecord) : List Byte :=
      top r ++ optField 8 none ++ optNat 1 none ++ leBytes 2 t.gateNet ++ optNat 2 none ++ optNat 2 none ++ optNat 2 none ++
        optNat 2 (shown tally.least) ++ optNat 2 (shown tally.greatest) ++ optNat 2 (shown (tally.sum / tally.count)) ++
        optField 5 none ++ optInt 2 none ++ optInt 2 none ++ optInt 2 none ++ optNat 1 none ++ leBytes 4 r.causes.toNat ++
        optNat 1 none ++ optNat 2 none ++ optNat 1 none ++ yesNo r.readMark ++ holder r.hold ++ leBytes 2 r.generation.toNat
    let vehicle (c : VehicleCopy) : List Byte :=
      leBytes 2 c.position ++ leBytes 2 c.firstOrdinal ++ leBytes 2 c.axleCount ++
        optField 8 (c.tagCode.map (fun x => leBytes 8 x.toNat)) ++ leBytes 1 c.tagState.code ++ leBytes 1 c.orientation.code ++
        measureField 4 c.load ++ leBytes 1 c.worst.code ++ leBytes 1 ((c.highest.map WatchLevel.code).getD 3)
    let vehicles (r : TrainRecord) (v : Verdict) : List Byte :=
      let items := (v.vehicles.drop (first - 1)).take count
      leBytes 4 r.serial.toNat ++ leBytes 2 v.vehicleCount ++ leBytes 1 items.length ++ items.flatMap vehicle
    let finding (f : Finding) : List Byte :=
      leBytes 1 f.number ++ (match f.kind with | .criterion n => leBytes 1 (n.val + 1) | .watchedVehicle => [Config.watchedVehicleCode]) ++
        optNat 2 f.vehicle ++ optNat 2 f.ordinal ++ optNat 1 (f.rail.map Rail.number) ++ optNat 1 (f.side.map Side.code) ++
        optField 3 (f.index.map (fun i => leBytes 2 i.index ++ leBytes 1 i.basis.code)) ++
        optField 5 (f.measure.map (measureField 4)) ++ leBytes 1 f.threshold.code ++ leBytes 1 f.grade.code ++
        leBytes 1 f.state.code ++ optNat 1 (f.resolvedGrade.map Grade.code)
    let findings (r : TrainRecord) (v : Verdict) : List Byte :=
      let items := (v.findings.drop (first - 1)).take count
      leBytes 4 r.serial.toNat ++ leBytes 1 v.findings.length ++ leBytes 2 v.overflow ++ leBytes 1 v.deferred ++
        leBytes 1 v.grade.code ++ leBytes 1 items.length ++ items.flatMap finding
    let gives (b : List Byte) (r : Site) : Prop := exec (.trainRead p tag body) s = .next (s.granted p tag .trainRead b r)
    let refuses (x : Status) : Prop := exec (.trainRead p tag body) s = .next (s.refused p tag .trainRead x)
    (s.Takes p .trainList body →
      exec (.trainList p tag body) s = .next (s.granted p tag .trainList (t.train.toList.flatMap slot) t)) ∧
    (s.Takes p .trainRead body →
      (bad → refuses .badValue) ∧
      (¬bad → t.findRecord n = none → refuses .notFound) ∧
      (¬bad → ∀ i r, t.findRecord n = some i → t.recordAt i = some r →
        (r.phase = .closing → refuses .notReady) ∧
        (r.phase = .opened → part = 0 → gives (opened r) (t.putRecord i (some r))) ∧
        (r.phase = .closed → part = 0 → ∃ body,
          gives body (t.putRecord i (some { r with readMark := true })) ∧
            ∀ f v, r.close = some f → r.verdict = some v → body = closed { r with readMark := true } f v) ∧
        (r.phase = .opened → part ≠ 0 → refuses .notReady) ∧
        (∀ v, r.phase = .closed → r.verdict = some v → part = 1 → gives (vehicles r v) t) ∧
        (∀ v, r.phase = .closed → r.verdict = some v → part = 2 → gives (findings r v) t))) ∧
    (t.findRecord n = none ↔ ∀ i r, t.recordAt i = some r → r.serial ≠ n) ∧
    (∀ i, t.findRecord n = some i → ∃ r, t.recordAt i = some r ∧ r.serial = n)

/-- TRAIN_HOLD, TRAIN_RELEASE and the end of a record's lease, by the record's state and holder and the port's hold count
(R157 to R159). An expiry that is not due has no effect: log 10. -/
def Obligations.TrainHolds : Prop :=
  ∀ (s : State) (p : Port) (tag : Byte) (body : List Byte),
    let t := s.site
    let n := BitVec.ofNat 32 (natAt body 0 4)
    let lease := t.setting .holdLease
    let hold : Hold := { port := p, expiry := t.now + 10000 * lease }
    let held (i : Fin 4) (r : TrainRecord) (u : Site) : State :=
      s.granted p tag .trainHold (leBytes 2 lease) (u.putRecord i (some { r with hold := some hold }))
    (s.Takes p .trainHold body →
      let refuses (x : Status) : Prop := exec (.trainHold p tag body) s = .next (s.refused p tag .trainHold x)
      (t.findRecord n = none → refuses .notFound) ∧
      (∀ i r, t.findRecord n = some i → t.recordAt i = some r →
        (r.phase ≠ .closed → refuses .notClosed) ∧
        (∀ h, r.phase = .closed → r.hold = some h → h.port ≠ p → refuses .heldByOther) ∧
        (∀ h, r.phase = .closed → r.hold = some h → h.port = p → exec (.trainHold p tag body) s = .next (held i r t)) ∧
        (r.phase = .closed → r.hold = none → 4 ≤ t.holds.get p → refuses .holdLimit) ∧
        (r.phase = .closed → r.hold = none → t.holds.get p < 4 →
          exec (.trainHold p tag body) s = .next (held i r (t.setHolds (t.holds.inc p)))))) ∧
    (s.Takes p .trainRelease body →
      let refuses (x : Status) : Prop := exec (.trainRelease p tag body) s = .next (s.refused p tag .trainRelease x)
      (t.findRecord n = none → refuses .notFound) ∧
      (∀ i r, t.findRecord n = some i → t.recordAt i = some r →
        (r.phase ≠ .closed → refuses .notClosed) ∧
        (r.phase = .closed → (∀ h, r.hold = some h → h.port ≠ p) → refuses .notHeld) ∧
        (∀ h, r.phase = .closed → r.hold = some h → h.port = p →
          exec (.trainRelease p tag body) s = .next (s.granted p tag .trainRelease []
            ((t.putRecord i (some { r with hold := none })).setHolds (t.holds.dec p)))))) ∧
    (s.Running → ∀ i : Fin 4,
      (∀ r h, t.recordAt i = some r → r.hold = some h → h.expiry ≤ t.now →
        exec (.trainLeaseExpiry i) s = .next (s.setSite
          (((t.putRecord i (some { r with hold := none })).setHolds (t.holds.dec h.port)).raise .leaseExpired))) ∧
      ((∀ r h, t.recordAt i = some r → r.hold = some h → t.now < h.expiry) → exec (.trainLeaseExpiry i) s = .next s))

/-- TRAIN_RESOLVE settles a DEFERRED finding of a CLOSED record, takes the record's grade and the worst grade of the finding's
vehicle again, and sends a RESOLUTION contribution for a finding that a watch key names (R160 to R162); TRAIN_RETIRE frees the
slot, its deferred findings abandoned (R163). -/
def Obligations.TrainSettling : Prop :=
  ∀ (s : State) (p : Port) (tag : Byte) (body : List Byte),
    let t := s.site
    let n := BitVec.ofNat 32 (natAt body 0 4)
    (s.Takes p .trainResolve body →
      let k := natAt body 4 1
      let refuses (x : Status) : Prop := exec (.trainResolve p tag body) s = .next (s.refused p tag .trainResolve x)
      let bad := k < 1 ∨ 96 < k ∨ 4 < natAt body 5 1
      (bad → refuses .badValue) ∧
      (¬bad → t.findRecord n = none → refuses .notFound) ∧
      (¬bad → ∀ i r, t.findRecord n = some i → t.recordAt i = some r →
        (r.phase ≠ .closed → refuses .notClosed) ∧
        (∀ h, r.phase = .closed → r.hold = some h → h.port ≠ p → refuses .heldByOther) ∧
        (∀ v, r.phase = .closed → (∀ h, r.hold = some h → h.port = p) → r.verdict = some v →
          (v.findings.length < k → refuses .notFound) ∧
          (∀ f, v.findings[k - 1]? = some f → f.state ≠ .deferred → refuses .wrongState) ∧
          (∀ f g, v.findings[k - 1]? = some f → f.state = .deferred → g.code = natAt body 5 1 →
            let w := v.resolve f.number g
            let t1 := t.putRecord i (some { r with verdict := some w })
            let rises := v.grade.code < 3 ∧ 3 ≤ w.grade.code
            let t2 := if rises then t1.raise .gradeAlarm else t1
            let t3 := match v.keyOf f with | some key => t2.contribute (.resolution key g) | none => t2
            exec (.trainResolve p tag body) s = .next (s.granted p tag .trainResolve
              (leBytes 1 w.grade.code ++ leBytes 1 w.deferred ++ yesNo (v.keyOf f).isSome) t3))))) ∧
    (s.Takes p .trainRetire body →
      let refuses (x : Status) : Prop := exec (.trainRetire p tag body) s = .next (s.refused p tag .trainRetire x)
      (t.findRecord n = none → refuses .notFound) ∧
      (∀ i r, t.findRecord n = some i → t.recordAt i = some r →
        (r.phase ≠ .closed → refuses .notClosed) ∧
        (∀ h, r.phase = .closed → r.hold = some h → h.port ≠ p → refuses .heldByOther) ∧
        (r.phase = .closed → (∀ h, r.hold = some h → h.port = p) →
          exec (.trainRetire p tag body) s = .next (s.granted p tag .trainRetire []
            (((t.setHolds (if r.hold.isSome then t.holds.dec p else t.holds)).setCounts
              { t.counts with deferredAbandoned := bumpBy r.deferred t.counts.deferredAbandoned }).putRecord i none))))) ∧
    (∀ (v : Verdict) (k : Nat) (g : Grade),
      let w := v.resolve k g
      w.findings = v.findings.map (fun f => if f.number = k then { f with state := .resolved, resolvedGrade := some g } else f) ∧
        w.grade = worstGrade w.findings ∧ w.deferred = w.findings.countP (fun f => f.state == .deferred) ∧
        w.overflow = v.overflow ∧ w.trainLoad = v.trainLoad ∧
        (∀ (i : Nat) (c : VehicleCopy), v.vehicles[i]? = some c →
          let named := ∃ f ∈ v.findings, f.number = k ∧ f.vehicle = some c.position
          (named → w.vehicles[i]? =
            some { c with worst := worstGrade (w.findings.filter (fun f => f.vehicle == some c.position)) }) ∧
          (¬named → w.vehicles[i]? = some c))) ∧
    (∀ (v : Verdict) (f : Finding),
      let criterion := ∃ n, f.kind = .criterion n
      let keyed (c : VehicleCopy) (x : TagCode) : Prop :=
        v.vehicles.find? (fun c => some c.position == f.vehicle) = some c ∧ f.vehicle.isSome = true ∧
          (c.tagState = .single ∨ c.tagState = .confirmed) ∧ c.tagCode = some x
      (∀ c x i, criterion → keyed c x → f.ordinal.isSome = true → f.index = some { index := i, basis := .fromEnd1 } →
        v.keyOf f = some { tag := x, index := i }) ∧
      (∀ c x i, criterion → keyed c x → f.ordinal.isSome = true → f.index = some { index := i, basis := .fromLeading } →
        v.keyOf f = none) ∧
      (∀ c x, criterion → keyed c x → f.ordinal = none → v.keyOf f = some { tag := x, index := 0 }) ∧
      (f.vehicle = none ∨ (∀ c, v.vehicles.find? (fun c => some c.position == f.vehicle) = some c →
        c.tagState = .untagged ∨ c.tagState = .conflict) ∨ ¬criterion → v.keyOf f = none))


/-! ### The watch table -/

/-- WATCH_FIND answers the entry of a key in full, or every entry of a tag code in short; WATCH_SCAN answers the entries at or
above a level from a slot on, with the next slot (R180 to R182). Neither changes anything. The codings left open are the model's
choice: log 18, and log 48, the note without a presence byte; that a lease remaining is rounded up: log 51. -/
def Obligations.WatchReads : Prop :=
  ∀ (s : State) (p : Port) (tag : Byte) (body : List Byte),
    let t := s.site
    let code : TagCode := BitVec.ofNat 64 (natAt body 0 8)
    let index := natAt body 8 1
    let key (i : Nat) : WatchKey := { tag := code, index := i }
    let count1 (n : Nat) : List Byte := leBytes 1 n
    let place (i : Fin 512) (e : WatchEntry) : List Byte :=
      leBytes 2 i.val ++ leBytes 8 e.key.tag.toNat ++ leBytes 1 e.key.index ++ leBytes 1 e.origin.code ++ leBytes 1 e.level.code ++
        optNat 1 (e.floor.map WatchLevel.code)
    let values (xs : List Int) : List Byte := count1 xs.length ++ xs.flatMap (leIntBytes 2)
    let full (i : Fin 512) (e : WatchEntry) : List Byte :=
      place i e ++ values e.rise1 ++ values e.rise2 ++ values e.excess1 ++ values e.excess2 ++ leBytes 2 e.passages.toNat ++
        leBytes 2 e.exceedances.toNat ++ leBytes 1 e.cleanRun ++ optField 4 (e.lastSerial.map (fun n => leBytes 4 n.toNat)) ++
        optField 4 (e.lastDate.map (fun d => leBytes 2 d.year ++ leBytes 1 d.month ++ leBytes 1 d.day)) ++ leBytes 2 e.unseen ++
        yesNo e.stale ++ leBytes 2 e.sweepStamp.toNat ++ leBytes 2 e.revision.toNat ++ count1 e.note.length ++ e.note ++
        optField 3 (e.hold.map (fun h => leBytes 1 h.port.code ++ leBytes 2 ((h.expiry - t.now + 9999) / 10000))) ++
        count1 e.pending.length
    let brief (i : Fin 512) (e : WatchEntry) : List Byte :=
      place i e ++ leBytes 2 e.revision.toNat ++ yesNo e.stale ++ optNat 1 (e.hold.map (fun h => h.port.code)) ++
        leBytes 2 e.passages.toNat ++ leBytes 2 e.exceedances.toNat ++ leBytes 1 e.cleanRun ++ leBytes 2 e.unseen ++
        count1 e.pending.length
    let short (i : Nat) : Option (List Byte) :=
      (t.findKey (key i)).bind (fun n => (t.watchEntry n).map (fun e => brief n e))
    let all := (List.range 13).filterMap short
    (s.Takes p .watchFind body →
      let refuses (x : Status) : Prop := exec (.watchFind p tag body) s = .next (s.refused p tag .watchFind x)
      let gives (b : List Byte) : Prop := exec (.watchFind p tag body) s = .next (s.granted p tag .watchFind b t)
      (12 < index → index ≠ 255 → refuses .badValue) ∧
      (index ≤ 12 → (∀ i e, t.watchEntry i = some e → e.key ≠ key index) → refuses .notFound) ∧
      (∀ i e, index ≤ 12 → t.KeyAt (key index) i e → gives (full i e)) ∧
      (index = 255 → all = [] → refuses .notFound) ∧
      (index = 255 → all ≠ [] → gives (leBytes 1 all.length ++ all.flatten))) ∧
    (s.Takes p .watchScan body →
      let first := natAt body 0 2
      let count := natAt body 2 1
      let refuses (x : Status) : Prop := exec (.watchScan p tag body) s = .next (s.refused p tag .watchScan x)
      (511 < first ∨ count < 1 ∨ 8 < count ∨ 2 < natAt body 3 1 → refuses .badValue) ∧
      (∀ l : WatchLevel, first ≤ 511 → 1 ≤ count → count ≤ 8 → l.code = natAt body 3 1 →
        let found (n : Nat) : List (Fin 512) :=
          ((List.finRange 512).drop first).filter (fun i =>
            decide (i.val < n) && (t.watchEntry i).any (fun e => decide (l.code ≤ e.level.code)))
        ∃ next : Nat, (next = 512 ∧ (found 512).length < count ∨
            first < next ∧ next ≤ 512 ∧ (found next).length = count ∧ (found (next - 1)).length < count) ∧
          exec (.watchScan p tag body) s = .next (s.granted p tag .watchScan
            (leBytes 2 (t.watch.slots.toList.countP (fun w => w.entry.isNone)) ++ leBytes 2 t.watch.sweepSerial.toNat ++
              leBytes 1 t.watch.sweepState.code ++ leBytes 2 t.watch.cursor ++ yesNo t.watch.startPending ++
              leBytes 1 (found next).length ++
              (found next).flatMap (fun i => match t.watchEntry i with | some e => full i e | none => []) ++
              leBytes 2 next) t))) ∧
    (∀ i e, t.fullForm i e = full i e) ∧
    (∀ k i, t.findKey k = some i → ∃ e, t.watchEntry i = some e ∧ e.key = k)

/-- WATCH_ENROL makes an entry in the lowest FREE slot; WATCH_AMEND changes an entry whose revision is the one expected;
WATCH_RETIRE frees its slot, its pending contributions discarded and counted (R183 to R185). Each refuses in the order of its
table. The body of WATCH_AMEND is read as R184 lays it out: a field of a change not named is not looked at. A note's length byte
that differs from the bytes that follow it is BAD_VALUE: the model's choice, log 23; a bit of the change set that names no change
likewise, log 24. -/
def Obligations.WatchEdits : Prop :=
  ∀ (s : State) (p : Port) (tag : Byte) (body : List Byte),
    let t := s.site
    (s.Takes p .watchEnrol body →
      let k : WatchKey := { tag := BitVec.ofNat 64 (natAt body 0 8), index := natAt body 8 1 }
      let size := natAt body 10 1
      let bad := 12 < k.index ∨ 2 < natAt body 9 1 ∨ 16 < size ∨ body.length ≠ 11 + size
      let entry (l : WatchLevel) : WatchEntry :=
        { key := k, origin := .enrolled, level := l, floor := some l, rise1 := [], rise2 := [], excess1 := [], excess2 := [],
          passages := 0#16, exceedances := 0#16, cleanRun := 0, lastSerial := none, lastDate := none, unseen := 0, stale := false,
          sweepStamp := t.watch.sweepSerial, revision := 0#16, note := body.drop 11, hold := none, pending := [] }
      (bad → exec (.watchEnrol p tag body) s = .next (s.refused p tag .watchEnrol .badValue)) ∧
      (¬bad → ∀ i e, t.KeyAt k i e → exec (.watchEnrol p tag body) s =
        .next (s.after p tag .watchEnrol .exists (leBytes 2 i.val ++ leBytes 2 e.revision.toNat) t)) ∧
      (¬bad → t.findKey k = none → t.lowestFree = none →
        exec (.watchEnrol p tag body) s = .next (s.refused p tag .watchEnrol .full)) ∧
      (¬bad → t.findKey k = none → ∀ i l, t.lowestFree = some i → l.code = natAt body 9 1 →
        exec (.watchEnrol p tag body) s = .next (s.granted p tag .watchEnrol (leBytes 2 i.val ++ leBytes 2 0)
          ((t.putWatchSlot i { t.watchSlot i with entry := some (entry l) }).enqueue (.slot i))))) ∧
    (∀ (c : Instr) (k : RequestKind), (c = .watchAmend p tag body ∧ k = .watchAmend ∧ (readAmendment body).isSome = true) ∨
        (c = .watchRetire p tag body ∧ k = .watchRetire) → s.Takes p k body →
      let n := natAt body 0 2
      (511 < n → exec c s = .next (s.refused p tag k .badValue)) ∧
      (∀ i : Fin 512, i.val = n →
        ((t.watchSlot i).notice p = true → exec c s =
          .next (s.after p tag k .notHeld [] (t.putWatchSlot i ((t.watchSlot i).setNotice p false)))) ∧
        ((t.watchSlot i).notice p = false → t.watchEntry i = none → exec c s = .next (s.refused p tag k .notFound)) ∧
        (∀ e h, (t.watchSlot i).notice p = false → t.watchEntry i = some e → e.hold = some h → h.port ≠ p →
          exec c s = .next (s.refused p tag k .heldByOther)) ∧
        (∀ e, (t.watchSlot i).notice p = false → t.watchEntry i = some e → (∀ h, e.hold = some h → h.port = p) →
          e.revision ≠ BitVec.ofNat 16 (natAt body 2 2) →
            exec c s = .next (s.after p tag k .stale (t.fullForm i e) t)))) ∧
    (let set := natAt body 4 1
     let names (k : Nat) : Prop := set / 2 ^ k % 2 = 1
     let size := natAt body 7 1
     let bad := set = 0 ∨ 16 ≤ set ∨ (names 0 ∧ 2 < natAt body 5 1) ∨ (names 1 ∧ 2 < natAt body 6 1) ∨
       (names 2 ∧ (16 < size ∨ body.length ≠ 8 + size))
     (bad ↔ readAmendment body = none) ∧
      (∀ a, readAmendment body = some a →
        (a.level.isSome = true ↔ names 0) ∧ (∀ l, a.level = some l → l.code = natAt body 5 1) ∧
        (a.floor.isSome = true ↔ names 1) ∧ (∀ l, a.floor = some l → l.code = natAt body 6 1) ∧
        (a.note.isSome = true ↔ names 2) ∧ (∀ x, a.note = some x → x = body.drop 8) ∧ (a.clear = true ↔ names 3)) ∧
      (s.Takes p .watchAmend body → bad →
        exec (.watchAmend p tag body) s = .next (s.refused p tag .watchAmend .badValue))) ∧
    (∀ (i : Fin 512) (e : WatchEntry) (a : Amendment), s.Takes p .watchAmend body → i.val = natAt body 0 2 →
      readAmendment body = some a → (t.watchSlot i).notice p = false → t.watchEntry i = some e →
      (∀ h, e.hold = some h → h.port = p) → e.revision = BitVec.ofNat 16 (natAt body 2 2) →
        let raised := e.origin = .raised
        let level := a.level.getD e.level
        let floor : Option WatchLevel := if raised then a.level else a.floor.or e.floor
        let tooHigh := ∃ f, floor = some f ∧ level.code < f.code
        let counts (x : WatchEntry) : WatchEntry :=
          if a.clear then
            { x with passages := 0#16, exceedances := 0#16, cleanRun := 0, unseen := 0, rise1 := [], rise2 := [], excess1 := [],
                     excess2 := [], stale := false }
          else x
        let e1 : WatchEntry :=
          { e with
            level := level, floor := floor, origin := if a.level.isSome then .enrolled else e.origin
            cleanRun := if a.level.isSome then 0 else e.cleanRun, note := a.note.getD e.note }
        let e2 : WatchEntry := { counts e1 with revision := e.revision + 1#16 }
        (raised → a.floor.isSome = true →
          exec (.watchAmend p tag body) s = .next (s.refused p tag .watchAmend .wrongState)) ∧
        ((raised → a.floor = none) → tooHigh →
          exec (.watchAmend p tag body) s = .next (s.refused p tag .watchAmend .badValue)) ∧
        ((raised → a.floor = none) → ¬tooHigh →
          exec (.watchAmend p tag body) s = .next (s.granted p tag .watchAmend (leBytes 2 (e.revision + 1#16).toNat)
            ((t.putWatchSlot i { t.watchSlot i with entry := some e2 }).enqueue (.slot i))))) ∧
    (∀ (i : Fin 512) (e : WatchEntry), s.Takes p .watchRetire body → i.val = natAt body 0 2 → (t.watchSlot i).notice p = false →
      t.watchEntry i = some e → (∀ h, e.hold = some h → h.port = p) → e.revision = BitVec.ofNat 16 (natAt body 2 2) →
        ∃ r, exec (.watchRetire p tag body) s = .next (s.granted p tag .watchRetire [] r) ∧
          r.watch = { t.watch with
            slots := t.watch.slots.set i { t.watchSlot i with entry := none, noticeLink := false, noticeService := false } } ∧
          r.counts = { t.counts with contributionsDiscarded := bumpBy e.pending.length t.counts.contributionsDiscarded } ∧
          r.holds = (if e.hold.isSome then t.holds.dec p else t.holds) ∧ r.store = t.store.enqueue (.slot i) ∧
          r.flags = t.flags ∧ r.train = t.train)

/-- WATCH_HOLD, WATCH_RELEASE and the end of a watch lease (R173, R174, R176 to R178): who may hold, the pending contributions
applied in arrival order when the hold ends. The coding of an absent revision is the model's choice, log 22, as is the rounding of
the lease remaining, log 51. An expiry that is not due has no effect: log 10. -/
def Obligations.WatchHolds : Prop :=
  ∀ (s : State) (p : Port) (tag : Byte) (body : List Byte) (i : Fin 512),
    let t := s.site
    let here := i.val = natAt body 0 2
    let lease := t.setting .holdLease
    let hold : Hold := { port := p, expiry := t.now + 10000 * lease }
    let told : Site := t.putWatchSlot i ((t.watchSlot i).setNotice p false)
    let quiet := (t.watchSlot i).notice p = false
    let held (e : WatchEntry) (u : Site) : State :=
      let e1 : WatchEntry := { e with hold := some hold }
      let r := u.putWatchSlot i { u.watchSlot i with entry := some e1 }
      s.granted p tag .watchHold (r.fullForm i e1 ++ leBytes 2 lease) r
    let ended (u : Site) (e : WatchEntry) (h : Hold) : Site :=
      (u.putWatchSlot i { u.watchSlot i with entry := some { e with hold := none, pending := [] } }).setHolds
        (u.holds.dec h.port)
    (s.Takes p .watchHold body →
      let refuses (x : Status) : Prop := exec (.watchHold p tag body) s = .next (s.refused p tag .watchHold x)
      (511 < natAt body 0 2 → refuses .badValue) ∧
      (here → ¬quiet → exec (.watchHold p tag body) s = .next (s.after p tag .watchHold .notHeld [] told)) ∧
      (here → quiet → t.watchEntry i = none → refuses .notFound) ∧
      (∀ e h, here → quiet → t.watchEntry i = some e → e.hold = some h → h.port ≠ p → refuses .heldByOther) ∧
      (∀ e h, here → quiet → t.watchEntry i = some e → e.hold = some h → h.port = p →
        exec (.watchHold p tag body) s = .next (held e t)) ∧
      (∀ e, here → quiet → t.watchEntry i = some e → e.hold = none → 4 ≤ t.holds.get p → refuses .holdLimit) ∧
      (∀ e, here → quiet → t.watchEntry i = some e → e.hold = none → t.holds.get p < 4 →
        exec (.watchHold p tag body) s = .next (held e (t.setHolds (t.holds.inc p))))) ∧
    (s.Takes p .watchRelease body →
      let refuses (x : Status) : Prop := exec (.watchRelease p tag body) s = .next (s.refused p tag .watchRelease x)
      (511 < natAt body 0 2 → refuses .badValue) ∧
      (here → ¬quiet → exec (.watchRelease p tag body) s = .next (s.after p tag .watchRelease .notHeld [] told)) ∧
      (here → quiet → (∀ e h, t.watchEntry i = some e → e.hold = some h → h.port ≠ p) → refuses .notHeld) ∧
      (∀ e h, here → quiet → t.watchEntry i = some e → e.hold = some h → h.port = p →
        let r := Site.applyPending i e.pending true (ended t e h)
        (∀ x, r.2 = true → r.1.watchEntry i = some x → exec (.watchRelease p tag body) s =
          .next (s.granted p tag .watchRelease (1#8 :: leBytes 2 x.revision.toNat) r.1)) ∧
        (r.2 = false → exec (.watchRelease p tag body) s =
          .next (s.granted p tag .watchRelease [0#8, 0#8, 0#8] r.1)))) ∧
    (s.Running →
      (∀ e h, t.watchEntry i = some e → e.hold = some h → h.expiry ≤ t.now → exec (.watchLeaseExpiry i) s =
        .next (s.setSite (Site.applyPending i e.pending true (ended (t.raise .leaseExpired) e h)).1)) ∧
      ((∀ e h, t.watchEntry i = some e → e.hold = some h → t.now < h.expiry) → exec (.watchLeaseExpiry i) s = .next s))

/-- The sweep: SWEEP_NOW starts it, keeps it pending during an open passage, or finds it running (R187, R188); each visit of a
RUNNING sweep takes one slot and moves the cursor, and the last one ends it with SWEEP_DONE (R189). SWEEP_VISIT has no effect
while the sweep is not RUNNING: the model's choice, log 1. The codes of the three outcomes follow the order in which R188 lists
them: log 18. -/
def Obligations.SweepRows : Prop :=
  (∀ (s : State) (p : Port) (tag : Byte) (body : List Byte), s.Takes p .sweepNow body →
    let t := s.site
    let w := t.watch
    let gives (k : Nat) (n : Word16) (r : Site) : Prop :=
      exec (.sweepNow p tag body) s = .next (s.granted p tag .sweepNow (leBytes 1 k ++ leBytes 2 n.toNat) r)
    let started : Site := t.setWatch
      { w with
        sweepSerial := w.sweepSerial + 1#16, sweepState := if t.composition.isSome then .suspended else .running, cursor := 0
        startPending := false }
    (t.clock.isSet = false → exec (.sweepNow p tag body) s = .next (s.refused p tag .sweepNow .wrongState)) ∧
    (t.clock.isSet = true → w.sweepState ≠ .idle → gives 2 w.sweepSerial t) ∧
    (t.clock.isSet = true → w.sweepState = .idle → t.passageOpen = true →
      gives 1 w.sweepSerial (t.setWatch { w with startPending := true })) ∧
    (t.clock.isSet = true → w.sweepState = .idle → t.passageOpen = false → gives 0 (w.sweepSerial + 1#16) started)) ∧
  (∀ (s : State), s.Running →
    let t := s.site
    (t.watch.sweepState ≠ .running → exec .sweepVisit s = .next s) ∧
    (∀ i : Fin 512, t.watch.sweepState = .running → i.val = t.watch.cursor →
      let visited : Site :=
        match t.watchEntry i with
        | none => t
        | some e => if e.sweepStamp = t.watch.sweepSerial then t else t.takeAt i (.sweep t.watch.sweepSerial)
      (i.val < 511 → exec .sweepVisit s =
        .next (s.setSite (visited.setWatch { visited.watch with cursor := visited.watch.cursor + 1 }))) ∧
      (i.val = 511 → exec .sweepVisit s =
        .next (s.setSite ((visited.setWatch { visited.watch with cursor := 0, sweepState := .idle }).raise .sweepDone)))))

/-- A contribution at the watch table: a key without an entry raises one by grade and room in the lowest FREE slot, with the
values of R171 for a new entry, to which the contribution is then applied; an entry that a port holds pends it, and the fifth
breaks the hold (R175, R176); otherwise it is applied to its entry (R167). -/
def Obligations.ContributionsTaken : Prop :=
  (∀ (t : Site) (i : Fin 512), t.lowestFree = some i ↔ t.watchEntry i = none ∧ ∀ j, j < i → t.watchEntry j ≠ none) ∧
  (∀ (t : Site) (k : WatchKey), t.findKey k = none ↔ ∀ i e, t.watchEntry i = some e → e.key ≠ k) ∧
  (∀ t : Site, t.freeCount = ((List.finRange 512).filter (fun i => (t.watchEntry i).isNone)).length) ∧
  (∀ (t : Site) (k : WatchKey) (g : Grade) (c : Contribution),
    (∃ n d f v, c = .passage k n d g f v) ∨ c = .resolution k g →
      let r := t.contribute c
      let refusal : Site := (t.setCounts { t.counts with raisesRefused := bump t.counts.raisesRefused }).raise .watchFull
      let fresh : WatchEntry :=
        { key := k, origin := .raised, level := .observe, floor := none, rise1 := [], rise2 := [], excess1 := [], excess2 := []
          passages := 0#16, exceedances := 0#16, cleanRun := 0, lastSerial := none, lastDate := none, unseen := 0, stale := false
          sweepStamp := t.watch.sweepSerial, revision := 0#16, note := [], hold := none, pending := [] }
      let room := t.setting .admissionReserve < t.freeCount ∨ (3 ≤ g.code ∧ 1 ≤ t.freeCount)
      (t.findKey k = none → g.code < 2 → r = t) ∧
      (t.findKey k = none → 2 ≤ g.code → ¬room → r = refusal) ∧
      (t.findKey k = none → 2 ≤ g.code → room → ∀ i, t.lowestFree = some i →
        r = ((t.putWatchSlot i { t.watchSlot i with entry := some fresh }).applyAt i c).raise .watchRaised) ∧
      (∀ i, t.findKey k = some i → r = t.takeAt i c)) ∧
  (∀ (t : Site) (i : Fin 512) (e : WatchEntry) (c : Contribution), t.watchEntry i = some e →
    (e.hold = none → t.takeAt i c = t.applyAt i c) ∧
    (∀ h, e.hold = some h → e.pending.length < 4 →
      t.takeAt i c = t.putWatchSlot i { t.watchSlot i with entry := some { e with pending := e.pending ++ [c] } }) ∧
    (∀ h, e.hold = some h → 4 ≤ e.pending.length →
      let freed := (t.putWatchSlot i { t.watchSlot i with entry := some { e with hold := none, pending := [] } }).setHolds
        (t.holds.dec h.port)
      let marked := (freed.raise .leaseExpired).putWatchSlot i ((freed.watchSlot i).setNotice h.port true)
      t.takeAt i c = (Site.applyPending i (e.pending ++ [c]) true marked).1))

/-- A contribution applied to an entry: a PASSAGE with its fields and counts (R168), a RESOLUTION with the counts alone (R172), a
SWEEP that the entry has not been seen since (R186), each raising the revision by one; then the level reconsidered (R169) on the
trend of the lists it reached (R170). What is written: the entry replaced or the slot FREE, the slot queued for the store (R166),
a rise flagged WATCH_ESCALATED (R169). Pending contributions are applied in arrival order, and once one of them retires the entry
the rest are taken as for a key with no LIVE entry (R177). -/
def Obligations.ContributionsApplied : Prop :=
  (∀ (t : Site) (i : Fin 512) (e : WatchEntry) (c : Contribution), t.watchEntry i = some e →
    let w := t.watchSlot i
    (∀ a, e.apply t.settings t.watch.sweepSerial c = some a →
      (∀ x, a.entry = some x →
        let r := (t.putWatchSlot i { w with entry := some x }).setStore (t.store.enqueue (.slot i))
        t.applyAt i c = if a.escalated then r.raise .watchEscalated else r) ∧
      (a.entry = none → t.applyAt i c =
        (t.putWatchSlot i { w with entry := none, noticeLink := false, noticeService := false }).setStore
          (t.store.enqueue (.slot i)))) ∧
    (e.apply t.settings t.watch.sweepSerial c = none → t.applyAt i c = t)) ∧
  (∀ (t : Site) (i : Fin 512) (c : Contribution) (cs : List Contribution),
    Site.applyPending i [] true t = (t, true) ∧
    ((t.applyAt i c).watchEntry i ≠ none →
      Site.applyPending i (c :: cs) true t = Site.applyPending i cs true (t.applyAt i c)) ∧
    ((t.applyAt i c).watchEntry i = none →
      Site.applyPending i (c :: cs) true t = Site.applyPending i cs false (t.applyAt i c)) ∧
    Site.applyPending i [] false t = (t, false) ∧
    (∀ n, Site.applyPending i (.sweep n :: cs) false t = Site.applyPending i cs false t) ∧
    (∀ k g, (∃ n d f v, c = .passage k n d g f v) ∨ c = .resolution k g →
      (∀ j, t.findKey k = some j → Site.applyPending i (c :: cs) false t = Site.applyPending i cs false (t.applyAt j c)) ∧
      (t.findKey k = none → Site.applyPending i (c :: cs) false t = Site.applyPending i cs false (t.contribute c)))) ∧
  (∀ (e : WatchEntry) (b : SettingsBlock) (w : Word16) (k : WatchKey) (g : Grade),
    e.apply b w (.resolution k g) = some
      (({ e with
          exceedances := if 2 ≤ g.code then bump e.exceedances else e.exceedances
          cleanRun := if 2 ≤ g.code then 0 else min 31 (e.cleanRun + 1)
          revision := e.revision + 1#16 } : WatchEntry).reconsider b g false)) ∧
  (∀ (e : WatchEntry) (b : SettingsBlock) (w n : Word16),
    let x : WatchEntry := { e with unseen := min 999 (e.unseen + 1), sweepStamp := n, revision := e.revision + 1#16 }
    let long := b.nat .forgetSweeps ≤ x.unseen
    let dropped := e.origin = .raised ∧ e.level = .observe
    (e.sweepStamp = n → e.apply b w (.sweep n) = none) ∧
    (e.sweepStamp ≠ n → ¬long → e.apply b w (.sweep n) = some ⟨some x, false⟩) ∧
    (e.sweepStamp ≠ n → long → dropped → e.apply b w (.sweep n) = some ⟨none, false⟩) ∧
    (e.sweepStamp ≠ n → long → ¬dropped → e.apply b w (.sweep n) = some ⟨some { x with stale := true }, false⟩)) ∧
  (∀ (x : WatchEntry) (b : SettingsBlock) (v : SideValues),
    let rises (step : Int) (l : List Int) : Prop := ∃ p q r rest, l = p :: q :: r :: rest ∧ step ≤ p - q ∧ step ≤ q - r
    x.trend b v = true ↔
      (v.rise1.isSome = true ∧ rises (b.get .riseTrendStep) x.rise1) ∨
        (v.rise2.isSome = true ∧ rises (b.get .riseTrendStep) x.rise2) ∨
        (v.excess1.isSome = true ∧ rises (b.get .impactTrendStep) x.excess1) ∨
        (v.excess2.isSome = true ∧ rises (b.get .impactTrendStep) x.excess2)) ∧
  (∀ (e : WatchEntry) (b : SettingsBlock) (w : Word16) (k : WatchKey) (n : Serial) (d : Date) (g : Grade) (f : Bool)
      (v : SideValues),
    let x := (e.takePassage w n d g f v).revise
    e.apply b w (.passage k n d g f v) = some (x.reconsider b g (x.trend b v)) ∧
      x.passages = bump e.passages ∧ x.lastSerial = some n ∧ x.lastDate = some d ∧ x.unseen = 0 ∧ x.stale = false ∧
      x.sweepStamp = w ∧ x.revision = e.revision + 1#16 ∧ x.level = e.level ∧
      x.rise1 = (match v.rise1 with | some a => (a :: e.rise1).take 4 | none => e.rise1) ∧
      x.rise2 = (match v.rise2 with | some a => (a :: e.rise2).take 4 | none => e.rise2) ∧
      x.excess1 = (match v.excess1 with | some a => (a :: e.excess1).take 4 | none => e.excess1) ∧
      x.excess2 = (match v.excess2 with | some a => (a :: e.excess2).take 4 | none => e.excess2) ∧
      x.key = e.key ∧ x.origin = e.origin ∧ x.floor = e.floor ∧ x.note = e.note ∧ x.hold = e.hold ∧ x.pending = e.pending ∧
      (2 ≤ g.code → x.exceedances = bump e.exceedances ∧ x.cleanRun = 0) ∧
      (g.code < 2 → f = true → x.exceedances = e.exceedances ∧ x.cleanRun = e.cleanRun) ∧
      (g.code < 2 → f = false → x.exceedances = e.exceedances ∧ x.cleanRun = min 31 (e.cleanRun + 1))) ∧
  (∀ (e : WatchEntry) (b : SettingsBlock) (g : Grade) (trend : Bool),
    let r := e.reconsider b g trend
    let up (l : WatchLevel) : Applied := ⟨some { e with level := l, cleanRun := 0 }, true⟩
    let many := b.nat .escalateCount ≤ e.exceedances.toNat ∨ trend = true
    let still : Applied := ⟨some e, false⟩
    (g = .stop → e.level ≠ .withdraw → r = up .withdraw) ∧ (g = .stop → e.level = .withdraw → r = still) ∧
    (g = .alarm → e.level = .restrict → r = up .withdraw) ∧
    (g ≠ .stop → e.level = .observe → many → r = up .restrict) ∧
    (g ≠ .stop → (g ≠ .alarm ∨ e.level ≠ .restrict) → (e.level ≠ .observe ∨ ¬many) →
      let low := (match e.origin with | .raised => .observe | .enrolled => e.floor.getD .observe : WatchLevel)
      let long := b.nat .clearRun ≤ e.cleanRun
      let down := long ∧ low.code < e.level.code
      let gone := long ∧ e.origin = .raised ∧ e.level = .observe
      (down → r = ⟨some { e with level := e.level.lower, cleanRun := 0, exceedances := 0#16 }, false⟩) ∧
      (¬down → gone → r = ⟨none, false⟩) ∧ (¬down → ¬gone → r = still)))

/-! ### The clock -/

/-- A second of the clock: the count of spans and the trim read at a span's last second (R213), the calendar (R212), the clock
unset past 2099 (R187, R204, R212), and a scheduled sweep start, taken as a sweep start is (R187, R216). No second counts while
the part is held: log 35. -/
def Obligations.ClockSecondRows : Prop :=
  ∀ s : State,
    let t := s.site
    let c := t.clock
    let d := c.reading
    let w := t.watch
    let k := if c.spanSecond < 63 then c.spanSecond + 1 else 0
    let length : Nat := if k = 63 then (32768 - t.settings.get .clockTrim).toNat else 32768
    let days : Nat :=
      if d.month = 2 then (if d.year % 4 = 0 then 29 else 28)
      else if d.month = 4 ∨ d.month = 6 ∨ d.month = 9 ∨ d.month = 11 then 30
      else 31
    let midnight : DateTime :=
      { d with hour := 0, minute := 0, second := 0, weekday := if d.weekday = 6 then 0 else d.weekday + 1 }
    let next : DateTime :=
      if d.second < 59 then { d with second := d.second + 1 }
      else if d.minute < 59 then { d with minute := d.minute + 1, second := 0 }
      else if d.hour < 23 then { d with hour := d.hour + 1, minute := 0, second := 0 }
      else if d.day < days then { midnight with day := d.day + 1 }
      else if d.month < 12 then { midnight with month := d.month + 1, day := 1 }
      else { midnight with year := d.year + 1, month := 1, day := 1 }
    let reads (r : DateTime) (set : Bool) : Site :=
      t.setClock { reading := r, isSet := set, spanSecond := k, secondLength := length }
    let starts := c.isSet = true ∧ next.second = 0 ∧ 60 * next.hour + next.minute = t.setting .sweepTime ∧
      (BitVec.ofNat 7 (t.setting .sweepDays)).getLsbD next.weekday = true
    let gives (r : Site) : Prop := exec .clockSecond s = .next (s.setSite r)
    (t.mode = .held → exec .clockSecond s = .next s) ∧
    (t.mode ≠ .held → 2099 < next.year →
      gives (((reads ⟨2000, 1, 1, 0, 0, 0, 6⟩ false).setWatch { w with startPending := false }).raise .clockUnset)) ∧
    (t.mode ≠ .held → next.year ≤ 2099 → ¬starts → gives (reads next c.isSet)) ∧
    (t.mode ≠ .held → next.year ≤ 2099 → starts → w.sweepState ≠ .idle → gives (reads next c.isSet)) ∧
    (t.mode ≠ .held → next.year ≤ 2099 → starts → w.sweepState = .idle → t.passageOpen = true →
      gives ((reads next c.isSet).setWatch { w with startPending := true })) ∧
    (t.mode ≠ .held → next.year ≤ 2099 → starts → w.sweepState = .idle → t.passageOpen = false →
      gives ((reads next c.isSet).setWatch
        { w with
          sweepSerial := w.sweepSerial + 1#16
          sweepState := if t.composition.isSome then .suspended else .running
          cursor := 0
          startPending := false }))

/-- CLOCK_READ answers the reading, the set mark, the trim and the next scheduled start, and changes nothing (R214, R216): absent
while the clock is unset or no day is in the set; past the end of 2099 a free value (log 16). CLOCK_SET takes a date-time within
the clock's range and adds CLOCK_CHANGED to an open record or to the pending causes (R215); the length of a span's last second is
taken again: log 12. -/
def Obligations.ClockReadAndSet : Prop :=
  ∀ (s : State) (p : Port) (tag : Byte) (body : List Byte),
    let t := s.site
    let c := t.clock
    (s.Takes p .clockRead body →
      exec (.clockRead p tag body) s = .next (s.granted p tag .clockRead
        (dateTimeField c.reading ++ yesNo c.isSet ++ leIntBytes 2 (t.settings.get .clockTrim) ++
          optField 8 (t.nextSweep.map dateTimeField)) t)) ∧
    (let days := BitVec.ofNat 7 (t.setting .sweepDays)
     let minute := t.setting .sweepTime
     let day (k : Nat) : DateTime := (List.range k).foldl (fun d _ => d.nextDay) c.reading
     let ahead := (c.reading.hour * 60 + c.reading.minute) * 60 + c.reading.second < minute * 60
     let falls (k : Nat) : Prop := (0 < k ∨ ahead) ∧ days.getLsbD (day k).weekday = true
     (c.isSet = false ∨ days = 0#7 → t.nextSweep = none) ∧
     (∀ k, c.isSet = true → days ≠ 0#7 → k ≤ 7 → falls k → (∀ j, j < k → ¬falls j) → t.nextSweep = some
       (if (day k).year ≤ 2099 then { day k with hour := minute / 60, minute := minute % 60, second := 0 }
        else Config.sweepPastEnd c.reading days minute))) ∧
    (s.Takes p .clockSet body →
      let d : DateTime :=
        { year := natAt body 0 2, month := natAt body 2 1, day := natAt body 3 1, hour := natAt body 4 1
          minute := natAt body 5 1, second := natAt body 6 1, weekday := natAt body 7 1 }
      let good := 2000 ≤ d.year ∧ d.year ≤ 2099 ∧ 1 ≤ d.month ∧ d.month ≤ 12 ∧ 1 ≤ d.day ∧ d.day ≤ monthLength d.year d.month ∧
        d.hour ≤ 23 ∧ d.minute ≤ 59 ∧ d.second ≤ 59 ∧ d.weekday ≤ 6
      let set := t.setClock
        { reading := d, isSet := true, spanSecond := c.spanSecond
          secondLength := if c.spanSecond = 63 then (32768 - t.settings.get .clockTrim).toNat else 32768 }
      let gives (r : Site) : Prop :=
        exec (.clockSet p tag body) s = .next (s.granted p tag .clockSet (dateTimeField d) r)
      let noted := t.passage.phase ≠ .idle ∨ t.passage.held = true
      (¬good → exec (.clockSet p tag body) s = .next (s.refused p tag .clockSet .badValue)) ∧
      (good → t.passageOpen = true → gives (set.addRecordCause .clockChanged)) ∧
      (good → t.passageOpen = false → noted → gives (set.addPending .clockChanged)) ∧
      (good → t.passageOpen = false → ¬noted → gives set))

/-! ### The settings -/

/-- SETTING_READ, SETTING_WRITE, CRITERION_READ and CRITERION_WRITE (R128, R129, R218, R219): BAD_VALUE by number and range, else
the working settings read or replaced, the latched ones as they were. A write of a head timer's limit acts on the running timers
(R5), head by head in the order of the track: log 28. The coding of the group is the model's choice: log 18; a setting that is not
of the passage has no latched value and no byte for it: log 49; an enabled byte that is neither 0 nor 1 is BAD_VALUE: log 24. The
tables, row by row: number, group, range and factory value of every setting (R217), code, scope and range of every quantity
(R127), the factory criteria (R130). -/
def Obligations.SettingsReadAndWritten : Prop :=
  (let rows : List (Setting × Nat × Bool × (Int × Int) × Int) :=
    [(.stuckLimit, 1, false, (5, 3600), 120), (.quietPeriod, 2, false, (10, 3600), 300),
     (.gaHeadSpacing, 3, true, (100, 2000), 450), (.gbHeadSpacing, 4, true, (100, 2000), 450),
     (.armLimit, 5, true, (2, 60), 15), (.armTimeout, 6, true, (30, 1800), 600), (.standstillTime, 7, true, (5, 600), 30),
     (.clearTime, 8, true, (2, 120), 10), (.passageLimit, 9, true, (5, 240), 90), (.bogieGapMax, 10, true, (1000, 4000), 2100),
     (.couplingGapMax, 11, true, (1500, 8000), 4200), (.readerLag, 12, true, (0, 24), 6),
     (.modulesFitted, 13, true, (0, 255), 255), (.loadSpeedMin, 14, true, (0, 3000), 50),
     (.loadSpeedMax, 15, true, (0, 3000), 900), (.minGoodBays, 16, true, (1, 4), 2), (.heatSpeedMin, 17, true, (0, 3000), 80),
     (.heatSpeedMax, 18, true, (0, 3000), 1400), (.trainMeanMin, 19, true, (1, 1024), 8), (.holdLease, 20, false, (10, 3600), 300),
     (.escalateCount, 21, false, (1, 31), 2), (.clearRun, 22, false, (1, 31), 5), (.riseTrendStep, 23, false, (1, 500), 50),
     (.impactTrendStep, 24, false, (1, 2000), 200), (.admissionReserve, 25, false, (0, 256), 32),
     (.forgetSweeps, 26, false, (1, 999), 180), (.serviceWrites, 27, false, (0, 1), 0), (.clockTrim, 28, false, (-255, 255), 0),
     (.sweepTime, 29, false, (0, 1439), 180), (.sweepDays, 30, false, (0, 127), 127)]
   (rows.map Prod.fst).Nodup ∧
    ∀ x : Setting, (x, x.index.val + 1, x.isPassage, x.range, factoryBlock.get x) ∈ rows) ∧
  (let rows : List (QuantityName × Nat × Scope × Int × Int) :=
    [(.wheelLoad, 0, .wheel, 0, 10000), (.wheelImpact, 1, .wheel, 0, 10000), (.impactExcess, 2, .wheel, 0, 10000),
     (.impactRatio, 3, .wheel, 0, 10000), (.bearingTemp, 4, .wheel, -600, 2500), (.bearingRise, 5, .wheel, -3100, 3100),
     (.axleLoad, 6, .axle, 0, 20000), (.axleSideSplit, 7, .axle, 0, 1000), (.bearingCross, 8, .axle, 0, 3100),
     (.bearingTrainExcess, 9, .axle, -3100, 3100), (.vehicleLoad, 10, .vehicle, 0, 20480000),
     (.vehicleEndSplit, 11, .vehicle, 0, 1000), (.vehicleSideSplit, 12, .vehicle, 0, 1000),
     (.trainLoad, 13, .train, 0, 20480000), (.trainSpeed, 14, .train, 0, 3000)]
   (rows.map Prod.fst).Nodup ∧ ∀ q : QuantityName, (q, q.code, q.scope, q.range) ∈ rows) ∧
  (let row (q : QuantityName) (normal watched : Int) (g : Grade) (x : Treatment) : Criterion :=
    { enabled := true, quantity := q, predicate := .ge, normal := normal, watched := watched, grade := g, treatment := x }
   factoryBlock.generation = 0#16 ∧ factoryBlock.criteria.toList =
    [row .impactExcess 3500 3000 .stop .ignore, row .impactExcess 2500 2000 .alarm .ignore,
     row .impactExcess 1500 1200 .caution .ignore, row .bearingRise 900 800 .stop .defer, row .bearingRise 700 600 .alarm .defer,
     row .bearingRise 500 400 .caution .ignore, row .bearingCross 400 300 .caution .ignore,
     row .bearingTrainExcess 350 250 .caution .ignore, row .axleLoad 3600 3600 .alarm .ignore,
     row .axleLoad 3250 3250 .caution .ignore, row .axleSideSplit 250 200 .caution .ignore,
     row .vehicleEndSplit 300 250 .caution .ignore, row .trainSpeed 900 900 .note .ignore] ++
    List.replicate 11 { row .wheelLoad 10000 10000 .note .ignore with enabled := false }) ∧
  ∀ (s : State) (p : Port) (tag : Byte) (body : List Byte),
    let t := s.site
    let b := t.settings
    let n := natAt body 0 1
    let heads : List HeadId :=
      [⟨.pa, .one⟩, ⟨.pa, .two⟩, ⟨.ga, .one⟩, ⟨.ga, .two⟩, ⟨.gb, .one⟩, ⟨.gb, .two⟩, ⟨.pb, .one⟩, ⟨.pb, .two⟩]
    (1 ≤ n → n ≤ 30 → ∃ x : Setting, x.index.val + 1 = n) ∧
    (s.Takes p .settingRead body →
      (n < 1 ∨ 30 < n → exec (.settingRead p tag body) s = .next (s.refused p tag .settingRead .badValue)) ∧
      (∀ x : Setting, x.index.val + 1 = n → exec (.settingRead p tag body) s = .next (s.granted p tag .settingRead
        (leBytes 1 n ++ leBytes 1 (if x.isPassage then 1 else 0) ++ leIntBytes 4 (b.get x) ++
          leIntBytes 4 (factoryBlock.get x) ++ (if x.isPassage then leIntBytes 4 (t.passage.latched.get x) else [])) t))) ∧
    (s.Takes p .settingWrite body →
      let v := intAt body 1 4
      let refuses : Prop := exec (.settingWrite p tag body) s = .next (s.refused p tag .settingWrite .badValue)
      let gives (r : Site) : Prop :=
        exec (.settingWrite p tag body) s = .next (s.granted p tag .settingWrite (leBytes 1 n ++ leIntBytes 4 v) r)
      (n < 1 ∨ 30 < n → refuses) ∧
      (∀ x : Setting, x.index.val + 1 = n →
        let written := t.setSettings { b with values := b.values.set x.index v }
        (v < x.range.1 ∨ x.range.2 < v → refuses) ∧
        (x.range.1 ≤ v → v ≤ x.range.2 → x ≠ .stuckLimit → x ≠ .quietPeriod → gives written) ∧
        (x.range.1 ≤ v → v ≤ x.range.2 → x = .stuckLimit → gives (heads.foldl Site.stuckExpiry written)) ∧
        (x.range.1 ≤ v → v ≤ x.range.2 → x = .quietPeriod → gives (heads.foldl Site.quietExpiry written)))) ∧
    (s.Takes p .criterionRead body →
      (n < 1 ∨ 24 < n → exec (.criterionRead p tag body) s = .next (s.refused p tag .criterionRead .badValue)) ∧
      (∀ i : Fin 24, i.val + 1 = n →
        let c := b.criteria[i]
        exec (.criterionRead p tag body) s = .next (s.granted p tag .criterionRead
          (yesNo c.enabled ++ leBytes 1 c.quantity.code ++ leBytes 1 c.predicate.code ++ leIntBytes 4 c.normal ++
            leIntBytes 4 c.watched ++ leBytes 1 c.grade.code ++ leBytes 1 c.treatment.code ++
            leBytes 2 b.generation.toNat) t))) ∧
    (s.Takes p .criterionWrite body →
      let refuses : Prop := exec (.criterionWrite p tag body) s = .next (s.refused p tag .criterionWrite .badValue)
      let names (c : Criterion) : Prop :=
        natAt body 1 1 = (if c.enabled then 1 else 0) ∧ natAt body 2 1 = c.quantity.code ∧ natAt body 3 1 = c.predicate.code ∧
          intAt body 4 4 = c.normal ∧ intAt body 8 4 = c.watched ∧ natAt body 12 1 = c.grade.code ∧
          natAt body 13 1 = c.treatment.code
      let fits (c : Criterion) : Prop :=
        c.grade ≠ .clear ∧ c.quantity.range.1 ≤ c.normal ∧ c.normal ≤ c.quantity.range.2 ∧ c.quantity.range.1 ≤ c.watched ∧
          c.watched ≤ c.quantity.range.2
      (n < 1 ∨ 24 < n → refuses) ∧
      ((∀ c, ¬names c) → refuses) ∧
      (∀ c, names c → ¬fits c → refuses) ∧
      (∀ (c : Criterion) (i : Fin 24), i.val + 1 = n → names c → fits c →
        exec (.criterionWrite p tag body) s = .next (s.granted p tag .criterionWrite (leBytes 2 (b.generation + 1#16).toNat)
          (t.setSettings { b with criteria := b.criteria.set i c, generation := b.generation + 1#16 }))))

/-! ### The store -/

/-- The write queue and its writes: queuing an item, taking the head for writing with the image built then (R220), the two ends of
a write (R221), STORE_SAVE and the two ways it ends (R223), and STORE_RETRY (R222), which takes the head for writing at once: log
41. An image carries the CRC-16 of polynomial 0x1021 and initial value 0xFFFF over its contents and stamp (R220), whose bytes are
free: log 42. A start with nothing to write and an end with nothing in flight have no effect: log 1. -/
def Obligations.StoreWrites : Prop :=
  (∀ (u : StoreUnit) (i : StoreItem),
    (∀ w, u.inFlight = some w → w.item = i → u.enqueue i = { u with inFlight := some { w with changed := true } }) ∧
    ((∀ w, u.inFlight = some w → w.item ≠ i) → i ∈ u.queue → u.enqueue i = u) ∧
    ((∀ w, u.inFlight = some w → w.item ≠ i) → i ∉ u.queue → u.enqueue i = { u with queue := u.queue ++ [i] })) ∧
  (∀ (s : State) (p : Port) (tag : Byte) (body : List Byte),
    let t := s.site
    let u := t.store
    let image (i : StoreItem) : ImageContents :=
      match i with
      | .slot j =>
        match t.watchEntry j with
        | some e => .slot (.live { e with hold := none, pending := [] })
        | none => .slot .free
      | .settings => .settings t.settings
      | .serial => .serial u.nextSerial
    let writing (i : StoreItem) : Option Write := some
      { item := i, changed := false, contents := image i, stamp := u.nextStamp
        crc := crc16 0x1021#16 (Config.imageBytes (image i) u.nextStamp) }
    (s.Running → u.state = .online → u.inFlight = none → ∀ i rest, u.queue = i :: rest → exec .storeWriteStart s =
      .next (s.setSite (t.setStore { u with queue := rest, inFlight := writing i, nextStamp := u.nextStamp + 1#32 }))) ∧
    (t.mode ≠ .running ∨ u.state = .offline ∨ u.inFlight.isSome = true ∨ u.queue = [] →
      exec .storeWriteStart s = .next s) ∧
    (t.mode ≠ .running ∨ u.inFlight = none →
      exec .storeAckTimeout s = .next s ∧ ∀ same, exec (.storeWriteEnd same) s = .next s) ∧
    (∀ w : Write, s.Running → u.inFlight = some w →
      let wait : Option WaitingSave :=
        u.waiting.map (fun v => if w.item = .settings then { v with imageOlder := false } else v)
      let back : List StoreItem := if w.item ∈ u.queue then u.queue else u.queue ++ [w.item]
      let answers (r : Site) (v : WaitingSave) (st : Status) (b : List Byte) : State :=
        (s.setSite r).pushAnswer .siteLink { tag := v.tag, kind := RequestKind.storeSave.code, status := st, body := b }
      let stamped : Site :=
        match w.item with
        | .slot i => t.putWatchSlot i { t.watchSlot i with stamp := w.stamp }
        | .settings | .serial => t
      let landed (x : Option WaitingSave) : Site := stamped.setStore
        { u with inFlight := none, failures := 0, queue := if w.changed then back else u.queue, waiting := x }
      let saved (v : WaitingSave) : Prop := u.waiting = some v ∧ w.item = .settings ∧ v.imageOlder = false
      let offline := 2 ≤ u.failures ∨ u.state = .offline
      let lost (x : Option WaitingSave) : Site := (t.setStore
        { u with
          inFlight := none, failures := min 3 (u.failures + 1), queue := back, faults := bump u.faults, waiting := x
          state := if 2 ≤ u.failures then .offline else u.state }).raise .storeFault
      (∀ v, saved v → exec (.storeWriteEnd true) s = .next (answers (landed none) v .ok (leBytes 4 w.stamp.toNat))) ∧
      ((∀ v, ¬saved v) → exec (.storeWriteEnd true) s = .next (s.setSite (landed wait))) ∧
      (∀ c : Instr, c = .storeAckTimeout ∨ c = .storeWriteEnd false →
        (∀ v, offline → u.waiting = some v → exec c s = .next (answers (lost none) v .storeOffline [])) ∧
        (¬offline ∨ u.waiting = none → exec c s = .next (s.setSite (lost wait))))) ∧
    (s.Takes p .storeSave body →
      (u.state = .offline → exec (.storeSave p tag body) s = .next (s.refused p tag .storeSave .storeOffline)) ∧
      (u.state = .online → exec (.storeSave p tag body) s = .next ((s.receive p .hunting).setSite (t.setStore
        { u.enqueue .settings with
          waiting := some { tag := tag, imageOlder := u.inFlight.any (fun w => w.item == .settings) } })))) ∧
    (s.Takes p .storeRetry body →
      let gives (n : Nat) (r : Site) : Prop :=
        exec (.storeRetry p tag body) s = .next (s.granted p tag .storeRetry (leBytes 1 0 ++ leBytes 2 n) r)
      let again : StoreUnit := { u with state := .online, failures := 0 }
      (u.state = .online → gives u.queue.length t) ∧
      (u.state = .offline → u.inFlight.isSome = true ∨ u.queue = [] → gives u.queue.length (t.setStore again)) ∧
      (∀ i rest, u.state = .offline → u.inFlight = none → u.queue = i :: rest →
        gives rest.length (t.setStore
          { again with queue := rest, inFlight := writing i, nextStamp := u.nextStamp + 1#32 }))))

/-- Loading: the SETTINGS image, the SERIAL image (R225) and the slot images in slot order (R226), each taken, blank or bad, by the
ranges of its fields (R126, R166, R217), and its end:
of the entries with one key the one with the highest stamp stays, the lower slot of two alike, every other slot FREE and queued;
the next store stamp, the sweep serial, the running time, the heads, the modules and the latched settings at their starting
values; the site RUNNING (R1, R186, R226). An image that is not the next one, and an end of loading before the 512 slots are read,
have no effect: log 1. Which images the next store stamp counts is the model's reading: log 29. A FREE image gives its slot the
image's stamp: log 30. -/
def Obligations.ImagesLoadedAndLoadingEnds : Prop :=
  (∀ b : SettingsBlock, b.inRange = true ↔
    (∀ n : Setting, n.range.1 ≤ b.get n ∧ b.get n ≤ n.range.2) ∧
    ∀ i : Fin 24, (b.criteria[i]).grade ≠ .clear ∧
      (b.criteria[i]).quantity.range.1 ≤ (b.criteria[i]).normal ∧ (b.criteria[i]).normal ≤ (b.criteria[i]).quantity.range.2 ∧
      (b.criteria[i]).quantity.range.1 ≤ (b.criteria[i]).watched ∧
      (b.criteria[i]).watched ≤ (b.criteria[i]).quantity.range.2) ∧
  (∀ e : WatchEntry,
    let within (low high : Int) (l : List Int) : Prop := l.length ≤ 4 ∧ ∀ x ∈ l, low ≤ x ∧ x ≤ high
    e.inRange = true ↔
      e.key.index ≤ 12 ∧ (e.floor.isSome = true ↔ e.origin = .enrolled) ∧
      within (-3100) 3100 e.rise1 ∧ within (-3100) 3100 e.rise2 ∧ within 0 10000 e.excess1 ∧ within 0 10000 e.excess2 ∧
      e.cleanRun ≤ 31 ∧ e.lastSerial ≠ some 0#32 ∧
      (∀ d, e.lastDate = some d → 2000 ≤ d.year ∧ d.year ≤ 2099 ∧ 1 ≤ d.month ∧ d.month ≤ 12 ∧ 1 ≤ d.day ∧
        d.day ≤ monthLength d.year d.month) ∧
      e.unseen ≤ 999 ∧ e.note.length ≤ 16) ∧
  (∀ s : State,
    let t := s.site
    let u := t.store
    let high (x : Stamp) : Option Stamp :=
      match u.highest with
      | none => some x
      | some h => some (if h.toNat < x.toNat then x else h)
    let gives (c : Instr) (r : Site) (l : LoadStep) : Prop :=
      exec c s = .next (s.setSite (r.setStore { r.store with loading := l }))
    let defaulted : Site := t.raise .settingsDefaulted
    let one : StoreUnit := { u with nextSerial := 1#32 }
    let badSerial : Site := (t.setStore { one.enqueue .serial with faults := bump u.faults }).raise .storeFault
    let lost (i : Fin 512) : Site :=
      (t.setStore { u.enqueue (.slot i) with entriesLost := bump u.entriesLost }).raise .storeEntryLost
    let loaded (i : Fin 512) (e : Option WatchEntry) (x : Stamp) : Site :=
      (t.putWatchSlot i { t.watchSlot i with entry := e, stamp := x }).setStore { u with highest := high x }
    (t.mode = .loading → u.loading = .settings →
      gives (.loadSettingsImage .blank) defaulted .serial ∧ gives (.loadSettingsImage .torn) defaulted .serial ∧
      (∀ b x, b.inRange = false → gives (.loadSettingsImage (.sound b x)) defaulted .serial) ∧
      (∀ b x, b.inRange = true →
        gives (.loadSettingsImage (.sound b x)) ((t.setSettings b).setStore { u with highest := high x }) .serial)) ∧
    (t.mode = .loading → u.loading = .serial →
      gives (.loadSerialImage .blank) (t.setStore one) (.slots 0) ∧ gives (.loadSerialImage .torn) badSerial (.slots 0) ∧
      (∀ x, gives (.loadSerialImage (.sound 0#32 x)) badSerial (.slots 0)) ∧
      (∀ n x, n ≠ 0#32 → gives (.loadSerialImage (.sound n x))
        (t.setStore { u with nextSerial := n, highest := high x }) (.slots 0))) ∧
    (∀ i : Fin 512, t.mode = .loading → u.loading = .slots i.val →
      gives (.loadSlotImage .blank) t (.slots (i.val + 1)) ∧ gives (.loadSlotImage .torn) (lost i) (.slots (i.val + 1)) ∧
      (∀ x, gives (.loadSlotImage (.sound .free x)) (loaded i none x) (.slots (i.val + 1))) ∧
      (∀ e x, e.inRange = true → gives (.loadSlotImage (.sound (.live e) x))
        (loaded i (some { e with hold := none, pending := [] }) x) (.slots (i.val + 1))) ∧
      (∀ e x, e.inRange = false → gives (.loadSlotImage (.sound (.live e) x)) (lost i) (.slots (i.val + 1)))) ∧
    (t.mode ≠ .loading ∨ u.loading ≠ .settings → ∀ m, exec (.loadSettingsImage m) s = .next s) ∧
    (t.mode ≠ .loading ∨ u.loading ≠ .serial → ∀ m, exec (.loadSerialImage m) s = .next s) ∧
    (t.mode ≠ .loading ∨ (∀ i : Fin 512, u.loading ≠ .slots i.val) → ∀ m, exec (.loadSlotImage m) s = .next s)) ∧
  (∀ s : State,
    let t := s.site
    (t.mode ≠ .loading ∨ t.store.loading ≠ .slots 512 → exec .loadingEnd s = .next s) ∧
    (t.mode = .loading → t.store.loading = .slots 512 → ∃ r, exec .loadingEnd s = .next (s.setSite r) ∧
      r.mode = .running ∧ r.now = 0 ∧ r.settings = t.settings ∧ r.passage = { t.passage with latched := t.settings } ∧
      (∀ h, r.head h = { level := t.pins.level h, health := .inService, lastChange := 0 }) ∧
      (∀ p, (r.point p).condition = .normal ∧ (r.point p).machine =
        (if (r.point p).head1.level = .occupied ∨ (r.point p).head2.level = .occupied then .settling else .idle)) ∧
      (∀ n : Fin 8, (r.line n).arming =
        (if (BitVec.ofNat 8 (t.setting .modulesFitted)).getLsbD n.val then .idle else .notFitted)) ∧
      r.store.nextStamp = (match t.store.highest with | some h => h + 1#32 | none => 1#32) ∧
      (∀ (i : Fin 512) (e : WatchEntry), r.watchEntry i = some e ↔ t.watchEntry i = some e ∧
        ∀ (j : Fin 512) (f : WatchEntry), j ≠ i → t.watchEntry j = some f → f.key = e.key →
          (t.watchSlot j).stamp.toNat < (t.watchSlot i).stamp.toNat ∨
            ((t.watchSlot j).stamp = (t.watchSlot i).stamp ∧ i < j)) ∧
      (∀ i : Fin 512, t.watchEntry i ≠ none → r.watchEntry i = none → .slot i ∈ r.store.queue ∨
        ∃ w, r.store.inFlight = some w ∧ w.item = .slot i ∧ w.changed = true) ∧
      (∀ i e, r.watchEntry i = some e → e.sweepStamp.toNat ≤ r.watch.sweepSerial.toNat) ∧
      (r.watch.sweepSerial = 0#16 ∨ ∃ i e, r.watchEntry i = some e ∧ e.sweepStamp = r.watch.sweepSerial) ∧
      r.watch.sweepState = .idle ∧ r.watch.cursor = 0 ∧ r.watch.startPending = false ∧ r.train = t.train ∧
      r.flags = t.flags ∧ r.counts = t.counts ∧ r.clock = t.clock))

/-! ### The invariants -/

/-- Every step keeps the invariants of the machine (State.Sound), the tick among them: the write queue (R220), at most four holds
of a port and the hold counts equal to the holds taken (R157), at most four pending contributions (R174), the net counts (R16),
CLOCK_UNSET while the clock is unset (R204), no flag enabled in LOADING (R206), the answer queues (R198), one LIVE entry per key
while RUNNING (R165), at most one record OPEN or CLOSING (R144), the deferred count of a verdict equal to its DEFERRED findings
(R139), the roster's and vehicles' bounds (R45), PRESENT exactly up to the net axle count (R52), no module place past the roster
length (R80). -/
def Obligations.StepKeepsInvariants : Prop := ∀ s t : State, s.Sound → step s = .next t → t.Sound

/-- The invariants (State.Sound) hold right after reset: the tables are empty, no hold is taken, no passage is open. -/
def Obligations.InvariantsHoldAtReset : Prop := State.reset.Sound
end

