-- ==== Sys2Proof/Laws/State.lean ====
section
/-! SUPPORT. One lemma per field per update of the site: what a setter writes and what it leaves. -/

namespace Sys2Proof

@[simp] theorem Site.setMode_mode (s : Site) (v : SiteMode) : (s.setMode v).mode = v := rfl
@[simp] theorem Site.setMode_now (s : Site) (v : SiteMode) : (s.setMode v).now = s.now := rfl
@[simp] theorem Site.setMode_pins (s : Site) (v : SiteMode) : (s.setMode v).pins = s.pins := rfl
@[simp] theorem Site.setMode_points (s : Site) (v : SiteMode) : (s.setMode v).points = s.points := rfl
@[simp] theorem Site.setMode_passage (s : Site) (v : SiteMode) : (s.setMode v).passage = s.passage := rfl
@[simp] theorem Site.setMode_roster (s : Site) (v : SiteMode) : (s.setMode v).roster = s.roster := rfl
@[simp] theorem Site.setMode_modules (s : Site) (v : SiteMode) : (s.setMode v).modules = s.modules := rfl
@[simp] theorem Site.setMode_settings (s : Site) (v : SiteMode) : (s.setMode v).settings = s.settings := rfl
@[simp] theorem Site.setMode_composition (s : Site) (v : SiteMode) : (s.setMode v).composition = s.composition := rfl
@[simp] theorem Site.setMode_train (s : Site) (v : SiteMode) : (s.setMode v).train = s.train := rfl
@[simp] theorem Site.setMode_watch (s : Site) (v : SiteMode) : (s.setMode v).watch = s.watch := rfl
@[simp] theorem Site.setMode_flags (s : Site) (v : SiteMode) : (s.setMode v).flags = s.flags := rfl
@[simp] theorem Site.setMode_enables (s : Site) (v : SiteMode) : (s.setMode v).enables = s.enables := rfl
@[simp] theorem Site.setMode_counts (s : Site) (v : SiteMode) : (s.setMode v).counts = s.counts := rfl
@[simp] theorem Site.setMode_holds (s : Site) (v : SiteMode) : (s.setMode v).holds = s.holds := rfl
@[simp] theorem Site.setMode_clock (s : Site) (v : SiteMode) : (s.setMode v).clock = s.clock := rfl
@[simp] theorem Site.setMode_store (s : Site) (v : SiteMode) : (s.setMode v).store = s.store := rfl
@[simp] theorem Site.setMode_freeDraws (s : Site) (v : SiteMode) : (s.setMode v).freeDraws = s.freeDraws := rfl

@[simp] theorem Site.setNow_mode (s : Site) (v : Nat) : (s.setNow v).mode = s.mode := rfl
@[simp] theorem Site.setNow_now (s : Site) (v : Nat) : (s.setNow v).now = v := rfl
@[simp] theorem Site.setNow_pins (s : Site) (v : Nat) : (s.setNow v).pins = s.pins := rfl
@[simp] theorem Site.setNow_points (s : Site) (v : Nat) : (s.setNow v).points = s.points := rfl
@[simp] theorem Site.setNow_passage (s : Site) (v : Nat) : (s.setNow v).passage = s.passage := rfl
@[simp] theorem Site.setNow_roster (s : Site) (v : Nat) : (s.setNow v).roster = s.roster := rfl
@[simp] theorem Site.setNow_modules (s : Site) (v : Nat) : (s.setNow v).modules = s.modules := rfl
@[simp] theorem Site.setNow_settings (s : Site) (v : Nat) : (s.setNow v).settings = s.settings := rfl
@[simp] theorem Site.setNow_composition (s : Site) (v : Nat) : (s.setNow v).composition = s.composition := rfl
@[simp] theorem Site.setNow_train (s : Site) (v : Nat) : (s.setNow v).train = s.train := rfl
@[simp] theorem Site.setNow_watch (s : Site) (v : Nat) : (s.setNow v).watch = s.watch := rfl
@[simp] theorem Site.setNow_flags (s : Site) (v : Nat) : (s.setNow v).flags = s.flags := rfl
@[simp] theorem Site.setNow_enables (s : Site) (v : Nat) : (s.setNow v).enables = s.enables := rfl
@[simp] theorem Site.setNow_counts (s : Site) (v : Nat) : (s.setNow v).counts = s.counts := rfl
@[simp] theorem Site.setNow_holds (s : Site) (v : Nat) : (s.setNow v).holds = s.holds := rfl
@[simp] theorem Site.setNow_clock (s : Site) (v : Nat) : (s.setNow v).clock = s.clock := rfl
@[simp] theorem Site.setNow_store (s : Site) (v : Nat) : (s.setNow v).store = s.store := rfl
@[simp] theorem Site.setNow_freeDraws (s : Site) (v : Nat) : (s.setNow v).freeDraws = s.freeDraws := rfl

@[simp] theorem Site.setPins_mode (s : Site) (v : HeadLines) : (s.setPins v).mode = s.mode := rfl
@[simp] theorem Site.setPins_now (s : Site) (v : HeadLines) : (s.setPins v).now = s.now := rfl
@[simp] theorem Site.setPins_pins (s : Site) (v : HeadLines) : (s.setPins v).pins = v := rfl
@[simp] theorem Site.setPins_points (s : Site) (v : HeadLines) : (s.setPins v).points = s.points := rfl
@[simp] theorem Site.setPins_passage (s : Site) (v : HeadLines) : (s.setPins v).passage = s.passage := rfl
@[simp] theorem Site.setPins_roster (s : Site) (v : HeadLines) : (s.setPins v).roster = s.roster := rfl
@[simp] theorem Site.setPins_modules (s : Site) (v : HeadLines) : (s.setPins v).modules = s.modules := rfl
@[simp] theorem Site.setPins_settings (s : Site) (v : HeadLines) : (s.setPins v).settings = s.settings := rfl
@[simp] theorem Site.setPins_composition (s : Site) (v : HeadLines) : (s.setPins v).composition = s.composition := rfl
@[simp] theorem Site.setPins_train (s : Site) (v : HeadLines) : (s.setPins v).train = s.train := rfl
@[simp] theorem Site.setPins_watch (s : Site) (v : HeadLines) : (s.setPins v).watch = s.watch := rfl
@[simp] theorem Site.setPins_flags (s : Site) (v : HeadLines) : (s.setPins v).flags = s.flags := rfl
@[simp] theorem Site.setPins_enables (s : Site) (v : HeadLines) : (s.setPins v).enables = s.enables := rfl
@[simp] theorem Site.setPins_counts (s : Site) (v : HeadLines) : (s.setPins v).counts = s.counts := rfl
@[simp] theorem Site.setPins_holds (s : Site) (v : HeadLines) : (s.setPins v).holds = s.holds := rfl
@[simp] theorem Site.setPins_clock (s : Site) (v : HeadLines) : (s.setPins v).clock = s.clock := rfl
@[simp] theorem Site.setPins_store (s : Site) (v : HeadLines) : (s.setPins v).store = s.store := rfl
@[simp] theorem Site.setPins_freeDraws (s : Site) (v : HeadLines) : (s.setPins v).freeDraws = s.freeDraws := rfl

@[simp] theorem Site.setPoints_mode (s : Site) (v : PointUnit) : (s.setPoints v).mode = s.mode := rfl
@[simp] theorem Site.setPoints_now (s : Site) (v : PointUnit) : (s.setPoints v).now = s.now := rfl
@[simp] theorem Site.setPoints_pins (s : Site) (v : PointUnit) : (s.setPoints v).pins = s.pins := rfl
@[simp] theorem Site.setPoints_points (s : Site) (v : PointUnit) : (s.setPoints v).points = v := rfl
@[simp] theorem Site.setPoints_passage (s : Site) (v : PointUnit) : (s.setPoints v).passage = s.passage := rfl
@[simp] theorem Site.setPoints_roster (s : Site) (v : PointUnit) : (s.setPoints v).roster = s.roster := rfl
@[simp] theorem Site.setPoints_modules (s : Site) (v : PointUnit) : (s.setPoints v).modules = s.modules := rfl
@[simp] theorem Site.setPoints_settings (s : Site) (v : PointUnit) : (s.setPoints v).settings = s.settings := rfl
@[simp] theorem Site.setPoints_composition (s : Site) (v : PointUnit) : (s.setPoints v).composition = s.composition := rfl
@[simp] theorem Site.setPoints_train (s : Site) (v : PointUnit) : (s.setPoints v).train = s.train := rfl
@[simp] theorem Site.setPoints_watch (s : Site) (v : PointUnit) : (s.setPoints v).watch = s.watch := rfl
@[simp] theorem Site.setPoints_flags (s : Site) (v : PointUnit) : (s.setPoints v).flags = s.flags := rfl
@[simp] theorem Site.setPoints_enables (s : Site) (v : PointUnit) : (s.setPoints v).enables = s.enables := rfl
@[simp] theorem Site.setPoints_counts (s : Site) (v : PointUnit) : (s.setPoints v).counts = s.counts := rfl
@[simp] theorem Site.setPoints_holds (s : Site) (v : PointUnit) : (s.setPoints v).holds = s.holds := rfl
@[simp] theorem Site.setPoints_clock (s : Site) (v : PointUnit) : (s.setPoints v).clock = s.clock := rfl
@[simp] theorem Site.setPoints_store (s : Site) (v : PointUnit) : (s.setPoints v).store = s.store := rfl
@[simp] theorem Site.setPoints_freeDraws (s : Site) (v : PointUnit) : (s.setPoints v).freeDraws = s.freeDraws := rfl

@[simp] theorem Site.setPassage_mode (s : Site) (v : Passage) : (s.setPassage v).mode = s.mode := rfl
@[simp] theorem Site.setPassage_now (s : Site) (v : Passage) : (s.setPassage v).now = s.now := rfl
@[simp] theorem Site.setPassage_pins (s : Site) (v : Passage) : (s.setPassage v).pins = s.pins := rfl
@[simp] theorem Site.setPassage_points (s : Site) (v : Passage) : (s.setPassage v).points = s.points := rfl
@[simp] theorem Site.setPassage_passage (s : Site) (v : Passage) : (s.setPassage v).passage = v := rfl
@[simp] theorem Site.setPassage_roster (s : Site) (v : Passage) : (s.setPassage v).roster = s.roster := rfl
@[simp] theorem Site.setPassage_modules (s : Site) (v : Passage) : (s.setPassage v).modules = s.modules := rfl
@[simp] theorem Site.setPassage_settings (s : Site) (v : Passage) : (s.setPassage v).settings = s.settings := rfl
@[simp] theorem Site.setPassage_composition (s : Site) (v : Passage) : (s.setPassage v).composition = s.composition := rfl
@[simp] theorem Site.setPassage_train (s : Site) (v : Passage) : (s.setPassage v).train = s.train := rfl
@[simp] theorem Site.setPassage_watch (s : Site) (v : Passage) : (s.setPassage v).watch = s.watch := rfl
@[simp] theorem Site.setPassage_flags (s : Site) (v : Passage) : (s.setPassage v).flags = s.flags := rfl
@[simp] theorem Site.setPassage_enables (s : Site) (v : Passage) : (s.setPassage v).enables = s.enables := rfl
@[simp] theorem Site.setPassage_counts (s : Site) (v : Passage) : (s.setPassage v).counts = s.counts := rfl
@[simp] theorem Site.setPassage_holds (s : Site) (v : Passage) : (s.setPassage v).holds = s.holds := rfl
@[simp] theorem Site.setPassage_clock (s : Site) (v : Passage) : (s.setPassage v).clock = s.clock := rfl
@[simp] theorem Site.setPassage_store (s : Site) (v : Passage) : (s.setPassage v).store = s.store := rfl
@[simp] theorem Site.setPassage_freeDraws (s : Site) (v : Passage) : (s.setPassage v).freeDraws = s.freeDraws := rfl

@[simp] theorem Site.setRoster_mode (s : Site) (v : RosterUnit) : (s.setRoster v).mode = s.mode := rfl
@[simp] theorem Site.setRoster_now (s : Site) (v : RosterUnit) : (s.setRoster v).now = s.now := rfl
@[simp] theorem Site.setRoster_pins (s : Site) (v : RosterUnit) : (s.setRoster v).pins = s.pins := rfl
@[simp] theorem Site.setRoster_points (s : Site) (v : RosterUnit) : (s.setRoster v).points = s.points := rfl
@[simp] theorem Site.setRoster_passage (s : Site) (v : RosterUnit) : (s.setRoster v).passage = s.passage := rfl
@[simp] theorem Site.setRoster_roster (s : Site) (v : RosterUnit) : (s.setRoster v).roster = v := rfl
@[simp] theorem Site.setRoster_modules (s : Site) (v : RosterUnit) : (s.setRoster v).modules = s.modules := rfl
@[simp] theorem Site.setRoster_settings (s : Site) (v : RosterUnit) : (s.setRoster v).settings = s.settings := rfl
@[simp] theorem Site.setRoster_composition (s : Site) (v : RosterUnit) : (s.setRoster v).composition = s.composition := rfl
@[simp] theorem Site.setRoster_train (s : Site) (v : RosterUnit) : (s.setRoster v).train = s.train := rfl
@[simp] theorem Site.setRoster_watch (s : Site) (v : RosterUnit) : (s.setRoster v).watch = s.watch := rfl
@[simp] theorem Site.setRoster_flags (s : Site) (v : RosterUnit) : (s.setRoster v).flags = s.flags := rfl
@[simp] theorem Site.setRoster_enables (s : Site) (v : RosterUnit) : (s.setRoster v).enables = s.enables := rfl
@[simp] theorem Site.setRoster_counts (s : Site) (v : RosterUnit) : (s.setRoster v).counts = s.counts := rfl
@[simp] theorem Site.setRoster_holds (s : Site) (v : RosterUnit) : (s.setRoster v).holds = s.holds := rfl
@[simp] theorem Site.setRoster_clock (s : Site) (v : RosterUnit) : (s.setRoster v).clock = s.clock := rfl
@[simp] theorem Site.setRoster_store (s : Site) (v : RosterUnit) : (s.setRoster v).store = s.store := rfl
@[simp] theorem Site.setRoster_freeDraws (s : Site) (v : RosterUnit) : (s.setRoster v).freeDraws = s.freeDraws := rfl

@[simp] theorem Site.setModules_mode (s : Site) (v : ModuleUnit) : (s.setModules v).mode = s.mode := rfl
@[simp] theorem Site.setModules_now (s : Site) (v : ModuleUnit) : (s.setModules v).now = s.now := rfl
@[simp] theorem Site.setModules_pins (s : Site) (v : ModuleUnit) : (s.setModules v).pins = s.pins := rfl
@[simp] theorem Site.setModules_points (s : Site) (v : ModuleUnit) : (s.setModules v).points = s.points := rfl
@[simp] theorem Site.setModules_passage (s : Site) (v : ModuleUnit) : (s.setModules v).passage = s.passage := rfl
@[simp] theorem Site.setModules_roster (s : Site) (v : ModuleUnit) : (s.setModules v).roster = s.roster := rfl
@[simp] theorem Site.setModules_modules (s : Site) (v : ModuleUnit) : (s.setModules v).modules = v := rfl
@[simp] theorem Site.setModules_settings (s : Site) (v : ModuleUnit) : (s.setModules v).settings = s.settings := rfl
@[simp] theorem Site.setModules_composition (s : Site) (v : ModuleUnit) : (s.setModules v).composition = s.composition := rfl
@[simp] theorem Site.setModules_train (s : Site) (v : ModuleUnit) : (s.setModules v).train = s.train := rfl
@[simp] theorem Site.setModules_watch (s : Site) (v : ModuleUnit) : (s.setModules v).watch = s.watch := rfl
@[simp] theorem Site.setModules_flags (s : Site) (v : ModuleUnit) : (s.setModules v).flags = s.flags := rfl
@[simp] theorem Site.setModules_enables (s : Site) (v : ModuleUnit) : (s.setModules v).enables = s.enables := rfl
@[simp] theorem Site.setModules_counts (s : Site) (v : ModuleUnit) : (s.setModules v).counts = s.counts := rfl
@[simp] theorem Site.setModules_holds (s : Site) (v : ModuleUnit) : (s.setModules v).holds = s.holds := rfl
@[simp] theorem Site.setModules_clock (s : Site) (v : ModuleUnit) : (s.setModules v).clock = s.clock := rfl
@[simp] theorem Site.setModules_store (s : Site) (v : ModuleUnit) : (s.setModules v).store = s.store := rfl
@[simp] theorem Site.setModules_freeDraws (s : Site) (v : ModuleUnit) : (s.setModules v).freeDraws = s.freeDraws := rfl

@[simp] theorem Site.setSettings_mode (s : Site) (v : SettingsBlock) : (s.setSettings v).mode = s.mode := rfl
@[simp] theorem Site.setSettings_now (s : Site) (v : SettingsBlock) : (s.setSettings v).now = s.now := rfl
@[simp] theorem Site.setSettings_pins (s : Site) (v : SettingsBlock) : (s.setSettings v).pins = s.pins := rfl
@[simp] theorem Site.setSettings_points (s : Site) (v : SettingsBlock) : (s.setSettings v).points = s.points := rfl
@[simp] theorem Site.setSettings_passage (s : Site) (v : SettingsBlock) : (s.setSettings v).passage = s.passage := rfl
@[simp] theorem Site.setSettings_roster (s : Site) (v : SettingsBlock) : (s.setSettings v).roster = s.roster := rfl
@[simp] theorem Site.setSettings_modules (s : Site) (v : SettingsBlock) : (s.setSettings v).modules = s.modules := rfl
@[simp] theorem Site.setSettings_settings (s : Site) (v : SettingsBlock) : (s.setSettings v).settings = v := rfl
@[simp] theorem Site.setSettings_composition (s : Site) (v : SettingsBlock) : (s.setSettings v).composition = s.composition := rfl
@[simp] theorem Site.setSettings_train (s : Site) (v : SettingsBlock) : (s.setSettings v).train = s.train := rfl
@[simp] theorem Site.setSettings_watch (s : Site) (v : SettingsBlock) : (s.setSettings v).watch = s.watch := rfl
@[simp] theorem Site.setSettings_flags (s : Site) (v : SettingsBlock) : (s.setSettings v).flags = s.flags := rfl
@[simp] theorem Site.setSettings_enables (s : Site) (v : SettingsBlock) : (s.setSettings v).enables = s.enables := rfl
@[simp] theorem Site.setSettings_counts (s : Site) (v : SettingsBlock) : (s.setSettings v).counts = s.counts := rfl
@[simp] theorem Site.setSettings_holds (s : Site) (v : SettingsBlock) : (s.setSettings v).holds = s.holds := rfl
@[simp] theorem Site.setSettings_clock (s : Site) (v : SettingsBlock) : (s.setSettings v).clock = s.clock := rfl
@[simp] theorem Site.setSettings_store (s : Site) (v : SettingsBlock) : (s.setSettings v).store = s.store := rfl
@[simp] theorem Site.setSettings_freeDraws (s : Site) (v : SettingsBlock) : (s.setSettings v).freeDraws = s.freeDraws := rfl

@[simp] theorem Site.setComposition_mode (s : Site) (v : Option Composition) : (s.setComposition v).mode = s.mode := rfl
@[simp] theorem Site.setComposition_now (s : Site) (v : Option Composition) : (s.setComposition v).now = s.now := rfl
@[simp] theorem Site.setComposition_pins (s : Site) (v : Option Composition) : (s.setComposition v).pins = s.pins := rfl
@[simp] theorem Site.setComposition_points (s : Site) (v : Option Composition) : (s.setComposition v).points = s.points := rfl
@[simp] theorem Site.setComposition_passage (s : Site) (v : Option Composition) : (s.setComposition v).passage = s.passage := rfl
@[simp] theorem Site.setComposition_roster (s : Site) (v : Option Composition) : (s.setComposition v).roster = s.roster := rfl
@[simp] theorem Site.setComposition_modules (s : Site) (v : Option Composition) : (s.setComposition v).modules = s.modules := rfl
@[simp] theorem Site.setComposition_settings (s : Site) (v : Option Composition) : (s.setComposition v).settings = s.settings := rfl
@[simp] theorem Site.setComposition_composition (s : Site) (v : Option Composition) : (s.setComposition v).composition = v := rfl
@[simp] theorem Site.setComposition_train (s : Site) (v : Option Composition) : (s.setComposition v).train = s.train := rfl
@[simp] theorem Site.setComposition_watch (s : Site) (v : Option Composition) : (s.setComposition v).watch = s.watch := rfl
@[simp] theorem Site.setComposition_flags (s : Site) (v : Option Composition) : (s.setComposition v).flags = s.flags := rfl
@[simp] theorem Site.setComposition_enables (s : Site) (v : Option Composition) : (s.setComposition v).enables = s.enables := rfl
@[simp] theorem Site.setComposition_counts (s : Site) (v : Option Composition) : (s.setComposition v).counts = s.counts := rfl
@[simp] theorem Site.setComposition_holds (s : Site) (v : Option Composition) : (s.setComposition v).holds = s.holds := rfl
@[simp] theorem Site.setComposition_clock (s : Site) (v : Option Composition) : (s.setComposition v).clock = s.clock := rfl
@[simp] theorem Site.setComposition_store (s : Site) (v : Option Composition) : (s.setComposition v).store = s.store := rfl
@[simp] theorem Site.setComposition_freeDraws (s : Site) (v : Option Composition) : (s.setComposition v).freeDraws = s.freeDraws := rfl

@[simp] theorem Site.setTrain_mode (s : Site) (v : Vector (Option TrainRecord) 4) : (s.setTrain v).mode = s.mode := rfl
@[simp] theorem Site.setTrain_now (s : Site) (v : Vector (Option TrainRecord) 4) : (s.setTrain v).now = s.now := rfl
@[simp] theorem Site.setTrain_pins (s : Site) (v : Vector (Option TrainRecord) 4) : (s.setTrain v).pins = s.pins := rfl
@[simp] theorem Site.setTrain_points (s : Site) (v : Vector (Option TrainRecord) 4) : (s.setTrain v).points = s.points := rfl
@[simp] theorem Site.setTrain_passage (s : Site) (v : Vector (Option TrainRecord) 4) : (s.setTrain v).passage = s.passage := rfl
@[simp] theorem Site.setTrain_roster (s : Site) (v : Vector (Option TrainRecord) 4) : (s.setTrain v).roster = s.roster := rfl
@[simp] theorem Site.setTrain_modules (s : Site) (v : Vector (Option TrainRecord) 4) : (s.setTrain v).modules = s.modules := rfl
@[simp] theorem Site.setTrain_settings (s : Site) (v : Vector (Option TrainRecord) 4) : (s.setTrain v).settings = s.settings := rfl
@[simp] theorem Site.setTrain_composition (s : Site) (v : Vector (Option TrainRecord) 4) : (s.setTrain v).composition = s.composition := rfl
@[simp] theorem Site.setTrain_train (s : Site) (v : Vector (Option TrainRecord) 4) : (s.setTrain v).train = v := rfl
@[simp] theorem Site.setTrain_watch (s : Site) (v : Vector (Option TrainRecord) 4) : (s.setTrain v).watch = s.watch := rfl
@[simp] theorem Site.setTrain_flags (s : Site) (v : Vector (Option TrainRecord) 4) : (s.setTrain v).flags = s.flags := rfl
@[simp] theorem Site.setTrain_enables (s : Site) (v : Vector (Option TrainRecord) 4) : (s.setTrain v).enables = s.enables := rfl
@[simp] theorem Site.setTrain_counts (s : Site) (v : Vector (Option TrainRecord) 4) : (s.setTrain v).counts = s.counts := rfl
@[simp] theorem Site.setTrain_holds (s : Site) (v : Vector (Option TrainRecord) 4) : (s.setTrain v).holds = s.holds := rfl
@[simp] theorem Site.setTrain_clock (s : Site) (v : Vector (Option TrainRecord) 4) : (s.setTrain v).clock = s.clock := rfl
@[simp] theorem Site.setTrain_store (s : Site) (v : Vector (Option TrainRecord) 4) : (s.setTrain v).store = s.store := rfl
@[simp] theorem Site.setTrain_freeDraws (s : Site) (v : Vector (Option TrainRecord) 4) : (s.setTrain v).freeDraws = s.freeDraws := rfl

@[simp] theorem Site.setWatch_mode (s : Site) (v : WatchTable) : (s.setWatch v).mode = s.mode := rfl
@[simp] theorem Site.setWatch_now (s : Site) (v : WatchTable) : (s.setWatch v).now = s.now := rfl
@[simp] theorem Site.setWatch_pins (s : Site) (v : WatchTable) : (s.setWatch v).pins = s.pins := rfl
@[simp] theorem Site.setWatch_points (s : Site) (v : WatchTable) : (s.setWatch v).points = s.points := rfl
@[simp] theorem Site.setWatch_passage (s : Site) (v : WatchTable) : (s.setWatch v).passage = s.passage := rfl
@[simp] theorem Site.setWatch_roster (s : Site) (v : WatchTable) : (s.setWatch v).roster = s.roster := rfl
@[simp] theorem Site.setWatch_modules (s : Site) (v : WatchTable) : (s.setWatch v).modules = s.modules := rfl
@[simp] theorem Site.setWatch_settings (s : Site) (v : WatchTable) : (s.setWatch v).settings = s.settings := rfl
@[simp] theorem Site.setWatch_composition (s : Site) (v : WatchTable) : (s.setWatch v).composition = s.composition := rfl
@[simp] theorem Site.setWatch_train (s : Site) (v : WatchTable) : (s.setWatch v).train = s.train := rfl
@[simp] theorem Site.setWatch_watch (s : Site) (v : WatchTable) : (s.setWatch v).watch = v := rfl
@[simp] theorem Site.setWatch_flags (s : Site) (v : WatchTable) : (s.setWatch v).flags = s.flags := rfl
@[simp] theorem Site.setWatch_enables (s : Site) (v : WatchTable) : (s.setWatch v).enables = s.enables := rfl
@[simp] theorem Site.setWatch_counts (s : Site) (v : WatchTable) : (s.setWatch v).counts = s.counts := rfl
@[simp] theorem Site.setWatch_holds (s : Site) (v : WatchTable) : (s.setWatch v).holds = s.holds := rfl
@[simp] theorem Site.setWatch_clock (s : Site) (v : WatchTable) : (s.setWatch v).clock = s.clock := rfl
@[simp] theorem Site.setWatch_store (s : Site) (v : WatchTable) : (s.setWatch v).store = s.store := rfl
@[simp] theorem Site.setWatch_freeDraws (s : Site) (v : WatchTable) : (s.setWatch v).freeDraws = s.freeDraws := rfl

@[simp] theorem Site.setFlags_mode (s : Site) (v : BitVec 18) : (s.setFlags v).mode = s.mode := rfl
@[simp] theorem Site.setFlags_now (s : Site) (v : BitVec 18) : (s.setFlags v).now = s.now := rfl
@[simp] theorem Site.setFlags_pins (s : Site) (v : BitVec 18) : (s.setFlags v).pins = s.pins := rfl
@[simp] theorem Site.setFlags_points (s : Site) (v : BitVec 18) : (s.setFlags v).points = s.points := rfl
@[simp] theorem Site.setFlags_passage (s : Site) (v : BitVec 18) : (s.setFlags v).passage = s.passage := rfl
@[simp] theorem Site.setFlags_roster (s : Site) (v : BitVec 18) : (s.setFlags v).roster = s.roster := rfl
@[simp] theorem Site.setFlags_modules (s : Site) (v : BitVec 18) : (s.setFlags v).modules = s.modules := rfl
@[simp] theorem Site.setFlags_settings (s : Site) (v : BitVec 18) : (s.setFlags v).settings = s.settings := rfl
@[simp] theorem Site.setFlags_composition (s : Site) (v : BitVec 18) : (s.setFlags v).composition = s.composition := rfl
@[simp] theorem Site.setFlags_train (s : Site) (v : BitVec 18) : (s.setFlags v).train = s.train := rfl
@[simp] theorem Site.setFlags_watch (s : Site) (v : BitVec 18) : (s.setFlags v).watch = s.watch := rfl
@[simp] theorem Site.setFlags_flags (s : Site) (v : BitVec 18) : (s.setFlags v).flags = v := rfl
@[simp] theorem Site.setFlags_enables (s : Site) (v : BitVec 18) : (s.setFlags v).enables = s.enables := rfl
@[simp] theorem Site.setFlags_counts (s : Site) (v : BitVec 18) : (s.setFlags v).counts = s.counts := rfl
@[simp] theorem Site.setFlags_holds (s : Site) (v : BitVec 18) : (s.setFlags v).holds = s.holds := rfl
@[simp] theorem Site.setFlags_clock (s : Site) (v : BitVec 18) : (s.setFlags v).clock = s.clock := rfl
@[simp] theorem Site.setFlags_store (s : Site) (v : BitVec 18) : (s.setFlags v).store = s.store := rfl
@[simp] theorem Site.setFlags_freeDraws (s : Site) (v : BitVec 18) : (s.setFlags v).freeDraws = s.freeDraws := rfl

@[simp] theorem Site.setEnables_mode (s : Site) (v : BitVec 18) : (s.setEnables v).mode = s.mode := rfl
@[simp] theorem Site.setEnables_now (s : Site) (v : BitVec 18) : (s.setEnables v).now = s.now := rfl
@[simp] theorem Site.setEnables_pins (s : Site) (v : BitVec 18) : (s.setEnables v).pins = s.pins := rfl
@[simp] theorem Site.setEnables_points (s : Site) (v : BitVec 18) : (s.setEnables v).points = s.points := rfl
@[simp] theorem Site.setEnables_passage (s : Site) (v : BitVec 18) : (s.setEnables v).passage = s.passage := rfl
@[simp] theorem Site.setEnables_roster (s : Site) (v : BitVec 18) : (s.setEnables v).roster = s.roster := rfl
@[simp] theorem Site.setEnables_modules (s : Site) (v : BitVec 18) : (s.setEnables v).modules = s.modules := rfl
@[simp] theorem Site.setEnables_settings (s : Site) (v : BitVec 18) : (s.setEnables v).settings = s.settings := rfl
@[simp] theorem Site.setEnables_composition (s : Site) (v : BitVec 18) : (s.setEnables v).composition = s.composition := rfl
@[simp] theorem Site.setEnables_train (s : Site) (v : BitVec 18) : (s.setEnables v).train = s.train := rfl
@[simp] theorem Site.setEnables_watch (s : Site) (v : BitVec 18) : (s.setEnables v).watch = s.watch := rfl
@[simp] theorem Site.setEnables_flags (s : Site) (v : BitVec 18) : (s.setEnables v).flags = s.flags := rfl
@[simp] theorem Site.setEnables_enables (s : Site) (v : BitVec 18) : (s.setEnables v).enables = v := rfl
@[simp] theorem Site.setEnables_counts (s : Site) (v : BitVec 18) : (s.setEnables v).counts = s.counts := rfl
@[simp] theorem Site.setEnables_holds (s : Site) (v : BitVec 18) : (s.setEnables v).holds = s.holds := rfl
@[simp] theorem Site.setEnables_clock (s : Site) (v : BitVec 18) : (s.setEnables v).clock = s.clock := rfl
@[simp] theorem Site.setEnables_store (s : Site) (v : BitVec 18) : (s.setEnables v).store = s.store := rfl
@[simp] theorem Site.setEnables_freeDraws (s : Site) (v : BitVec 18) : (s.setEnables v).freeDraws = s.freeDraws := rfl

@[simp] theorem Site.setCounts_mode (s : Site) (v : Counts) : (s.setCounts v).mode = s.mode := rfl
@[simp] theorem Site.setCounts_now (s : Site) (v : Counts) : (s.setCounts v).now = s.now := rfl
@[simp] theorem Site.setCounts_pins (s : Site) (v : Counts) : (s.setCounts v).pins = s.pins := rfl
@[simp] theorem Site.setCounts_points (s : Site) (v : Counts) : (s.setCounts v).points = s.points := rfl
@[simp] theorem Site.setCounts_passage (s : Site) (v : Counts) : (s.setCounts v).passage = s.passage := rfl
@[simp] theorem Site.setCounts_roster (s : Site) (v : Counts) : (s.setCounts v).roster = s.roster := rfl
@[simp] theorem Site.setCounts_modules (s : Site) (v : Counts) : (s.setCounts v).modules = s.modules := rfl
@[simp] theorem Site.setCounts_settings (s : Site) (v : Counts) : (s.setCounts v).settings = s.settings := rfl
@[simp] theorem Site.setCounts_composition (s : Site) (v : Counts) : (s.setCounts v).composition = s.composition := rfl
@[simp] theorem Site.setCounts_train (s : Site) (v : Counts) : (s.setCounts v).train = s.train := rfl
@[simp] theorem Site.setCounts_watch (s : Site) (v : Counts) : (s.setCounts v).watch = s.watch := rfl
@[simp] theorem Site.setCounts_flags (s : Site) (v : Counts) : (s.setCounts v).flags = s.flags := rfl
@[simp] theorem Site.setCounts_enables (s : Site) (v : Counts) : (s.setCounts v).enables = s.enables := rfl
@[simp] theorem Site.setCounts_counts (s : Site) (v : Counts) : (s.setCounts v).counts = v := rfl
@[simp] theorem Site.setCounts_holds (s : Site) (v : Counts) : (s.setCounts v).holds = s.holds := rfl
@[simp] theorem Site.setCounts_clock (s : Site) (v : Counts) : (s.setCounts v).clock = s.clock := rfl
@[simp] theorem Site.setCounts_store (s : Site) (v : Counts) : (s.setCounts v).store = s.store := rfl
@[simp] theorem Site.setCounts_freeDraws (s : Site) (v : Counts) : (s.setCounts v).freeDraws = s.freeDraws := rfl

@[simp] theorem Site.setHolds_mode (s : Site) (v : HoldCounts) : (s.setHolds v).mode = s.mode := rfl
@[simp] theorem Site.setHolds_now (s : Site) (v : HoldCounts) : (s.setHolds v).now = s.now := rfl
@[simp] theorem Site.setHolds_pins (s : Site) (v : HoldCounts) : (s.setHolds v).pins = s.pins := rfl
@[simp] theorem Site.setHolds_points (s : Site) (v : HoldCounts) : (s.setHolds v).points = s.points := rfl
@[simp] theorem Site.setHolds_passage (s : Site) (v : HoldCounts) : (s.setHolds v).passage = s.passage := rfl
@[simp] theorem Site.setHolds_roster (s : Site) (v : HoldCounts) : (s.setHolds v).roster = s.roster := rfl
@[simp] theorem Site.setHolds_modules (s : Site) (v : HoldCounts) : (s.setHolds v).modules = s.modules := rfl
@[simp] theorem Site.setHolds_settings (s : Site) (v : HoldCounts) : (s.setHolds v).settings = s.settings := rfl
@[simp] theorem Site.setHolds_composition (s : Site) (v : HoldCounts) : (s.setHolds v).composition = s.composition := rfl
@[simp] theorem Site.setHolds_train (s : Site) (v : HoldCounts) : (s.setHolds v).train = s.train := rfl
@[simp] theorem Site.setHolds_watch (s : Site) (v : HoldCounts) : (s.setHolds v).watch = s.watch := rfl
@[simp] theorem Site.setHolds_flags (s : Site) (v : HoldCounts) : (s.setHolds v).flags = s.flags := rfl
@[simp] theorem Site.setHolds_enables (s : Site) (v : HoldCounts) : (s.setHolds v).enables = s.enables := rfl
@[simp] theorem Site.setHolds_counts (s : Site) (v : HoldCounts) : (s.setHolds v).counts = s.counts := rfl
@[simp] theorem Site.setHolds_holds (s : Site) (v : HoldCounts) : (s.setHolds v).holds = v := rfl
@[simp] theorem Site.setHolds_clock (s : Site) (v : HoldCounts) : (s.setHolds v).clock = s.clock := rfl
@[simp] theorem Site.setHolds_store (s : Site) (v : HoldCounts) : (s.setHolds v).store = s.store := rfl
@[simp] theorem Site.setHolds_freeDraws (s : Site) (v : HoldCounts) : (s.setHolds v).freeDraws = s.freeDraws := rfl

@[simp] theorem Site.setClock_mode (s : Site) (v : Clock) : (s.setClock v).mode = s.mode := rfl
@[simp] theorem Site.setClock_now (s : Site) (v : Clock) : (s.setClock v).now = s.now := rfl
@[simp] theorem Site.setClock_pins (s : Site) (v : Clock) : (s.setClock v).pins = s.pins := rfl
@[simp] theorem Site.setClock_points (s : Site) (v : Clock) : (s.setClock v).points = s.points := rfl
@[simp] theorem Site.setClock_passage (s : Site) (v : Clock) : (s.setClock v).passage = s.passage := rfl
@[simp] theorem Site.setClock_roster (s : Site) (v : Clock) : (s.setClock v).roster = s.roster := rfl
@[simp] theorem Site.setClock_modules (s : Site) (v : Clock) : (s.setClock v).modules = s.modules := rfl
@[simp] theorem Site.setClock_settings (s : Site) (v : Clock) : (s.setClock v).settings = s.settings := rfl
@[simp] theorem Site.setClock_composition (s : Site) (v : Clock) : (s.setClock v).composition = s.composition := rfl
@[simp] theorem Site.setClock_train (s : Site) (v : Clock) : (s.setClock v).train = s.train := rfl
@[simp] theorem Site.setClock_watch (s : Site) (v : Clock) : (s.setClock v).watch = s.watch := rfl
@[simp] theorem Site.setClock_flags (s : Site) (v : Clock) : (s.setClock v).flags = s.flags := rfl
@[simp] theorem Site.setClock_enables (s : Site) (v : Clock) : (s.setClock v).enables = s.enables := rfl
@[simp] theorem Site.setClock_counts (s : Site) (v : Clock) : (s.setClock v).counts = s.counts := rfl
@[simp] theorem Site.setClock_holds (s : Site) (v : Clock) : (s.setClock v).holds = s.holds := rfl
@[simp] theorem Site.setClock_clock (s : Site) (v : Clock) : (s.setClock v).clock = v := rfl
@[simp] theorem Site.setClock_store (s : Site) (v : Clock) : (s.setClock v).store = s.store := rfl
@[simp] theorem Site.setClock_freeDraws (s : Site) (v : Clock) : (s.setClock v).freeDraws = s.freeDraws := rfl

@[simp] theorem Site.setStore_mode (s : Site) (v : StoreUnit) : (s.setStore v).mode = s.mode := rfl
@[simp] theorem Site.setStore_now (s : Site) (v : StoreUnit) : (s.setStore v).now = s.now := rfl
@[simp] theorem Site.setStore_pins (s : Site) (v : StoreUnit) : (s.setStore v).pins = s.pins := rfl
@[simp] theorem Site.setStore_points (s : Site) (v : StoreUnit) : (s.setStore v).points = s.points := rfl
@[simp] theorem Site.setStore_passage (s : Site) (v : StoreUnit) : (s.setStore v).passage = s.passage := rfl
@[simp] theorem Site.setStore_roster (s : Site) (v : StoreUnit) : (s.setStore v).roster = s.roster := rfl
@[simp] theorem Site.setStore_modules (s : Site) (v : StoreUnit) : (s.setStore v).modules = s.modules := rfl
@[simp] theorem Site.setStore_settings (s : Site) (v : StoreUnit) : (s.setStore v).settings = s.settings := rfl
@[simp] theorem Site.setStore_composition (s : Site) (v : StoreUnit) : (s.setStore v).composition = s.composition := rfl
@[simp] theorem Site.setStore_train (s : Site) (v : StoreUnit) : (s.setStore v).train = s.train := rfl
@[simp] theorem Site.setStore_watch (s : Site) (v : StoreUnit) : (s.setStore v).watch = s.watch := rfl
@[simp] theorem Site.setStore_flags (s : Site) (v : StoreUnit) : (s.setStore v).flags = s.flags := rfl
@[simp] theorem Site.setStore_enables (s : Site) (v : StoreUnit) : (s.setStore v).enables = s.enables := rfl
@[simp] theorem Site.setStore_counts (s : Site) (v : StoreUnit) : (s.setStore v).counts = s.counts := rfl
@[simp] theorem Site.setStore_holds (s : Site) (v : StoreUnit) : (s.setStore v).holds = s.holds := rfl
@[simp] theorem Site.setStore_clock (s : Site) (v : StoreUnit) : (s.setStore v).clock = s.clock := rfl
@[simp] theorem Site.setStore_store (s : Site) (v : StoreUnit) : (s.setStore v).store = v := rfl
@[simp] theorem Site.setStore_freeDraws (s : Site) (v : StoreUnit) : (s.setStore v).freeDraws = s.freeDraws := rfl
@[simp] theorem Site.setFreeDraws_mode (s : Site) (v : Nat) : (s.setFreeDraws v).mode = s.mode := rfl
@[simp] theorem Site.setFreeDraws_now (s : Site) (v : Nat) : (s.setFreeDraws v).now = s.now := rfl
@[simp] theorem Site.setFreeDraws_pins (s : Site) (v : Nat) : (s.setFreeDraws v).pins = s.pins := rfl
@[simp] theorem Site.setFreeDraws_points (s : Site) (v : Nat) : (s.setFreeDraws v).points = s.points := rfl
@[simp] theorem Site.setFreeDraws_passage (s : Site) (v : Nat) : (s.setFreeDraws v).passage = s.passage := rfl
@[simp] theorem Site.setFreeDraws_roster (s : Site) (v : Nat) : (s.setFreeDraws v).roster = s.roster := rfl
@[simp] theorem Site.setFreeDraws_modules (s : Site) (v : Nat) : (s.setFreeDraws v).modules = s.modules := rfl
@[simp] theorem Site.setFreeDraws_settings (s : Site) (v : Nat) : (s.setFreeDraws v).settings = s.settings := rfl
@[simp] theorem Site.setFreeDraws_composition (s : Site) (v : Nat) : (s.setFreeDraws v).composition = s.composition := rfl
@[simp] theorem Site.setFreeDraws_train (s : Site) (v : Nat) : (s.setFreeDraws v).train = s.train := rfl
@[simp] theorem Site.setFreeDraws_watch (s : Site) (v : Nat) : (s.setFreeDraws v).watch = s.watch := rfl
@[simp] theorem Site.setFreeDraws_flags (s : Site) (v : Nat) : (s.setFreeDraws v).flags = s.flags := rfl
@[simp] theorem Site.setFreeDraws_enables (s : Site) (v : Nat) : (s.setFreeDraws v).enables = s.enables := rfl
@[simp] theorem Site.setFreeDraws_counts (s : Site) (v : Nat) : (s.setFreeDraws v).counts = s.counts := rfl
@[simp] theorem Site.setFreeDraws_holds (s : Site) (v : Nat) : (s.setFreeDraws v).holds = s.holds := rfl
@[simp] theorem Site.setFreeDraws_clock (s : Site) (v : Nat) : (s.setFreeDraws v).clock = s.clock := rfl
@[simp] theorem Site.setFreeDraws_store (s : Site) (v : Nat) : (s.setFreeDraws v).store = s.store := rfl
@[simp] theorem Site.setFreeDraws_freeDraws (s : Site) (v : Nat) : (s.setFreeDraws v).freeDraws = v := rfl

end Sys2Proof
end

