-- ==== Sys2Proof/Laws/Keeps.lean ====
section
/-! SUPPORT. What every shared operation of the point unit, the watch table, the roster, the module lines, the train table, the
passage controller and the store keeps: the invariants of Safety.lean, and whether a STORE_SAVE waits. -/

namespace Sys2Proof

/-- The enable set is empty while LOADING (R206, R207). -/
def Site.QuietLoading (s : Site) : Prop := s.mode = .loading → s.enables = 0#18

/-- A site that came from another by operations that keep every invariant and start or end no waiting STORE_SAVE. -/
structure Site.Keeps (s t : Site) : Prop where
  waiting : t.store.waiting.isSome = s.store.waiting.isSome
  queue : s.store.QueueSound → t.store.QueueSound
  holds : s.HoldsSound → t.HoldsSound
  pend : s.PendingSound → t.PendingSound
  flag : s.ClockFlagSound → t.ClockFlagSound
  nets : s.NetsSound → t.NetsSound
  quiet : s.QuietLoading → t.QuietLoading

namespace Site.Keeps

theorem refl (s : Site) : s.Keeps s := ⟨rfl, id, id, id, id, id, id⟩

theorem trans {s t u : Site} (h : s.Keeps t) (k : t.Keeps u) : s.Keeps u :=
  ⟨k.waiting.trans h.waiting, k.queue ∘ h.queue, k.holds ∘ h.holds, k.pend ∘ h.pend, k.flag ∘ h.flag, k.nets ∘ h.nets,
    k.quiet ∘ h.quiet⟩

/-- A change of none of the fields that the invariants read. -/
theorem same {s0 s t : Site} (h : s0.Keeps s) (hs : t.store = s.store) (hh : t.holds = s.holds)
    (hw : t.watch.slots = s.watch.slots) (hf : t.flags = s.flags) (hc : t.clock = s.clock) (hp : t.points = s.points)
    (hm : t.mode = s.mode) (he : t.enables = s.enables) : s0.Keeps t := by
  refine h.trans ⟨by rw [hs], by rw [hs]; exact id, ?_, ?_, ?_, ?_, ?_⟩
  · unfold Site.HoldsSound; rw [hh]; exact id
  · unfold Site.PendingSound Site.watchEntry Site.watchSlot; rw [hw]; exact id
  · unfold Site.ClockFlagSound Site.Has Site.hasFlag; rw [hf, hc]; exact id
  · unfold Site.NetsSound Site.point; rw [hp]; exact id
  · unfold Site.QuietLoading; rw [hm, he]; exact id

variable {s0 s : Site}

theorem ite {c : Prop} [Decidable c] {a b : Site} (h : s0.Keeps a) (k : s0.Keeps b) : s0.Keeps (if c then a else b) := by
  split <;> assumption

theorem iteWith {c : Prop} [Decidable c] {a b : Site} (h : c → s0.Keeps a) (k : ¬ c → s0.Keeps b) :
    s0.Keeps (if c then a else b) := by
  split
  · exact h ‹_›
  · exact k ‹_›

theorem foldl {α : Type} (f : Site → α → Site) (hf : ∀ t a, s0.Keeps t → s0.Keeps (f t a)) :
    ∀ (l : List α) (t : Site), s0.Keeps t → s0.Keeps (l.foldl f t)
  | [], _, h => h
  | a :: l, t, h => foldl f hf l (f t a) (hf t a h)

/-! ### Setters -/

theorem setNow (h : s0.Keeps s) (v) : s0.Keeps (s.setNow v) := h.same rfl rfl rfl rfl rfl rfl rfl rfl
theorem setPins (h : s0.Keeps s) (v) : s0.Keeps (s.setPins v) := h.same rfl rfl rfl rfl rfl rfl rfl rfl
theorem setPassage (h : s0.Keeps s) (v) : s0.Keeps (s.setPassage v) := h.same rfl rfl rfl rfl rfl rfl rfl rfl
theorem setRoster (h : s0.Keeps s) (v) : s0.Keeps (s.setRoster v) := h.same rfl rfl rfl rfl rfl rfl rfl rfl
theorem setModules (h : s0.Keeps s) (v) : s0.Keeps (s.setModules v) := h.same rfl rfl rfl rfl rfl rfl rfl rfl
theorem setSettings (h : s0.Keeps s) (v) : s0.Keeps (s.setSettings v) := h.same rfl rfl rfl rfl rfl rfl rfl rfl
theorem setComposition (h : s0.Keeps s) (v) : s0.Keeps (s.setComposition v) := h.same rfl rfl rfl rfl rfl rfl rfl rfl
theorem setTrain (h : s0.Keeps s) (v) : s0.Keeps (s.setTrain v) := h.same rfl rfl rfl rfl rfl rfl rfl rfl
theorem setCounts (h : s0.Keeps s) (v) : s0.Keeps (s.setCounts v) := h.same rfl rfl rfl rfl rfl rfl rfl rfl
theorem setFreeDraws (h : s0.Keeps s) (v) : s0.Keeps (s.setFreeDraws v) := h.same rfl rfl rfl rfl rfl rfl rfl rfl

theorem setWatch (h : s0.Keeps s) (v : WatchTable) (hv : v.slots = s.watch.slots) : s0.Keeps (s.setWatch v) :=
  h.same rfl rfl hv rfl rfl rfl rfl rfl

theorem setPoints (h : s0.Keeps s) (v : PointUnit) (hv : s.NetsSound → ∀ p, (v.get p).net ≤ 4095) :
    s0.Keeps (s.setPoints v) :=
  h.trans ⟨rfl, id, id, id, id, hv, id⟩

theorem setHolds (h : s0.Keeps s) (v : HoldCounts) (hv : s.HoldsSound → ∀ p, v.get p ≤ 4) : s0.Keeps (s.setHolds v) :=
  h.trans ⟨rfl, id, hv, id, id, id, id⟩

theorem setStore (h : s0.Keeps s) (v : StoreUnit) (hw : v.waiting.isSome = s.store.waiting.isSome)
    (hv : s.store.QueueSound → v.QueueSound) : s0.Keeps (s.setStore v) :=
  h.trans ⟨hw, hv, id, id, id, id, id⟩

theorem setFlags (h : s0.Keeps s) (v : BitVec 18) (hv : s.ClockFlagSound → (s.setFlags v).ClockFlagSound) :
    s0.Keeps (s.setFlags v) :=
  h.trans ⟨rfl, id, id, id, hv, id, id⟩

theorem setClock (h : s0.Keeps s) (v : Clock) (hv : v.isSet = s.clock.isSet ∨ v.isSet = true) : s0.Keeps (s.setClock v) := by
  refine h.trans ⟨rfl, id, id, id, ?_, id, id⟩
  intro k hu
  have hu' : v.isSet = false := hu
  rcases hv with e | e
  · exact k (e.symm.trans hu')
  · rw [hu'] at e; exact absurd e (by decide)

theorem storeSame (h : s0.Keeps s) (v : StoreUnit) (hw : v.waiting = s.store.waiting) (hq : v.queue = s.store.queue)
    (hf : v.inFlight = s.store.inFlight) : s0.Keeps (s.setStore v) :=
  h.setStore v (by rw [hw]) (by unfold StoreUnit.QueueSound; rw [hq, hf]; exact id)

/-! ### Points -/

theorem get_put (u : PointUnit) (p q : PointId) (v : Point) : (u.put p v).get q = if q = p then v else u.get q := by
  cases p <;> cases q <;> rfl

theorem putPoint (h : s0.Keeps s) (p : PointId) (v : Point) (hv : (s.point p).net ≤ 4095 → v.net ≤ 4095) :
    s0.Keeps (s.putPoint p v) := by
  refine h.setPoints _ (fun k q => ?_)
  rw [get_put]
  split
  · exact hv (k p)
  · exact k q

/-! ### Causes, flags, records -/

theorem addPending (h : s0.Keeps s) (c) : s0.Keeps (s.addPending c) := h.setPassage _
theorem addRecordCause (h : s0.Keeps s) (c) : s0.Keeps (s.addRecordCause c) := h.setTrain _
theorem addCause (h : s0.Keeps s) (c) : s0.Keeps (s.addCause c) := ite (h.addRecordCause c) (h.addPending c)
theorem addRecordCauseIf (h : s0.Keeps s) (b c) : s0.Keeps (s.addRecordCauseIf b c) := ite (h.addRecordCause c) h

theorem has_setAdd (f : BitVec 18) (i j : Nat) (h : setHas f i = true) : setHas (setAdd f j) i = true := by
  simp only [setHas, setAdd, BitVec.getLsbD_or] at *
  simp [h]

theorem has_setAdd_self (f : BitVec 18) (i : Nat) (h : i < 18) : setHas (setAdd f i) i = true := by
  simp only [setHas, setAdd, BitVec.getLsbD_or, BitVec.getLsbD_twoPow]
  simp [h]

theorem raise (h : s0.Keeps s) (f : Flag) : s0.Keeps (s.raise f) :=
  h.setFlags _ (fun k hu => has_setAdd _ _ _ (k hu))

theorem raiseIf (h : s0.Keeps s) (b) (f : Flag) : s0.Keeps (s.raiseIf b f) := ite (h.raise f) h

/-- Whatever the flags were, `keepClockUnset` leaves CLOCK_UNSET right. -/
theorem keepClockUnset_sound (s : Site) : s.keepClockUnset.ClockFlagSound := by
  intro hu
  unfold Site.keepClockUnset Site.raiseIf at *
  cases hb : s.clock.isSet
  · simp only [Bool.not_false, if_true]
    exact has_setAdd_self _ _ (by decide)
  · simp [hb] at hu

theorem keepClockUnset (h : s0.Keeps s) : s0.Keeps s.keepClockUnset := h.raiseIf _ _

theorem clearFlags (h : s0.Keeps s) (v) : s0.Keeps (s.clearFlags v) := by
  refine h.trans ⟨?_, ?_, ?_, ?_, fun _ => keepClockUnset_sound _, ?_, ?_⟩ <;>
    (unfold Site.clearFlags Site.keepClockUnset Site.raiseIf; split) <;> first | rfl | exact id

theorem putRecord (h : s0.Keeps s) (i r) : s0.Keeps (s.putRecord i r) := h.setTrain _
theorem updateRecord (h : s0.Keeps s) (p f) : s0.Keeps (s.updateRecord p f) := h.setTrain _
theorem updatePassage (h : s0.Keeps s) (f) : s0.Keeps (s.updatePassage f) := h.setPassage _
theorem setTimers (h : s0.Keeps s) (t) : s0.Keeps (s.setTimers t) := h.setPassage _
theorem updateTimers (h : s0.Keeps s) (f) : s0.Keeps (s.updateTimers f) := h.setTimers _
theorem putLine (h : s0.Keeps s) (n l) : s0.Keeps (s.putLine n l) := h.setModules _
theorem updateLine (h : s0.Keeps s) (n f) : s0.Keeps (s.updateLine n f) := h.setModules _
theorem mapLines (h : s0.Keeps s) (f) : s0.Keeps (s.mapLines f) := h.setModules _

/-! ### Store queue -/

theorem enqueue_sound (u : StoreUnit) (i : StoreItem) (k : u.QueueSound) : (u.enqueue i).QueueSound := by
  obtain ⟨hn, hf⟩ := k
  have happ : i ∉ u.queue → (u.queue ++ [i]).Nodup := fun hi => by
    simp [List.nodup_append, hn]; exact fun a ha e => hi (e ▸ ha)
  unfold StoreUnit.enqueue
  split
  · next w hw =>
    split
    · refine ⟨hn, fun w' hw' => ?_⟩
      simp only [Option.some.injEq] at hw'
      subst hw'
      exact hf w hw
    · next hne =>
      split
      · exact ⟨hn, hf⟩
      · next hi =>
        refine ⟨happ hi, fun w' hw' => ?_⟩
        have hw'' : u.inFlight = some w' := hw'
        rw [hw] at hw''
        simp only [Option.some.injEq] at hw''
        subst hw''
        simp only [List.mem_append, List.mem_singleton, not_or]
        exact ⟨hf w hw, hne⟩
  · next hw =>
    split
    · exact ⟨hn, hf⟩
    · next hi =>
      refine ⟨happ hi, fun w' hw' => ?_⟩
      have hw'' : u.inFlight = some w' := hw'
      rw [hw] at hw''
      exact absurd hw'' (by simp)

theorem enqueue_waiting (u : StoreUnit) (i : StoreItem) : (u.enqueue i).waiting = u.waiting := by
  unfold StoreUnit.enqueue
  repeat' split
  all_goals rfl

theorem enqueue (h : s0.Keeps s) (i) : s0.Keeps (s.enqueue i) :=
  h.setStore _ (by rw [enqueue_waiting]) (enqueue_sound _ i)

/-! ### Holds -/

theorem loseHold (h : s0.Keeps s) (p) : s0.Keeps (s.loseHold p) := by
  refine h.setHolds _ (fun k q => ?_)
  have h1 := k .siteLink; have h2 := k .servicePort
  simp only [HoldCounts.get] at h1 h2
  cases p <;> cases q <;> simp only [HoldCounts.dec, HoldCounts.get] <;> omega

theorem gainHold (h : s0.Keeps s) (p : Port) (hp : s.holds.get p < 4) : s0.Keeps (s.gainHold p) := by
  refine h.setHolds _ (fun k q => ?_)
  have h1 := k .siteLink; have h2 := k .servicePort
  simp only [HoldCounts.get] at h1 h2
  cases p <;> cases q <;> simp only [HoldCounts.inc, HoldCounts.get] at * <;> omega

/-! ### Watch slots -/

theorem watchEntry_put (s : Site) (i j : Fin 512) (w : WatchSlot) :
    (s.putWatchSlot i w).watchEntry j = if j = i then w.entry else s.watchEntry j := by
  show ((s.watch.slots.set i.val w)[j]).entry = _
  by_cases e : j = i
  · subst e; simp
  · have hv : i.val ≠ j.val := fun h => e (Fin.ext h.symm)
    simp [e, Site.watchEntry, Site.watchSlot, Vector.getElem_set_ne, hv]

theorem putWatchSlot (h : s0.Keeps s) (i : Fin 512) (w : WatchSlot)
    (hw : s.PendingSound → ∀ e, w.entry = some e → e.PendingSound) : s0.Keeps (s.putWatchSlot i w) := by
  refine h.trans ⟨rfl, id, id, fun k j e he => ?_, id, id, id⟩
  rw [watchEntry_put] at he
  split at he
  · exact hw k e he
  · exact k j e he

theorem putEntry (h : s0.Keeps s) (i : Fin 512) (e : WatchEntry) (he : s.PendingSound → e.PendingSound) :
    s0.Keeps (s.putEntry i e) :=
  h.putWatchSlot i _ (fun k f hf => by
    have : e = f := by simpa using hf
    exact this ▸ he k)

theorem putNotice (h : s0.Keeps s) (i : Fin 512) (p : Port) (b : Bool) :
    s0.Keeps (s.putWatchSlot i ((s.watchSlot i).setNotice p b)) :=
  h.putWatchSlot i _ (fun k f hf => by
    refine k i f ?_
    cases p <;> exact hf)

end Site.Keeps

end Sys2Proof
end

