-- ==== Sys2Proof/Laws/KeepsWatch.lean ====
section
/-! SUPPORT. The operations of the watch table keep the invariants of Safety.lean (R167 to R190). -/

namespace Sys2Proof

/-! ### What an application does to one entry -/

/-- Applying a contribution touches neither the hold nor the pending list of an entry that stays. -/
theorem WatchEntry.reconsider_holds {e f : WatchEntry} {b : SettingsBlock} {g : Grade} {t : Bool}
    (h : (e.reconsider b g t).entry = some f) : f.hold = e.hold ∧ f.pending = e.pending := by
  unfold WatchEntry.reconsider WatchEntry.raiseLevel at h
  repeat' split at h
  all_goals first
    | (simp only [Option.some.injEq] at h; subst h; exact ⟨rfl, rfl⟩)
    | exact absurd h (by simp)

theorem WatchEntry.countGrade_holds (e : WatchEntry) (g : Grade) (d : Bool) :
    (e.countGrade g d).hold = e.hold ∧ (e.countGrade g d).pending = e.pending := by
  unfold WatchEntry.countGrade
  repeat' split
  all_goals exact ⟨rfl, rfl⟩

theorem WatchEntry.takePassage_holds (e : WatchEntry) (w : Word16) (n : Serial) (d : Date) (g : Grade) (x : Bool)
    (v : SideValues) : (e.takePassage w n d g x v).hold = e.hold ∧ (e.takePassage w n d g x v).pending = e.pending := by
  unfold WatchEntry.takePassage
  exact WatchEntry.countGrade_holds _ g x

theorem WatchEntry.apply_holds {e f : WatchEntry} {b : SettingsBlock} {w : Word16} {c : Contribution} {a : Applied}
    (h : e.apply b w c = some a) (hf : a.entry = some f) : f.hold = e.hold ∧ f.pending = e.pending := by
  cases c with
  | passage k n d g x v =>
    simp only [WatchEntry.apply, Option.some.injEq] at h
    subst h
    have h1 := WatchEntry.reconsider_holds hf
    exact ⟨h1.1.trans (e.takePassage_holds w n d g x v).1, h1.2.trans (e.takePassage_holds w n d g x v).2⟩
  | resolution k g =>
    simp only [WatchEntry.apply, Option.some.injEq] at h
    subst h
    have h1 := WatchEntry.reconsider_holds hf
    exact ⟨h1.1.trans (e.countGrade_holds g false).1, h1.2.trans (e.countGrade_holds g false).2⟩
  | sweep n =>
    simp only [WatchEntry.apply] at h
    split at h
    · exact absurd h (by simp)
    · simp only [Option.some.injEq] at h
      subst h
      simp only [WatchEntry.takeSweep] at hf
      repeat' split at hf
      all_goals first
        | (simp only [Option.some.injEq] at hf; subst hf; exact ⟨rfl, rfl⟩)
        | exact absurd hf (by simp)

theorem WatchEntry.PendingSound.of_same {e f : WatchEntry} (h : f.hold = e.hold ∧ f.pending = e.pending)
    (k : e.PendingSound) : f.PendingSound := by
  unfold WatchEntry.PendingSound; rw [h.1, h.2]; exact k

theorem WatchEntry.PendingSound.empty {e : WatchEntry} (h : e.pending = []) : e.PendingSound := by
  unfold WatchEntry.PendingSound; rw [h]; simp

namespace Site.Keeps

variable {s0 s : Site}

theorem freeSlot (h : s0.Keeps s) (i) : s0.Keeps (s.freeSlot i) :=
  (h.putWatchSlot i _ (fun _ _ he => absurd he (by simp))).enqueue _

theorem putApplied (h : s0.Keeps s) (i : Fin 512) (a : Applied)
    (ha : ∀ f, a.entry = some f → s.PendingSound → f.PendingSound) : s0.Keeps (s.putApplied i a) := by
  unfold Site.putApplied
  split
  · next e he => exact ((h.putEntry i e (ha e he)).enqueue _).raiseIf _ _
  · exact h.freeSlot i

theorem applyAt (h : s0.Keeps s) (i c) : s0.Keeps (s.applyAt i c) := by
  unfold Site.applyAt
  split
  · next e he =>
    split
    · next a ha => exact h.putApplied i a (fun f hf k => (k i e he).of_same (WatchEntry.apply_holds ha hf))
    · exact h
  · exact h

theorem refuseRaise (h : s0.Keeps s) : s0.Keeps s.refuseRaise := (h.setCounts _).raise _

theorem raiseEntry (h : s0.Keeps s) (k g c) : s0.Keeps (s.raiseEntry k g c) := by
  unfold Site.raiseEntry
  split
  · split
    · exact ite (((h.putEntry _ _ (fun _ => .empty rfl)).applyAt _ _).raise _) h.refuseRaise
    · exact h.refuseRaise
  · exact h

theorem takeUnheld (h : s0.Keeps s) (c) : s0.Keeps (s.takeUnheld c) := by
  unfold Site.takeUnheld
  repeat' split
  all_goals first | exact h | exact h.applyAt _ _ | exact h.raiseEntry _ _ _

theorem applyPending (i : Fin 512) : ∀ (cs : List Contribution) (b : Bool) (t : Site), s0.Keeps t →
    s0.Keeps (Site.applyPending i cs b t).1
  | [], _, _, h => h
  | _ :: cs, true, _, h => applyPending i cs _ _ (h.applyAt _ _)
  | _ :: cs, false, _, h => applyPending i cs _ _ (h.takeUnheld _)

theorem endHold (h : s0.Keeps s) (i) : s0.Keeps (s.endHold i) := by
  unfold Site.endHold
  split
  · split
    · exact (h.putEntry i _ (fun _ => .empty rfl)).loseHold _
    · exact h
  · exact h

theorem breakHold (h : s0.Keeps s) (i hd cs) : s0.Keeps (s.breakHold i hd cs) := by
  unfold Site.breakHold
  exact applyPending i cs true _ (((h.endHold i).raise _).putNotice i hd.port true)

theorem pendAt (h : s0.Keeps s) (i : Fin 512) (e : WatchEntry) (hd : Hold) (c) (he : e.hold = some hd) :
    s0.Keeps (s.pend i e hd c) := by
  unfold Site.pend
  split
  · next hl =>
    refine h.putEntry i _ (fun _ => ⟨?_, fun _ => by simp [he]⟩)
    simp only [List.length_append, List.length_singleton]
    omega
  · exact h.breakHold i hd _

theorem takeAt (h : s0.Keeps s) (i c) : s0.Keeps (s.takeAt i c) := by
  unfold Site.takeAt
  split
  · next e _ =>
    split
    · next hd hh => exact h.pendAt i e hd c hh
    · exact h.applyAt i c
  · exact h

theorem takeKeyed (h : s0.Keeps s) (k g c) : s0.Keeps (s.takeKeyed k g c) := by
  unfold Site.takeKeyed
  split
  · exact h.takeAt _ _
  · exact h.raiseEntry _ _ _

theorem contribute (h : s0.Keeps s) (c) : s0.Keeps (s.contribute c) := by
  cases c with
  | passage k n d g x v => exact h.takeKeyed k g (.passage k n d g x v)
  | resolution k g => exact h.takeKeyed k g (.resolution k g)
  | sweep n => exact h

theorem releaseEntry (h : s0.Keeps s) (i e) : s0.Keeps (s.releaseEntry i e).1 := by
  unfold Site.releaseEntry
  exact applyPending i _ true _ (h.endHold i)

/-! ### The sweep -/

theorem startSweep (h : s0.Keeps s) : s0.Keeps s.startSweep := h.setWatch _ rfl
theorem setStartPending (h : s0.Keeps s) (b) : s0.Keeps (s.setStartPending b) := h.setWatch _ rfl
theorem setSweep (h : s0.Keeps s) (v) : s0.Keeps (s.setSweep v) := h.setWatch _ rfl
theorem takeSweepStart (h : s0.Keeps s) : s0.Keeps s.takeSweepStart := ite (ite (h.setStartPending _) h.startSweep) h
theorem suspendSweep (h : s0.Keeps s) : s0.Keeps s.suspendSweep := ite (h.setSweep _) h
theorem resumeSweep (h : s0.Keeps s) : s0.Keeps s.resumeSweep := ite (h.setSweep _) h
theorem startPendingSweep (h : s0.Keeps s) : s0.Keeps s.startPendingSweep := ite h.startSweep h

theorem visit (h : s0.Keeps s) (i) : s0.Keeps (s.visit i) := by
  unfold Site.visit
  split
  · exact ite h (h.takeAt _ _)
  · exact h

theorem advanceCursor (h : s0.Keeps s) : s0.Keeps s.advanceCursor := by
  unfold Site.advanceCursor
  split
  · exact h.setWatch _ rfl
  · exact (h.setWatch { s.watch with cursor := 0, sweepState := .idle } rfl).raise _

theorem sweepVisit (h : s0.Keeps s) : s0.Keeps s.sweepVisit := by
  unfold Site.sweepVisit
  repeat' split
  all_goals first | exact (h.visit _).advanceCursor | exact h.advanceCursor | exact h

theorem resetWatch (h : s0.Keeps s) : s0.Keeps s.resetWatch := by
  unfold Site.resetWatch
  refine foldl _ (fun t i k => applyPending i _ true t k) _ _ ?_
  refine setHolds ?_ { link := 0, service := 0 } (fun _ q => by cases q <;> decide)
  refine h.trans ⟨rfl, id, id, ?_, id, id, id⟩
  intro _ i e he
  have : ((tableMap WatchSlot.atReset s.watch.slots)[i]).entry = some e := he
  simp only [tableMap, Fin.getElem_fin, Vector.getElem_mk, List.getElem_toArray, List.getElem_map,
    WatchSlot.atReset, Option.map_eq_some_iff] at this
  obtain ⟨f, _, rfl⟩ := this
  exact .empty rfl

theorem sendResolution (h : s0.Keeps s) (k g) : s0.Keeps (s.sendResolution k g) := by
  cases k with
  | none => exact h
  | some k => exact h.contribute (.resolution k g)

theorem tellBroken (h : s0.Keeps s) (i p) : s0.Keeps (s.tellBroken i p).site := by
  unfold Site.tellBroken
  exact h.putNotice i p false

theorem watchLeaseExpiry (h : s0.Keeps s) (i) : s0.Keeps (s.watchLeaseExpiry i) := by
  unfold Site.watchLeaseExpiry
  split
  · exact (h.raise _).releaseEntry _ _
  · exact h

end Site.Keeps

end Sys2Proof
end

