-- ==== Sys2Proof/Laws/KeepsPassage.lean ====
section
/-! SUPPORT. The operations of the point unit, the roster, the module lines, the train table and the passage controller keep the
invariants of Safety.lean. -/

namespace Sys2Proof

/-- A point's health and its machine leave the net count as it stands. -/
theorem Point.setHealth_net (p : Point) (n : HeadNo) (v : HeadHealth) : (p.setHealth n v).net = p.net := by
  unfold Point.setHealth
  cases n <;> (dsimp only; split <;> rfl)

theorem Point.normalStep_net (p : Point) (n : HeadNo) (v : Level) (now : Nat) : (p.normalStep n v now).point.net = p.net := by
  unfold Point.normalStep
  split <;> first | rfl | (unfold Point.settle; split <;> rfl)

theorem Point.degradedStep_net (p : Point) (n : HeadNo) (v : Level) (now : Nat) (d : Dir) :
    (p.degradedStep n v now d).point.net = p.net := by
  unfold Point.degradedStep
  split <;> first | rfl | (unfold Point.settle; split <;> rfl)

theorem Point.count_bound (p : Point) (b : Bool) (h : p.net ≤ 4095) : (p.count b).1.net ≤ 4095 := by
  unfold Point.count
  repeat' split
  all_goals simp only
  all_goals omega

namespace Site.Keeps

variable {s0 s : Site}

/-! ### Points -/

theorem setHealth (h : s0.Keeps s) (hd v) : s0.Keeps (s.setHealth hd v) := by
  unfold Site.setHealth
  exact (h.putPoint _ _ (fun k => by rw [Point.setHealth_net]; exact k)).raiseIf _ _

theorem cutOffStanding (h : s0.Keeps s) : s0.Keeps s.cutOffStanding :=
  foldl _ (fun _ _ k => ite (k.setHealth _ _) k) _ _ h

theorem setDirection (h : s0.Keeps s) (d) : s0.Keeps (s.setDirection d) :=
  h.setPoints _ (fun _ p => by cases p <;> exact Nat.zero_le _)

theorem clearDirection (h : s0.Keeps s) : s0.Keeps s.clearDirection :=
  h.setPoints _ (fun k p => by have := k p; cases p <;> exact this)

theorem recordCrossing (h : s0.Keeps s) (p d i) : s0.Keeps (s.recordCrossing p d i) := h.putPoint _ _ id
theorem countSpurious (h : s0.Keeps s) (p) : s0.Keeps (s.countSpurious p) := h.putPoint _ _ id

/-! ### Roster -/

theorem cursorsIntoRoster (h : s0.Keeps s) : s0.Keeps s.cursorsIntoRoster := h.setModules _
theorem appendAxle (h : s0.Keeps s) (t v g) : s0.Keeps (s.appendAxle t v g) := by
  unfold Site.appendAxle
  exact ((((h.setRoster _).addRecordCauseIf _ _).addRecordCauseIf _ _).addRecordCauseIf _ _).cursorsIntoRoster
theorem rosterRise (h : s0.Keeps s) (m t v g) : s0.Keeps (s.rosterRise m t v g) :=
  ite (h.addRecordCause _) (ite (h.appendAxle _ _ _) (h.setRoster _))
theorem rosterFall (h : s0.Keeps s) (n) : s0.Keeps (s.rosterFall n) := ite (h.setRoster _) h
theorem fillAxles : ∀ (k : Nat) (t : Site), s0.Keeps t → s0.Keeps (Sys2Proof.fillAxles k t)
  | 0, _, h => h
  | k + 1, _, h => fillAxles k _ (h.appendAxle _ _ _)
theorem fillRoster (h : s0.Keeps s) (n) : s0.Keeps (s.fillRoster n) := by
  unfold Site.fillRoster
  exact (fillAxles _ _ h).addRecordCauseIf _ _
theorem startRoster (h : s0.Keeps s) : s0.Keeps s.startRoster := h.setRoster _
theorem finaliseRoster (h : s0.Keeps s) : s0.Keeps s.finaliseRoster := h.setRoster _
theorem tagConflict (h : s0.Keeps s) (p) : s0.Keeps (s.tagConflict p) := (h.setRoster _).addRecordCause _
theorem assignTag (h : s0.Keeps s) (t e) : s0.Keeps (s.assignTag t e) := by
  unfold Site.assignTag
  repeat' split
  all_goals first | exact h | exact h.tagConflict _ | exact h.setRoster _
theorem takeTag (h : s0.Keeps s) (t) : s0.Keeps (s.takeTag t) := by
  unfold Site.takeTag
  dsimp only
  repeat' split
  all_goals first | exact h.setRoster _ | exact h.assignTag _ _

/-! ### Module lines -/

theorem sendStandDown (h : s0.Keeps s) : s0.Keeps s.sendStandDown := h.mapLines _
theorem standDownModules (h : s0.Keeps s) : s0.Keeps s.standDownModules := h.sendStandDown.mapLines _
theorem sendArm (h : s0.Keeps s) (d) : s0.Keeps (s.sendArm d) := h.setModules _
theorem becomeArmed (h : s0.Keeps s) : s0.Keeps s.becomeArmed := ite (h.setPassage _) h
theorem stopArmTimer (h : s0.Keeps s) : s0.Keeps s.stopArmTimer := h.setTimers _
theorem startArmTimer (h : s0.Keeps s) : s0.Keeps s.startArmTimer := ite h (h.setTimers _)
theorem readyReported (h : s0.Keeps s) : s0.Keeps s.readyReported := ite h.stopArmTimer.becomeArmed h
theorem giveUpModules (h : s0.Keeps s) : s0.Keeps s.giveUpModules := h.mapLines _
theorem armExpiry (h : s0.Keeps s) : s0.Keeps s.armExpiry := h.giveUpModules.stopArmTimer.becomeArmed
theorem armTimerAtClose (h : s0.Keeps s) : s0.Keeps s.armTimerAtClose := ite h.giveUpModules.stopArmTimer h
theorem completeModules (h : s0.Keeps s) : s0.Keeps s.completeModules :=
  (((h.addRecordCauseIf _ _).raiseIf _ _).raiseIf _ _).mapLines _
theorem resetModules (h : s0.Keeps s) : s0.Keeps s.resetModules := h.setModules _
theorem moduleFrame (h : s0.Keeps s) (n f take) (ht : ∀ t, s0.Keeps t → s0.Keeps (take t)) :
    s0.Keeps (s.takeFrame n f take) := by
  unfold Site.takeFrame
  dsimp only
  repeat' split
  all_goals first
    | exact h
    | exact (h.updateLine _ _).updateLine _ _
    | exact ht _ (h.updateLine _ _)
theorem moduleReady (h : s0.Keeps s) (n p) : s0.Keeps (s.moduleReady n p) :=
  ite ((h.updateLine _ _).setModules _) (h.updateLine _ _)
theorem takeReady (h : s0.Keeps s) (n p) : s0.Keeps (s.takeReady n p) := by
  unfold Site.takeReady
  split
  all_goals first | exact (h.moduleReady _ _).readyReported | exact (h.moduleReady _ _).addCause _ | exact h
theorem missingCrossing (h : s0.Keeps s) (n) : s0.Keeps (s.missingCrossing n) :=
  ite (h.putLine _ _) (ite (h.putLine _ _) (h.putLine _ _))
theorem missingCrossings (n) : ∀ (k : Nat) (t : Site), s0.Keeps t → s0.Keeps (Site.missingCrossings n k t)
  | 0, _, h => h
  | k + 1, _, h => missingCrossings n k _ (h.missingCrossing n)
theorem reverseReport (h : s0.Keeps s) (n) : s0.Keeps (s.reverseReport n) :=
  ite (h.putLine _ _) (ite ((h.setRoster _).putLine _ _) h)
theorem forwardReport (h : s0.Keeps s) (n v) : s0.Keeps (s.forwardReport n v) :=
  ite ((h.putLine _ _).setRoster _) (ite (h.putLine _ _) ((h.updateLine _ _).addCause _))
theorem placeReport (h : s0.Keeps s) (n p) : s0.Keeps (s.placeReport n p) := ite (h.forwardReport _ _) (h.reverseReport _)
theorem takeReport (h : s0.Keeps s) (n f) : s0.Keeps (s.takeReport n f) := by
  unfold Site.takeReport
  exact ite (((missingCrossings n _ _ h).placeReport _ _).updateLine _ _) (h.updateLine _ _)
theorem readyFrame (h : s0.Keeps s) (n f) : s0.Keeps (s.readyFrame n f) := h.moduleFrame _ _ _ (fun _ k => k.takeReady _ _)
theorem reportFrame (h : s0.Keeps s) (n f) : s0.Keeps (s.reportFrame n f) :=
  h.moduleFrame _ _ _ (fun _ k => (k.takeReady _ _).takeReport _ _)
theorem tagFrame (h : s0.Keeps s) (f) : s0.Keeps (s.tagFrame f) :=
  h.moduleFrame _ _ _ (fun _ k => (k.takeReady _ _).takeTag _)
theorem moduleGap (h : s0.Keeps s) (n b) : s0.Keeps (s.moduleGap n b) := h.updateLine _ _
theorem discardModuleFrame (h : s0.Keeps s) (n d) : s0.Keeps (s.discardModuleFrame n d) := by
  unfold Site.discardModuleFrame
  split <;> exact h.updateLine _ _

/-! ### Train table -/

theorem breakTrainHold (h : s0.Keeps s) (r) : s0.Keeps (s.breakTrainHold r) := by
  unfold Site.breakTrainHold
  split
  · exact (h.loseHold _).raise _
  · exact h
theorem abandonDeferred (h : s0.Keeps s) (r) : s0.Keeps (s.abandonDeferred r) := h.setCounts _
theorem accountReclaim (h : s0.Keeps s) (r) : s0.Keeps (s.accountReclaim r) :=
  (ite h ((h.setCounts _).raise _)).abandonDeferred _
theorem reclaim (h : s0.Keeps s) (i) : s0.Keeps (s.reclaim i) := by
  unfold Site.reclaim
  split
  · exact (h.breakTrainHold _).accountReclaim _
  · exact h
theorem openRecord (h : s0.Keeps s) (d) : s0.Keeps (s.openRecord d) := by
  unfold Site.openRecord
  exact ((h.reclaim _).putRecord _ _).setPassage _
theorem closeRecord (h : s0.Keeps s) (o) : s0.Keeps (s.closeRecord o) := h.updateRecord _ _
theorem endTrainHold (h : s0.Keeps s) (i r p) : s0.Keeps (s.endTrainHold i r p) := (h.putRecord _ _).loseHold _
theorem trainLeaseExpiry (h : s0.Keeps s) (i) : s0.Keeps (s.trainLeaseExpiry i) := by
  unfold Site.trainLeaseExpiry
  repeat' split
  all_goals first | exact h | exact (h.endTrainHold _ _ _).raise _
theorem retireRecord (h : s0.Keeps s) (i r p) : s0.Keeps (s.retireRecord i r p) := by
  unfold Site.retireRecord
  exact (ite ((h.abandonDeferred _).loseHold _) (h.abandonDeferred _)).putRecord _ _

/-! ### Passage controller -/

theorem takeSerial (h : s0.Keeps s) : s0.Keeps s.takeSerial := by
  unfold Site.takeSerial
  dsimp only
  refine enqueue (storeSame ?_ _ (by rfl) (by rfl) (by rfl)) _
  exact (h.updatePassage _).setModules _
theorem falseApproach (h : s0.Keeps s) : s0.Keeps s.falseApproach := h.updatePassage _
theorem callModules (h : s0.Keeps s) (d) : s0.Keeps (s.callModules d) :=
  (((h.updatePassage _).takeSerial.setDirection _).sendArm _).startArmTimer
theorem armedAtOnce (h : s0.Keeps s) : s0.Keeps s.armedAtOnce := ite h.becomeArmed h
theorem armSite (h : s0.Keeps s) (d) : s0.Keeps (s.armSite d) :=
  ite (h.falseApproach.raise _) (((h.callModules _).updatePassage _).armedAtOnce)
theorem openPassage (h : s0.Keeps s) (d b) : s0.Keeps (s.openPassage d b) := by
  unfold Site.openPassage
  exact ((((h.openRecord _).startRoster).addRecordCauseIf _ _).updatePassage _).suspendSweep
theorem applyMismatch (h : s0.Keeps s) (d) : s0.Keeps (s.applyMismatch d) :=
  ite h (((h.addPending _).setDirection _).setModules _)
theorem headFor (h : s0.Keeps s) (d) : s0.Keeps (s.headFor d) := h.updatePassage _
theorem openUnannounced (h : s0.Keeps s) (d) : s0.Keeps (s.openUnannounced d) := by
  unfold Site.openUnannounced
  exact (((h.headFor _).callModules _).addPending _).openPassage _ _
theorem fromArming (h : s0.Keeps s) (d) : s0.Keeps (s.fromArming d) := by
  unfold Site.fromArming
  exact ((ite (h.addPending _) (h.updateTimers _)).headFor _).applyMismatch _
theorem openArmed (h : s0.Keeps s) (d) : s0.Keeps (s.openArmed d) := by
  unfold Site.openArmed
  exact (h.fromArming _).openPassage _ _
theorem holdOpening (h : s0.Keeps s) (d) : s0.Keeps (s.holdOpening d) := by
  unfold Site.holdOpening
  exact ((ite (((h.headFor _).callModules _).addPending _) (h.fromArming _)).addPending _).updatePassage _
theorem takeGateCrossing (h : s0.Keeps s) (p d i) : s0.Keeps (s.takeGateCrossing p d i).1 := by
  unfold Site.takeGateCrossing
  dsimp only
  repeat' split
  all_goals first | exact h | (dsimp only; exact h.updatePassage _)
theorem becomeClearing (h : s0.Keeps s) (o) : s0.Keeps (s.becomeClearing o) := h.updatePassage _
theorem testClearing (h : s0.Keeps s) : s0.Keeps s.testClearing := ite (h.becomeClearing _) h
theorem testWithdrawal (h : s0.Keeps s) : s0.Keeps s.testWithdrawal := ite (h.becomeClearing _) h
theorem testGateCounts (h : s0.Keeps s) : s0.Keeps s.testGateCounts := h.addRecordCauseIf _ _
theorem clearUnchecked (h : s0.Keeps s) : s0.Keeps s.clearUnchecked := (h.becomeClearing _).addRecordCause _
theorem testMembership (h : s0.Keeps s) : s0.Keeps s.testMembership := by
  have h1 := h.testGateCounts
  unfold Site.testMembership
  dsimp only
  repeat' split
  all_goals first | exact h1.testClearing | exact h1.clearUnchecked | exact h1.addRecordCause _ | exact h1
theorem leaveCheckSet (h : s0.Keeps s) (p) : s0.Keeps (s.leaveCheckSet p) := ite (h.updatePassage _).testMembership h
theorem changeHealth (h : s0.Keeps s) (hd v) : s0.Keeps (s.changeHealth hd v) :=
  ite ((h.setHealth _ _).leaveCheckSet _) (h.setHealth _ _)
theorem returnToPassage (h : s0.Keeps s) : s0.Keeps s.returnToPassage := h.updatePassage _
theorem takeOpenCrossing (h : s0.Keeps s) (p) : s0.Keeps (s.takeOpenCrossing p) := by
  unfold Site.takeOpenCrossing
  repeat' split
  all_goals first | exact h.returnToPassage | exact h
theorem testOpposing (h : s0.Keeps s) (p d) : s0.Keeps (s.testOpposing p d) := by
  unfold Site.testOpposing
  repeat' split
  all_goals first | exact (h.addPending _).raise _ | exact h
theorem takeFirstGate (h : s0.Keeps s) (d) : s0.Keeps (s.takeFirstGate d) :=
  ite (h.holdOpening _) (ite (h.openUnannounced _) (h.openArmed _))
theorem takeApproach (h : s0.Keeps s) (p d) : s0.Keeps (s.takeApproach p d) :=
  ite (ite (h.armSite _) h) (h.testOpposing _ _)
theorem takeCrossing (h : s0.Keeps s) (p d i) : s0.Keeps (s.takeCrossing p d i).1 := by
  unfold Site.takeCrossing
  exact (ite (h.takeOpenCrossing _) (ite (h.takeApproach _ _) (ite h (h.takeFirstGate _)))).takeGateCrossing _ _ _
theorem gateChanged (h : s0.Keeps s) (o n f) : s0.Keeps (s.gateChanged o n f) :=
  ite ((h.rosterRise _ _ _ _).updatePassage _) ((h.addRecordCause _).rosterFall _)
theorem netChanged (h : s0.Keeps s) (p o n f) : s0.Keeps (s.netChanged p o n f) := by
  unfold Site.netChanged
  dsimp only
  refine ite ?_ (ite (h.addPending _) h)
  have h1 : s0.Keeps (if (s.passage.gate.map Gate.point == some p) = true then s.gateChanged o n f else s) :=
    ite (h.gateChanged _ _ _) h
  revert h1
  generalize (if (s.passage.gate.map Gate.point == some p) = true then s.gateChanged o n f else s) = a
  intro h1
  have h2 : s0.Keeps (if p.gate.isSome = true then a.testGateCounts else a) := ite h1.testGateCounts h1
  revert h2
  generalize (if p.gate.isSome = true then a.testGateCounts else a) = b
  intro h2
  have h3 : s0.Keeps (if (s.passage.gate.map Gate.point == some p && decide (n < o)) = true then b.testWithdrawal else b) :=
    ite h2.testWithdrawal h2
  revert h3
  generalize (if (s.passage.gate.map Gate.point == some p && decide (n < o)) = true then b.testWithdrawal else b) = c
  intro h3
  exact ite h3.testClearing h3
theorem countCrossing (h : s0.Keeps s) (p d f) : s0.Keeps (s.countCrossing p d f) := by
  unfold Site.countCrossing
  split
  · exact h
  · split
    · next q o n hq =>
      refine (h.putPoint _ _ (fun k => ?_)).netChanged _ _ _ _
      have := Point.count_bound (s.point p) (d == ‹Dir›) k
      rw [hq] at this; exact this
    · next q hq =>
      refine h.putPoint _ _ (fun k => ?_)
      have := Point.count_bound (s.point p) (d == ‹Dir›) k
      rw [hq] at this; exact this
theorem close (h : s0.Keeps s) (o) : s0.Keeps (s.close o) := by
  unfold Site.close
  exact ((((((((h.sendStandDown.armTimerAtClose).cutOffStanding).completeModules).finaliseRoster).closeRecord o).setComposition
    _).clearDirection).updatePassage _).startPendingSweep
theorem effectHeld (h : s0.Keeps s) : s0.Keeps s.effectHeld := by
  unfold Site.effectHeld
  split
  · have h1 := ((h.updatePassage (fun p => { p with held := false })).openPassage ‹Dir› true)
    exact ite ((h1.fillRoster _).becomeClearing _) (h1.fillRoster _).testClearing
  · exact h.updatePassage _
theorem armTimeoutExpiry (h : s0.Keeps s) : s0.Keeps s.armTimeoutExpiry :=
  (h.standDownModules.clearDirection.updatePassage _).falseApproach
theorem standstillExpiry (h : s0.Keeps s) : s0.Keeps s.standstillExpiry :=
  ite ((h.updatePassage _).addRecordCause _) h.clearUnchecked

/-! ### Trackside events -/

theorem takeAndCount (h : s0.Keeps s) (p d i) : s0.Keeps (s.takeAndCount p d i) :=
  have c := (h.takeCrossing p d i).countCrossing p d (s.takeCrossing p d i).2
  ite c.testClearing c
theorem handOn (h : s0.Keeps s) (p d i) : s0.Keeps (s.handOn p d i) := by
  unfold Site.handOn
  exact ite ((h.recordCrossing _ _ _).countSpurious _) ((h.recordCrossing _ _ _).takeAndCount _ _ _)
theorem crossStep_net (s : Site) (hd : HeadId) (p : Point) (v : Level) : (s.crossStep hd p v).point.net = p.net := by
  unfold Site.crossStep
  split
  · exact Point.normalStep_net _ _ _ _
  · exact Point.degradedStep_net _ _ _ _ _
  · rfl
theorem putHead_net (p : Point) (n : HeadNo) (d : Head) : (p.putHead n d).net = p.net := by cases n <;> rfl
theorem takeHeadChange (h : s0.Keeps s) (hd v) : s0.Keeps (s.takeHeadChange hd v) := by
  unfold Site.takeHeadChange
  dsimp only
  split
  · exact h.putPoint _ _ (fun k => by rw [putHead_net]; exact k)
  · have h1 := h.putPoint hd.point
      (s.crossStep hd ((s.point hd.point).putHead hd.no (((s.point hd.point).head hd.no).change v s.now)) v).point
      (fun k => by rw [crossStep_net, putHead_net]; exact k)
    split
    · exact h1.handOn _ _ _
    · exact h1
theorem headChange (h : s0.Keeps s) (hd v) : s0.Keeps (s.headChange hd v) :=
  ite ((h.setPins _).takeHeadChange _ _) (h.setPins _)
theorem stuckExpiry (h : s0.Keeps s) (hd) : s0.Keeps (s.stuckExpiry hd) := ite (h.changeHealth _ _) h
theorem quietExpiry (h : s0.Keeps s) (hd) : s0.Keeps (s.quietExpiry hd) := ite (h.changeHealth _ _) h
theorem rescale (h : s0.Keeps s) (n) : s0.Keeps (s.rescale n) := by
  unfold Site.rescale
  split
  · exact foldl _ (fun _ _ k => k.stuckExpiry _) _ _ h
  · exact foldl _ (fun _ _ k => k.quietExpiry _) _ _ h
  · exact h
theorem armTimerEvent (h : s0.Keeps s) : s0.Keeps s.armTimerEvent := ite h.armExpiry h
theorem armTimeoutEvent (h : s0.Keeps s) : s0.Keeps s.armTimeoutEvent := ite h.armTimeoutExpiry h
theorem standstillEvent (h : s0.Keeps s) : s0.Keeps s.standstillEvent := ite h.standstillExpiry h
theorem clearEvent (h : s0.Keeps s) : s0.Keeps s.clearEvent := ite (h.close _) h
theorem limitEvent (h : s0.Keeps s) : s0.Keeps s.limitEvent := ite (h.close _) h

end Site.Keeps

end Sys2Proof
end

