-- ==== Sys2Proof/Laws/KeepsRest.lean ====
section
/-! SUPPORT. Composition, clock, loading, store, site reset and the owners of requests keep the invariants of Safety.lean. -/

namespace Sys2Proof

/-- The loading queue rule holds of a store with nothing queued and nothing in flight. -/
theorem StoreUnit.queueSound_empty {u : StoreUnit} (hq : u.queue = []) (hf : u.inFlight = none) : u.QueueSound := by
  unfold StoreUnit.QueueSound; rw [hq, hf]; simp

namespace Site.Keeps

variable {s0 s : Site}

/-! ### Composition -/

theorem composeStep (h : s0.Keeps s) (k f) (hf : ∀ c, s0.Keeps (f c)) : s0.Keeps (s.composeStep k f) := by
  unfold Site.composeStep
  split
  · exact ite (hf _) h
  · exact h
theorem putComposition (h : s0.Keeps s) (c) : s0.Keeps (s.putComposition c) := h.setComposition _
theorem composeDerive (h : s0.Keeps s) : s0.Keeps s.composeDerive := h.composeStep _ _ (fun _ => h.putComposition _)
theorem composeTest (h : s0.Keeps s) : s0.Keeps s.composeTest := h.composeStep _ _ (fun _ => h.putComposition _)
theorem composeWatched (h : s0.Keeps s) : s0.Keeps s.composeWatched := h.composeStep _ _ (fun _ => h.putComposition _)
theorem addClosingCause (h : s0.Keeps s) (b c) : s0.Keeps (s.addClosingCause b c) := ite (h.updateRecord _ _) h
theorem composeSelect (h : s0.Keeps s) : s0.Keeps s.composeSelect :=
  h.composeStep _ _ (fun _ => (h.putComposition _).addClosingCause _ _)
theorem composeVerdict (h : s0.Keeps s) : s0.Keeps s.composeVerdict :=
  h.composeStep _ _ (fun _ => ((h.updateRecord _ _).addClosingCause _ _).putComposition _)
theorem sendContribution (h : s0.Keeps s) : s0.Keeps s.sendContribution := by
  refine h.composeStep _ _ (fun c => ?_)
  split
  · exact (h.putComposition _).contribute _
  · exact h
theorem raiseVerdictFlags (h : s0.Keeps s) (r) : s0.Keeps (s.raiseVerdictFlags r) :=
  ((h.raise _).raiseIf _ _).raiseIf _ _
theorem closeComposition (h : s0.Keeps s) : s0.Keeps s.closeComposition := by
  have h1 : s0.Keeps ((s.updateRecord .closing (fun r => { r with phase := .closed })).setComposition none) :=
    (h.updateRecord _ _).setComposition _
  unfold Site.closeComposition
  dsimp only
  split
  · exact h1.raiseVerdictFlags _
  · exact h1
theorem composeEnd (h : s0.Keeps s) : s0.Keeps s.composeEnd := by
  refine h.composeStep _ _ (fun c => ?_)
  split
  · exact h
  · exact ite h.closeComposition.effectHeld h.closeComposition.resumeSweep

/-! ### Clock -/

theorem nextSpan (h : s0.Keeps s) : s0.Keeps s.nextSpan := h.setClock _ (Or.inl rfl)
theorem clockWrap (h : s0.Keeps s) : s0.Keeps s.clockWrap := by
  refine h.trans ⟨rfl, id, id, id, fun _ _ => has_setAdd_self _ _ (by decide), id, id⟩
theorem advanceReading (h : s0.Keeps s) : s0.Keeps s.advanceReading := by
  unfold Site.advanceReading
  dsimp only
  have h1 : s0.Keeps (s.setClock { s.clock with reading := s.clock.reading.nextSecond }) := h.setClock _ (Or.inl rfl)
  exact ite h.clockWrap (ite h1.takeSweepStart h1)
theorem clockSecond (h : s0.Keeps s) : s0.Keeps s.clockSecond := ite h h.nextSpan.advanceReading
theorem setReading (h : s0.Keeps s) (d) : s0.Keeps (s.setReading d) := h.setClock _ (Or.inr rfl)
theorem noteClockChange (h : s0.Keeps s) : s0.Keeps s.noteClockChange := ite (h.addRecordCause _) (ite (h.addPending _) h)

/-! ### Store -/

theorem startWrite (h : s0.Keeps s) : s0.Keeps s.startWrite := by
  unfold Site.startWrite
  split
  · split
    · exact h
    · next i rest hq =>
      refine h.setStore _ (by rfl) (fun k => ?_)
      have hn := k.1
      rw [hq, List.nodup_cons] at hn
      refine ⟨hn.2, fun w hw => ?_⟩
      simp only [Option.some.injEq] at hw
      subst hw
      exact hn.1
  · exact h
theorem landWrite (h : s0.Keeps s) (w) : s0.Keeps (s.landWrite w) :=
  h.setStore _ (by simp) (fun k => ⟨k.1, fun _ hw => absurd hw (by simp)⟩)
theorem stampSlot (h : s0.Keeps s) (w) : s0.Keeps (s.stampSlot w) := by
  unfold Site.stampSlot
  split
  · exact h.putWatchSlot _ _ (fun k e he => k _ e he)
  · exact h
  · exact h
theorem writeSucceeds (h : s0.Keeps s) (w) : s0.Keeps (s.writeSucceeds w) := by
  have h1 := (h.landWrite w).stampSlot w
  unfold Site.writeSucceeds
  dsimp only
  have h2 := h1.storeSame { ((s.landWrite w).stampSlot w).store with failures := 0 } rfl rfl rfl
  exact ite (h2.enqueue _) h2
theorem writeFails (h : s0.Keeps s) (w) : s0.Keeps (s.writeFails w) := by
  unfold Site.writeFails
  dsimp only
  refine raise (storeSame ?_ _ (by rfl) (by rfl) (by rfl)) _
  exact (h.landWrite w).enqueue _
theorem retryStore (h : s0.Keeps s) : s0.Keeps s.retryStore := by
  have h1 := h.storeSame { s.store with state := .online, failures := 0 } rfl rfl rfl
  exact ite h1.startWrite h

/-! ### Loading and RSTN -/

theorem countStamp (h : s0.Keeps s) (n) : s0.Keeps (s.countStamp n) := h.storeSame _ (by rfl) (by rfl) (by rfl)
theorem nextLoad (h : s0.Keeps s) (l) : s0.Keeps (s.nextLoad l) := h.storeSame _ (by rfl) (by rfl) (by rfl)
theorem setNextSerial (h : s0.Keeps s) (n) : s0.Keeps (s.setNextSerial n) := h.storeSame _ (by rfl) (by rfl) (by rfl)
theorem loadSettings (h : s0.Keeps s) (i) : s0.Keeps (s.loadSettings i) := by
  unfold Site.loadSettings
  split
  · exact ite ((h.setSettings _).countStamp _) (h.raise _)
  · exact h.raise _
  · exact h.raise _
theorem badSerial (h : s0.Keeps s) : s0.Keeps s.badSerial := by
  unfold Site.badSerial
  dsimp only
  refine raise (storeSame ?_ _ (by rfl) (by rfl) (by rfl)) _
  exact (h.setNextSerial _).enqueue _
theorem loadSerial (h : s0.Keeps s) (i) : s0.Keeps (s.loadSerial i) := by
  unfold Site.loadSerial
  split
  · exact h.setNextSerial _
  · exact h.badSerial
  · exact ite h.badSerial ((h.setNextSerial _).countStamp _)
theorem loseSlot (h : s0.Keeps s) (i) : s0.Keeps (s.loseSlot i) := by
  unfold Site.loseSlot
  dsimp only
  refine raise (storeSame ?_ _ (by rfl) (by rfl) (by rfl)) _
  exact h.enqueue _
theorem loadSlot (h : s0.Keeps s) (i m) : s0.Keeps (s.loadSlot i m) := by
  unfold Site.loadSlot
  split
  · exact h
  · exact h.loseSlot _
  · exact (h.putWatchSlot _ _ (fun _ _ he => absurd he (by simp))).countStamp _
  · refine ite ((h.putWatchSlot _ _ (fun _ f hf => ?_)).countStamp _) (h.loseSlot _)
    simp only [Option.some.injEq] at hf
    subst hf
    exact .empty rfl
theorem takeSettingsImage (h : s0.Keeps s) (i) : s0.Keeps (s.takeSettingsImage i) := ite ((h.loadSettings _).nextLoad _) h
theorem takeSerialImage (h : s0.Keeps s) (i) : s0.Keeps (s.takeSerialImage i) := ite ((h.loadSerial _).nextLoad _) h
theorem takeSlotImage (h : s0.Keeps s) (i) : s0.Keeps (s.takeSlotImage i) := by
  unfold Site.takeSlotImage
  split
  · split
    · exact ite ((h.loadSlot _ _).nextLoad _) h
    · exact h
  · exact h
  · exact h
theorem freeDuplicates (h : s0.Keeps s) : s0.Keeps s.freeDuplicates := foldl _ (fun _ _ k => k.freeSlot _) _ _ h
theorem fromLines_net (p : Point) (l : LinePair) (n : Nat) : (p.fromLines l n).net = p.net := rfl
theorem pointsFromLines (h : s0.Keeps s) (l) : s0.Keeps (s.setPoints (s.points.fromLines l)) :=
  h.setPoints _ (fun k p => by have := k p; cases p <;> exact this)
theorem becomeRunning (h : s0.Keeps s) : s0.Keeps (s.setMode .running) :=
  h.trans ⟨rfl, id, id, id, id, id, fun _ hm => absurd hm (by simp)⟩
theorem startRunning (h : s0.Keeps s) : s0.Keeps s.startRunning := by
  unfold Site.startRunning
  dsimp only
  refine setWatch (setPassage ?_ _) _ (by rfl)
  exact ((h.becomeRunning.setNow 0).pointsFromLines _).mapLines _
theorem endLoading (h : s0.Keeps s) : s0.Keeps s.endLoading := by
  unfold Site.endLoading
  dsimp only
  have h1 := h.freeDuplicates
  generalize s.freeDuplicates = t at h1
  exact ite (h1.storeSame { t.store with nextStamp := t.store.firstStamp } rfl rfl rfl).startRunning h
theorem hold (h : s0.Keeps s) : s0.Keeps s.hold := by
  unfold Site.hold
  refine setStore ?_ _ (by rfl) (fun k => ⟨k.1, fun _ hw => absurd hw (by simp)⟩)
  exact h.trans ⟨rfl, id, id, id, id, id, fun _ hm => absurd hm (by simp)⟩

/-! ### Site reset -/

theorem clearCounters (h : s0.Keeps s) : s0.Keeps s.clearCounters := by
  unfold Site.clearCounters
  dsimp only
  refine storeSame (mapLines (setRoster (setPassage (setPoints (h.setCounts _) _ ?_) _) _) _) _ (by rfl) (by rfl) (by rfl)
  exact fun k p => by have := k p; cases p <;> exact this
theorem resetPassage (h : s0.Keeps s) : s0.Keeps s.resetPassage := h.resetModules.clearDirection.updatePassage _
theorem stopComposition (h : s0.Keeps s) : s0.Keeps s.stopComposition := h.setComposition _
theorem resetTrain (h : s0.Keeps s) : s0.Keeps s.resetTrain := h.setTrain _
theorem resetRoster (h : s0.Keeps s) : s0.Keeps s.resetRoster := h.setRoster _
theorem resetPoints (h : s0.Keeps s) : s0.Keeps s.resetPoints :=
  h.setPoints _ (fun _ p => by cases p <;> exact Nat.zero_le _)

/-- The last step of a site reset leaves CLOCK_UNSET right and no flag enabled. -/
theorem resetIndications (h : s0.Keeps s) : s0.Keeps s.resetIndications := by
  have h1 : (s.setFlags 0#18).setEnables 0#18 |>.Keeps ((s.setFlags 0#18).setEnables 0#18).clearCounters :=
    (refl _).clearCounters
  refine h.trans ⟨?_, ?_, ?_, ?_, fun _ => keepClockUnset_sound _, ?_, ?_⟩
  · exact ((keepClockUnset (refl _)).waiting).trans h1.waiting
  · exact fun k => (keepClockUnset (refl _)).queue (h1.queue k)
  · exact fun k => (keepClockUnset (refl _)).holds (h1.holds k)
  · exact fun k => (keepClockUnset (refl _)).pend (h1.pend k)
  · exact fun k => (keepClockUnset (refl _)).nets (h1.nets k)
  · exact fun _ => (keepClockUnset (refl _)).quiet (h1.quiet (fun _ => rfl))

theorem siteReset (h : s0.Keeps s) : s0.Keeps s.siteReset :=
  h.resetPassage.stopComposition.resetTrain.resetRoster.resetPoints.resetWatch.resetIndications

/-! ### Tick -/

theorem tick (h : s0.Keeps s) : s0.Keeps s.tick := ite ((h.setNow _).mapLines _) h

theorem whenRunning (h : s0.Keeps s) (f : Site → Site) (hf : s0.Keeps (f s)) : s0.Keeps (s.whenRunning f) := ite hf h

end Site.Keeps

end Sys2Proof
end

