-- ==== Sys2Proof/Laws/Ports.lean ====
section
/-! SUPPORT. What a frame on a port can do: taken and answered, answered BUSY, dropped, refused at a port check (R196 to R200). -/

namespace Sys2Proof

/-- The body length is one of those the kind takes. -/
theorem lengthFits_iff (k : RequestKind) (n : Nat) : lengthFits k n = true ↔ k.bodyBytes.1 ≤ n ∧ n ≤ k.bodyBytes.2 := by
  simp [lengthFits]

/-- The sending port may make the request (R200). -/
theorem Site.permits_iff (s : Site) (p : Port) (c : Privilege) : s.permits p c = true ↔
    p = .siteLink ∨ c = .read ∨ c = .hold ∨ (c = .write ∧ s.setting .serviceWrites = 1) := by
  cases p <;> cases c <;> simp [Site.permits, Site.serviceWrites]

/-- The requests that any site state answers (R199). -/
theorem RequestKind.anyState_iff (k : RequestKind) : k.anyState = true ↔ k = .identify ∨ k = .status ∨ k = .clockRead := by
  cases k <;> decide

/-- The port checks find no fault exactly when the request passes them. -/
theorem Site.portCheck_eq_none (s : Site) (p : Port) (k : RequestKind) (body : List Byte) (hm : s.mode ≠ .held) :
    s.portCheck p k body = none ↔ s.Passes p k body := by
  unfold Site.portCheck Site.Passes
  rw [← lengthFits_iff, ← Site.permits_iff, ← RequestKind.anyState_iff]
  cases hmode : s.mode <;> cases k.anyState <;> cases lengthFits k body.length <;>
    cases s.permits p (privilegeOf k body) <;> simp_all

/-- The body of a request that passes fits its frame. -/
theorem Site.Passes.bodyFits {s : Site} {p : Port} {k : RequestKind} {body : List Byte} (h : s.Passes p k body) :
    Sys2Proof.bodyFits body = true := by
  have h27 : k.bodyBytes.2 ≤ 1000 := by cases k <;> decide
  exact decide_eq_true (le_trans h.2.1.2 h27)

namespace Machine

@[simp] theorem State.setSite_site (s : State) (t : Site) : (s.setSite t).site = t := rfl
@[simp] theorem State.setSite_pending (s : State) (t : Site) : (s.setSite t).pending = s.pending := rfl
@[simp] theorem State.setSite_line (s : State) (t : Site) (p : Port) : (s.setSite t).line p = s.line p := by cases p <;> rfl
@[simp] theorem State.setSite_self (s : State) : s.setSite s.site = s := rfl
@[simp] theorem State.putLine_site (s : State) (p : Port) (l : PortLine) : (s.putLine p l).site = s.site := by cases p <;> rfl
@[simp] theorem State.putLine_pending (s : State) (p : Port) (l : PortLine) : (s.putLine p l).pending = s.pending := by
  cases p <;> rfl
@[simp] theorem State.putLine_line (s : State) (p : Port) (l : PortLine) : (s.putLine p l).line p = l := by cases p <;> rfl
theorem State.putLine_other (s : State) (p q : Port) (l : PortLine) (h : q ≠ p) : (s.putLine p l).line q = s.line q := by
  cases p <;> cases q <;> first | rfl | exact absurd rfl h
@[simp] theorem State.receive_site (s : State) (p : Port) (r : Receiver) : (s.receive p r).site = s.site := by
  simp [State.receive]
@[simp] theorem State.receive_pending (s : State) (p : Port) (r : Receiver) : (s.receive p r).pending = s.pending := by
  simp [State.receive]
@[simp] theorem State.receive_answers (s : State) (p q : Port) (r : Receiver) :
    ((s.receive p r).line q).answers = (s.line q).answers := by cases p <;> cases q <;> rfl
@[simp] theorem State.pushAnswer_site (s : State) (p : Port) (a : Answer) : (s.pushAnswer p a).site = s.site := by
  simp [State.pushAnswer]
@[simp] theorem State.pushAnswer_pending (s : State) (p : Port) (a : Answer) : (s.pushAnswer p a).pending = s.pending := by
  simp [State.pushAnswer]
@[simp] theorem State.pushReply_site (s : State) (p : Port) (tag kind : Byte) (r : Option Reply) :
    (s.pushReply p tag kind r).site = s.site := by cases r <;> simp [State.pushReply]
@[simp] theorem State.pushReply_pending (s : State) (p : Port) (tag kind : Byte) (r : Option Reply) :
    (s.pushReply p tag kind r).pending = s.pending := by cases r <;> simp [State.pushReply]
@[simp] theorem State.dropAnswer_pending (s : State) (p : Port) : (s.dropAnswer p).pending = s.pending := rfl
@[simp] theorem State.frameError_pending (s : State) (p : Port) : (s.frameError p).pending = s.pending := rfl
@[simp] theorem State.receive_inProgress (s : State) (p q : Port) (r : Receiver) :
    (s.receive p r).inProgress q = s.inProgress q := by cases q <;> simp [State.inProgress]
@[simp] theorem State.receive_placesTaken (s : State) (p q : Port) (r : Receiver) :
    (s.receive p r).placesTaken q = s.placesTaken q := by simp [State.placesTaken]

theorem State.answered_pending (s : State) (p : Port) (tag kind : Byte) (st : Status) (body : List Byte) (t : Site) :
    (s.answered p tag kind st body t).pending = s.pending := by simp [State.answered]

theorem State.answered_site (s : State) (p : Port) (tag kind : Byte) (st : Status) (body : List Byte) (t : Site) :
    (s.answered p tag kind st body t).site = t := by simp [State.answered]

/-- An open port hands a frame to its taker, and queues the answer made. -/
theorem State.takeFrame_open {s : State} {p : Port} (h : s.Open p) (tag kind : Byte) (take : Site → Handled) :
    s.takeFrame p tag kind take = ((s.receive p .hunting).setSite (take s.site).site).pushReply p tag kind (take s.site).reply := by
  obtain ⟨hm, hp, ha⟩ := h
  have h4 : ¬ 4 ≤ s.placesTaken p := by simp only [State.placesTaken, hp]; simpa using ha
  simp [State.takeFrame, hm, h4, hp]

/-- The command of a request whose body fits its frame answers a next state. -/
theorem request_of_fits {k : RequestKind} {body : List Byte} (h : bodyFits body = true) (p : Port) (tag : Byte)
    (owner : Site → Handled) (s : State) :
    request k p tag body owner s = .next (s.takeFrame p tag k.code (checked k p body owner)) := by simp [request, h]

/-- A request that reaches its owner: the owner's site and, when there is one, the owner's answer. -/
theorem request_of_takes {s : State} {p : Port} {k : RequestKind} {body : List Byte} (h : s.Takes p k body) (tag : Byte)
    (owner : Site → Handled) :
    request k p tag body owner s = .next
      (match (owner s.site).reply with
       | some r => s.after p tag k r.status r.body (owner s.site).site
       | none => (s.receive p .hunting).setSite (owner s.site).site) := by
  have hc : checked k p body owner s.site = owner s.site := by
    simp [checked, (Site.portCheck_eq_none s.site p k body h.1.1).2 h.2]
  rw [request_of_fits h.2.bodyFits, State.takeFrame_open h.1, hc]
  cases (owner s.site).reply <;> rfl

/-- A request that its owner answers OK. -/
theorem request_granted {s : State} {p : Port} {k : RequestKind} {body b : List Byte} {t : Site} {owner : Site → Handled}
    (h : s.Takes p k body) (tag : Byte) (ho : owner s.site = t.answerOk b) :
    request k p tag body owner s = .next (s.granted p tag k b t) := by
  rw [request_of_takes h, ho]; rfl

/-- A request that its owner refuses. -/
theorem request_refused {s : State} {p : Port} {k : RequestKind} {body : List Byte} {st : Status} {owner : Site → Handled}
    (h : s.Takes p k body) (tag : Byte) (ho : owner s.site = s.site.refuse st) :
    request k p tag body owner s = .next (s.refused p tag k st) := by
  rw [request_of_takes h, ho]; rfl

/-- A request refused at a port check: the check's status with an empty body, the site as it was (R199). -/
theorem request_of_refused {s : State} {p : Port} {k : RequestKind} {body : List Byte} {st : Status} (h : s.Open p)
    (hb : bodyFits body = true) (hc : s.site.portCheck p k body = some st) (tag : Byte) (owner : Site → Handled) :
    request k p tag body owner s = .next (s.after p tag k st [] s.site) := by
  have : checked k p body owner s.site = s.site.refuse st := by simp [checked, hc]
  rw [request_of_fits hb, State.takeFrame_open h, this]
  rfl

/-- Every request is answered with a next state that keeps the queue of commands. -/
theorem takeFrame_pending (s : State) (p : Port) (tag kind : Byte) (take : Site → Handled) :
    (s.takeFrame p tag kind take).pending = s.pending := by
  unfold State.takeFrame
  repeat' split
  all_goals simp

/-- A command that acts on the site alone. -/
theorem onSite_next (f : Site → Site) (s : State) : onSite f s = .next (s.setSite (f s.site)) := rfl

end Machine

end Sys2Proof
end

