-- ==== Sys2Proof/Laws/KeepsStep.lean ====
section
/-! SUPPORT. Every command and every step keeps the invariants of Safety.lean. -/

namespace Sys2Proof

/-- A site that came from another by steps that keep every invariant of the site. -/
structure Site.KeepsAll (s t : Site) : Prop where
  queue : s.store.QueueSound → t.store.QueueSound
  holds : s.HoldsSound → t.HoldsSound
  pend : s.PendingSound → t.PendingSound
  flag : s.ClockFlagSound → t.ClockFlagSound
  nets : s.NetsSound → t.NetsSound
  quiet : s.QuietLoading → t.QuietLoading

theorem Site.Keeps.all {s t : Site} (h : s.Keeps t) : s.KeepsAll t := ⟨h.queue, h.holds, h.pend, h.flag, h.nets, h.quiet⟩

theorem Site.KeepsAll.trans {s t u : Site} (h : s.KeepsAll t) (k : t.KeepsAll u) : s.KeepsAll u :=
  ⟨k.queue ∘ h.queue, k.holds ∘ h.holds, k.pend ∘ h.pend, k.flag ∘ h.flag, k.nets ∘ h.nets, k.quiet ∘ h.quiet⟩

theorem Site.KeepsAll.refl (s : Site) : s.KeepsAll s := (Site.Keeps.refl s).all

namespace Site.Keeps

variable {s : Site}

/-! ### The owners of requests -/

theorem answerOk (t : Site) (b) (h : s.Keeps t) : s.Keeps (t.answerOk b).site := h
theorem refuse (t : Site) (st) (h : s.Keeps t) : s.Keeps (t.refuse st).site := h

theorem withRecord (s : Site) (n : Serial) (f) (hf : ∀ i r, s.Keeps (f i r).site) : s.Keeps (s.withRecord n f).site := by
  unfold Site.withRecord
  repeat' split
  all_goals first | exact hf _ _ | exact refl _

theorem identify (s : Site) (b) : s.Keeps (s.identify b).site := by
  unfold Site.identify
  repeat' split
  all_goals exact refl _
theorem flagsClear (s : Site) (b) : s.Keeps (s.flagsClear b).site := by
  unfold Site.flagsClear
  split
  · exact (refl s).clearFlags _
  · exact refl _
theorem enablesSet (s : Site) (b) (h : s.mode ≠ .loading) : s.Keeps (s.enablesSet b).site := by
  unfold Site.enablesSet
  split
  · exact ⟨rfl, id, id, id, id, id, fun _ hm => absurd hm h⟩
  · exact refl _
theorem countersClear (s : Site) : s.Keeps s.countersClear.site := (refl s).clearCounters
theorem headRestore (s : Site) (b) : s.Keeps (s.headRestore b).site := by
  unfold Site.headRestore
  split
  · unfold Site.restoreHead
    dsimp only
    split
    all_goals first | exact refl _ | exact (refl s).changeHealth _ _
  · exact refl _
theorem passageStatus (s : Site) : s.Keeps s.passageStatus.site := (refl s).setFreeDraws _
theorem rosterRead (s : Site) (b) : s.Keeps (s.rosterRead b).site := by
  unfold Site.rosterRead
  dsimp only
  repeat' split
  all_goals exact refl _
theorem vehicleRead (s : Site) (b) : s.Keeps (s.vehicleRead b).site := by
  unfold Site.vehicleRead
  dsimp only
  repeat' split
  all_goals exact refl _
theorem criterionRead (s : Site) (b) : s.Keeps (s.criterionRead b).site := by
  unfold Site.criterionRead
  split <;> exact refl _
theorem criterionWrite (s : Site) (b) : s.Keeps (s.criterionWrite b).site := by
  unfold Site.criterionWrite
  repeat' split
  all_goals first | exact refl _ | exact (refl s).setSettings _
theorem trainRead (s : Site) (b) : s.Keeps (s.trainRead b).site := by
  unfold Site.trainRead
  dsimp only
  repeat' split
  all_goals try exact refl _
  refine withRecord s _ _ (fun i r => ?_)
  split
  · exact refl _
  · unfold Site.readPart
    split
    all_goals first | exact refl _ | exact (refl s).putRecord _ _
theorem trainHold (s : Site) (p b) : s.Keeps (s.trainHold p b).site := by
  refine withRecord s _ _ (fun i r => ?_)
  repeat' split
  all_goals first
    | exact refl _
    | exact (refl s).putRecord _ _
    | exact ((refl s).gainHold p (by omega)).putRecord _ _
theorem trainRelease (s : Site) (p b) : s.Keeps (s.trainRelease p b).site := by
  refine withRecord s _ _ (fun i r => ?_)
  repeat' split
  all_goals first | exact refl _ | exact (refl s).endTrainHold _ _ _
theorem resolveFinding (s : Site) (i r v f g) : s.Keeps (s.resolveFinding i r v f g).site := by
  unfold Site.resolveFinding
  dsimp only
  refine answerOk _ _ (sendResolution ?_ _ _)
  exact ((refl s).putRecord _ _).raiseIf _ _
theorem trainResolve (s : Site) (p b) : s.Keeps (s.trainResolve p b).site := by
  unfold Site.trainResolve
  dsimp only
  repeat' split
  all_goals try exact refl _
  refine withRecord s _ _ (fun i r => ?_)
  unfold Site.resolveNumber
  repeat' split
  all_goals first | exact refl _ | exact resolveFinding _ _ _ _ _ _
theorem trainRetire (s : Site) (p b) : s.Keeps (s.trainRetire p b).site := by
  refine withRecord s _ _ (fun i r => ?_)
  repeat' split
  all_goals first | exact refl _ | exact (refl s).retireRecord _ _ _
theorem watchFind (s : Site) (b) : s.Keeps (s.watchFind b).site := by
  unfold Site.watchFind Site.findAll Site.findOne
  dsimp only
  repeat' split
  all_goals exact refl _
theorem watchScan (s : Site) (b) : s.Keeps (s.watchScan b).site := by
  unfold Site.watchScan
  dsimp only
  repeat' split
  all_goals exact refl _
theorem enrol (s : Site) (k l n) : s.Keeps (s.enrol k l n).site := by
  unfold Site.enrol
  repeat' split
  all_goals first | exact refl _ | exact ((refl s).putEntry _ _ (fun _ => .empty rfl)).enqueue _
theorem watchEnrol (s : Site) (b) : s.Keeps (s.watchEnrol b).site := by
  unfold Site.watchEnrol
  dsimp only
  split
  · split
    · exact refl _
    · exact enrol s _ _ _
  · exact refl _
theorem grantWatchHold {t : Site} (h : s.Keeps t) (i : Fin 512) (e : WatchEntry) (p) (he : t.PendingSound → e.pending.length ≤ 4) :
    s.Keeps (t.grantWatchHold i e p).site := by
  unfold Site.grantWatchHold
  exact h.putEntry i _ (fun k => ⟨he k, fun _ => rfl⟩)
theorem holdSlot (s : Site) (p i) : s.Keeps (s.holdSlot p i).site := by
  unfold Site.holdSlot
  repeat' split
  all_goals first | exact refl _ | exact (refl s).tellBroken i p | skip
  · next e he _ _ _ _ => exact grantWatchHold (refl s) i e p (fun k => (k i e he).1)
  · next e he _ _ _ => exact grantWatchHold ((refl s).gainHold p (by omega)) i e p (fun k => (k i e he).1)
theorem watchHold (s : Site) (p b) : s.Keeps (s.watchHold p b).site := by
  unfold Site.watchHold
  split
  · exact holdSlot s p _
  · exact refl _
theorem watchRelease (s : Site) (p b) : s.Keeps (s.watchRelease p b).site := by
  unfold Site.watchRelease Site.releaseSlot
  repeat' split
  all_goals first | exact refl _ | exact (refl s).tellBroken _ _ | skip
  unfold Site.releaseHeld
  exact (refl s).releaseEntry _ _
theorem withRevision (s : Site) (p i n f) (hf : ∀ e, s.watchEntry i = some e → s.Keeps (f e).site) :
    s.Keeps (s.withRevision p i n f).site := by
  unfold Site.withRevision
  repeat' split
  all_goals first | exact refl _ | exact (refl s).tellBroken _ _ | exact hf _ ‹_›
theorem amend_pending (e : WatchEntry) (a : Amendment) :
    (e.amend a).revise.hold = e.hold ∧ (e.amend a).revise.pending = e.pending := by
  unfold WatchEntry.amend WatchEntry.revise
  dsimp only
  split <;> exact ⟨rfl, rfl⟩
theorem watchAmend (s : Site) (p b) : s.Keeps (s.watchAmend p b).site := by
  unfold Site.watchAmend
  split
  · refine withRevision s p _ _ _ (fun e he => ?_)
    unfold Site.amendEntry
    repeat' split
    all_goals first
      | exact refl _
      | exact ((refl s).putEntry _ _ (fun k => (k _ e he).of_same (amend_pending e _))).enqueue _
  · exact refl _
theorem watchRetire (s : Site) (p b) : s.Keeps (s.watchRetire p b).site := by
  unfold Site.watchRetire
  split
  · refine withRevision s p _ _ _ (fun e _ => ?_)
    unfold Site.retireEntry
    exact (((refl s).setCounts _).endHold _).freeSlot _
  · exact refl _
theorem sweepNow (s : Site) : s.Keeps s.sweepNow.site := by
  unfold Site.sweepNow
  split
  · exact refl _
  · exact (refl s).takeSweepStart
theorem clockSet (s : Site) (b) : s.Keeps (s.clockSet b).site := by
  unfold Site.clockSet
  dsimp only
  split
  · exact ((refl s).setReading _).noteClockChange
  · exact refl _
theorem settingRead (s : Site) (b) : s.Keeps (s.settingRead b).site := by
  unfold Site.settingRead
  split <;> exact refl _
theorem settingWrite (s : Site) (b) : s.Keeps (s.settingWrite b).site := by
  unfold Site.settingWrite
  dsimp only
  repeat' split
  all_goals first | exact refl _ | exact ((refl s).setSettings _).rescale _
theorem storeRetry (s : Site) : s.Keeps s.storeRetry.site := (refl s).retryStore

end Site.Keeps

/-! ### Waiting STORE_SAVE -/

theorem Site.KeepsAll.storeWaiting (s : Site) (v : StoreUnit) (hq : v.queue = s.store.queue)
    (hf : v.inFlight = s.store.inFlight) : s.KeepsAll (s.setStore v) :=
  ⟨by show StoreUnit.QueueSound _ → StoreUnit.QueueSound v; unfold StoreUnit.QueueSound; rw [hq, hf]; exact id,
    id, id, id, id, id⟩

theorem Site.KeepsAll.startSave (s : Site) (tag) : s.KeepsAll (s.startSave tag) := by
  unfold Site.startSave
  dsimp only
  exact ((Site.Keeps.refl s).enqueue .settings).all.trans (Site.KeepsAll.storeWaiting _ _ (by rfl) (by rfl))

theorem Site.KeepsAll.endWaiting (s : Site) : s.KeepsAll s.endWaiting := Site.KeepsAll.storeWaiting _ _ rfl rfl

theorem Site.KeepsAll.storeSave (s : Site) (tag) : s.KeepsAll (s.storeSave tag).site := by
  unfold Site.storeSave
  split
  · exact .refl _
  · exact .startSave _ _

/-- A cold start leaves every invariant right. -/
theorem Site.KeepsAll.coldStart (s : Site) (l : HeadLines) (n : Nat) : s.KeepsAll (Site.coldStart l n) := by
  refine ⟨fun _ => StoreUnit.queueSound_empty rfl rfl, fun _ p => by cases p <;> exact Nat.zero_le _, ?_,
    fun _ _ => (by decide : setHas (BitVec.twoPow 18 Flag.clockUnset.bit) Flag.clockUnset.bit = true), fun _ p => by cases p <;> exact Nat.zero_le _, fun _ _ => rfl⟩
  intro _ i e he
  have : ((Vector.replicate 512 WatchSlot.coldStart)[i]).entry = some e := he
  simp [WatchSlot.coldStart] at this

end Sys2Proof
end

