-- ==== Sys2Proof/Laws/Tables.lean ====
section
/-! SUPPORT. Reading a table after all, or one, of its elements changed: the module lines, the train slots, the four points. -/

namespace Sys2Proof

/-! ### Tables -/

/-- An element of a list mapped with its index. -/
theorem mapFrom_getElem {α β : Type} (f : Nat → α → β) (k : Nat) (xs : List α) (i : Nat) (h : i < xs.length) :
    (mapFrom f k xs)[i]'(by rw [mapFrom_length]; exact h) = f (k + i) xs[i] := by
  induction xs generalizing k i with
  | nil => simp at h
  | cons x xs ih =>
    cases i with
    | zero => rfl
    | succ i => simp only [mapFrom, List.getElem_cons_succ]; rw [ih _ _ (by simpa using h)]; congr 1; omega

/-- An element of a table changed by a function of its index. -/
theorem tableMapIdx_getElem {α β : Type} {n : Nat} (f : Nat → α → β) (v : Vector α n) (i : Fin n) :
    (tableMapIdx f v)[i] = f i.val v[i] := by
  have : (tableMapIdx f v)[i] = (mapFrom f 0 v.toList)[i.val]'(by rw [mapFrom_length]; simp) := rfl
  rw [this, mapFrom_getElem _ _ _ _ (by simp)]
  simp

/-- An element of a table whose every element changed. -/
theorem tableMap_getElem {α β : Type} {n : Nat} (f : α → β) (v : Vector α n) (i : Fin n) : (tableMap f v)[i] = f v[i] := by
  have : (tableMap f v)[i] = (v.toList.map f)[i.val]'(by simp) := rfl
  rw [this]; simp

/-! ### Module lines -/

/-- A module line after every line changed by its index. -/
theorem Site.mapLines_line (s : Site) (f : Nat → ModuleLine → ModuleLine) (n : Fin 8) :
    (s.mapLines f).line n = f n.val (s.line n) := tableMapIdx_getElem _ _ _

/-- A module line after one line is replaced. -/
theorem Site.putLine_line (s : Site) (m n : Fin 8) (l : ModuleLine) :
    (s.putLine m l).line n = if n = m then l else s.line n := by
  show (s.modules.lines.set m l)[n] = if n = m then l else s.modules.lines[n]
  by_cases h : n = m
  · subst h; simp
  · have : m.val ≠ n.val := fun e => h (Fin.ext e.symm)
    simp [h, this]

/-! ### Train slots -/

/-- A train slot after every slot changed. -/
theorem Site.setTrain_recordAt (s : Site) (f : Option TrainRecord → Option TrainRecord) (i : Fin 4) :
    (s.setTrain (tableMap f s.train)).recordAt i = f (s.recordAt i) := tableMap_getElem _ _ _

/-- A train slot after a cause is added to the OPEN record. -/
theorem Site.addRecordCause_recordAt (s : Site) (c : Cause) (i : Fin 4) :
    (s.addRecordCause c).recordAt i = addCauseWhenOpen c (s.recordAt i) := tableMap_getElem _ _ _

/-- A train slot after the records of a phase changed. -/
theorem Site.updateRecord_recordAt (s : Site) (p : RecordPhase) (f : TrainRecord → TrainRecord) (i : Fin 4) :
    (s.updateRecord p f).recordAt i = updateInPhase p f (s.recordAt i) := tableMap_getElem _ _ _

/-- A train slot after one slot is replaced. -/
theorem Site.putRecord_recordAt (s : Site) (i j : Fin 4) (r : Option TrainRecord) :
    (s.putRecord i r).recordAt j = if j = i then r else s.recordAt j := by
  show (s.train.set i r)[j] = if j = i then r else s.train[j]
  by_cases h : j = i
  · subst h; simp
  · have : i.val ≠ j.val := fun e => h (Fin.ext e.symm)
    simp [h, this]

/-! ### Points -/

/-- A point after one point is replaced. -/
theorem Site.putPoint_point (s : Site) (p q : PointId) (v : Point) :
    (s.putPoint p v).point q = if q = p then v else s.point q := by cases p <;> cases q <;> rfl

end Sys2Proof
end

