-- ==== Sys2Proof/Laws/Opening.lean ====
section
/-! SUPPORT. What an opening does to the passage, the roster and the train table (R26 to R30, R46), and what the call for a new passage does
(R20, R73). -/

namespace Sys2Proof

/-- A reclaim leaves all but holds, flags and counters (R149, R150). -/
structure Site.ReclaimOnly (s t : Site) : Prop where
  mode : t.mode = s.mode
  now : t.now = s.now
  pins : t.pins = s.pins
  points : t.points = s.points
  passage : t.passage = s.passage
  roster : t.roster = s.roster
  modules : t.modules = s.modules
  settings : t.settings = s.settings
  composition : t.composition = s.composition
  train : t.train = s.train
  watch : t.watch = s.watch
  clock : t.clock = s.clock
  store : t.store = s.store

theorem Site.ReclaimOnly.refl (s : Site) : s.ReclaimOnly s := ⟨rfl, rfl, rfl, rfl, rfl, rfl, rfl, rfl, rfl, rfl, rfl, rfl, rfl⟩

theorem Site.ReclaimOnly.trans {s t u : Site} (h : s.ReclaimOnly t) (k : t.ReclaimOnly u) : s.ReclaimOnly u :=
  ⟨k.mode.trans h.mode, k.now.trans h.now, k.pins.trans h.pins, k.points.trans h.points, k.passage.trans h.passage,
    k.roster.trans h.roster, k.modules.trans h.modules, k.settings.trans h.settings, k.composition.trans h.composition,
    k.train.trans h.train, k.watch.trans h.watch, k.clock.trans h.clock, k.store.trans h.store⟩

theorem Site.ReclaimOnly.setCounts (s : Site) (v : Counts) : s.ReclaimOnly (s.setCounts v) :=
  ⟨rfl, rfl, rfl, rfl, rfl, rfl, rfl, rfl, rfl, rfl, rfl, rfl, rfl⟩

theorem Site.ReclaimOnly.raise (s : Site) (f : Flag) : s.ReclaimOnly (s.raise f) :=
  ⟨rfl, rfl, rfl, rfl, rfl, rfl, rfl, rfl, rfl, rfl, rfl, rfl, rfl⟩

theorem Site.ReclaimOnly.loseHold (s : Site) (p : Port) : s.ReclaimOnly (s.loseHold p) :=
  ⟨rfl, rfl, rfl, rfl, rfl, rfl, rfl, rfl, rfl, rfl, rfl, rfl, rfl⟩

/-- The slot's old record broken off and accounted for leaves the rest of the site. -/
theorem Site.reclaim_only (s : Site) (i : Fin 4) : s.ReclaimOnly (s.reclaim i) := by
  unfold Site.reclaim
  split
  · rename_i r _
    have h1 : s.ReclaimOnly (s.breakTrainHold r) := by
      unfold Site.breakTrainHold
      split
      · exact (ReclaimOnly.loseHold _ _).trans (.raise _ _)
      · exact .refl s
    refine h1.trans ?_
    unfold Site.accountReclaim
    refine ReclaimOnly.trans ?_ (.setCounts _ _)
    split
    · exact .refl _
    · exact (ReclaimOnly.setCounts _ _).trans (.raise _ _)
  · exact .refl s

/-- A cause in a set with another cause added. -/
theorem setHas_setAdd {n : Nat} (b : BitVec n) (i j : Nat) (h : i < n) : setHas (setAdd b j) i = (setHas b i || decide (i = j)) := by
  simp only [setHas, setAdd, BitVec.getLsbD_or, BitVec.getLsbD_twoPow]
  by_cases e : i = j
  · subst e; simp [h]
  · have : ¬ j = i := fun x => e x.symm
    simp [e, this]

/-- Adding a cause takes none away. -/
theorem setHas_setAdd_of {n : Nat} (b : BitVec n) (i j : Nat) (h : setHas b i = true) : setHas (setAdd b j) i = true := by
  simp only [setHas, setAdd, BitVec.getLsbD_or] at h ⊢
  simp [h]

/-- The cause set of the record an opening makes: the pending causes, CLOCK_UNSET while the clock is unset, and GATE_SUBSTITUTED
when the counting gate is not the entry gate (R27, R28, R146). -/
def Site.openingCauses (s : Site) (d : Dir) : BitVec 22 :=
  if s.chooseGate d = d.entryGate then s.clockCause s.passage.pending
  else setAdd (s.clockCause s.passage.pending) Cause.gateSubstituted.bit

/-- The record an opening makes stands OPEN in the slot chosen. -/
theorem Site.openPassage_record (s : Site) (d : Dir) (held : Bool) :
    (s.openPassage d held).recordAt s.chooseSlot = some { s.newRecord d with causes := s.openingCauses d } := by
  have h0 : ∀ t : Site, t.suspendSweep.recordAt s.chooseSlot = t.recordAt s.chooseSlot := by
    intro t; unfold Site.suspendSweep; split <;> rfl
  unfold Site.openPassage
  simp only [h0]
  show (((s.openRecord d).startRoster).addRecordCauseIf (s.chooseGate d != d.entryGate) .gateSubstituted).recordAt _ = _
  have h1 : (s.openRecord d).startRoster.recordAt s.chooseSlot = some (s.newRecord d) := by
    show ((s.reclaim s.chooseSlot).putRecord s.chooseSlot (some (s.newRecord d))).recordAt s.chooseSlot = _
    rw [Site.putRecord_recordAt]; simp
  unfold Site.addRecordCauseIf Site.openingCauses
  by_cases h : s.chooseGate d = d.entryGate
  · simp only [h, bne_self_eq_false, Bool.false_eq_true, if_false, if_true, h1]; rfl
  · have : (s.chooseGate d != d.entryGate) = true := by simpa using h
    rw [if_pos this, if_neg h, Site.addRecordCause_recordAt, h1]; rfl

/-- What an opening writes in the passage controller (R27 to R29, R34 to R37). -/
theorem Site.openPassage_passage (s : Site) (d : Dir) (held : Bool) :
    (s.openPassage d held).passage =
      { s.passage with
        phase := .inPassage
        gate := some (s.chooseGate d)
        checkSet := s.formCheckSet d s.passage.pending
        pending := 0#22
        lastGate := if held then s.passage.lastGate else none
        tally := .empty
        outcomeToBe := none
        timers :=
          { s.passage.timers with armTimeout := none, standstill := some s.now, limit := some s.now, clear := none } } := by
  have h0 : ∀ t : Site, t.suspendSweep.passage = t.passage := by intro t; unfold Site.suspendSweep; split <;> rfl
  have h1 : ∀ (t : Site) (b : Bool) (c : Cause), (t.addRecordCauseIf b c).passage = t.passage := by
    intro t b c; unfold Site.addRecordCauseIf; split <;> rfl
  have h2 : ((s.openRecord d).startRoster).passage = { s.passage with pending := 0#22 } := by
    show { (s.reclaim s.chooseSlot).passage with pending := 0#22 } = _
    rw [(s.reclaim_only _).passage]
  unfold Site.openPassage
  simp only [h0, Site.updatePassage, Site.setPassage_passage, h1, h2]

/-- A suspended sweep changes the watch table alone (R190). -/
theorem Site.suspendSweep_eq (s : Site) : ∃ w, s.suspendSweep = s.setWatch w := by
  unfold Site.suspendSweep; split
  · exact ⟨_, rfl⟩
  · exact ⟨s.watch, rfl⟩

/-- A cause added to a record changes the train table alone (R27). -/
theorem Site.addRecordCauseIf_eq (s : Site) (b : Bool) (c : Cause) : ∃ v, s.addRecordCauseIf b c = s.setTrain v := by
  unfold Site.addRecordCauseIf; split
  · exact ⟨_, rfl⟩
  · exact ⟨s.train, rfl⟩

/-- What an opening leaves: points, modules, clock, store, settings, composition, running time (R27). -/
theorem Site.openPassage_rest (s : Site) (d : Dir) (held : Bool) :
    let r := s.openPassage d held
    r.mode = s.mode ∧ r.now = s.now ∧ r.pins = s.pins ∧ r.points = s.points ∧ r.modules = s.modules ∧
      r.settings = s.settings ∧ r.composition = s.composition ∧ r.clock = s.clock ∧ r.store = s.store := by
  have h1 := s.reclaim_only s.chooseSlot
  intro r
  obtain ⟨v, hv⟩ := (s.openRecord d).startRoster.addRecordCauseIf_eq (s.chooseGate d != d.entryGate) .gateSubstituted
  simp only [r]
  unfold Site.openPassage
  simp only [hv]
  generalize hx : ((s.openRecord d).startRoster.setTrain v).updatePassage _ = x
  obtain ⟨w, hw⟩ := x.suspendSweep_eq
  rw [hw, ← hx]
  refine ⟨?_, ?_, ?_, ?_, ?_, ?_, ?_, ?_, ?_⟩ <;>
    simp [Site.updatePassage, Site.openRecord, Site.startRoster, Site.putRecord, h1.mode, h1.now, h1.pins, h1.points, h1.modules,
      h1.settings, h1.composition, h1.clock, h1.store]

/-- The roster an opening starts (R46). -/
theorem Site.openPassage_roster (s : Site) (d : Dir) (held : Bool) :
    (s.openPassage d held).roster = (s.openRecord d).startRoster.roster := by
  have h0 : ∀ t : Site, t.suspendSweep.roster = t.roster := by intro t; unfold Site.suspendSweep; split <;> rfl
  have h1 : ∀ (t : Site) (b : Bool) (c : Cause), (t.addRecordCauseIf b c).roster = t.roster := by
    intro t b c; unfold Site.addRecordCauseIf; split <;> rfl
  unfold Site.openPassage
  simp only [h0, Site.updatePassage, Site.setPassage_roster, h1]

/-- The roster unit after an opening: LIVE, empty, with the passage's serial and a new generation (R46). -/
theorem Site.openRecord_startRoster (s : Site) (d : Dir) :
    let u := (s.openRecord d).startRoster.roster
    u.standing = .live ∧ u.entries = [] ∧ u.vehicles = [] ∧ u.serial = s.passage.serial ∧
      u.generation = s.roster.generation + 1#16 := by
  have h1 := s.reclaim_only s.chooseSlot
  refine ⟨rfl, rfl, rfl, ?_, ?_⟩
  · show (s.reclaim s.chooseSlot).passage.serial = _
    rw [h1.passage]
  · show (s.reclaim s.chooseSlot).roster.generation + 1#16 = _
    rw [h1.roster]

/-! ### The call for a new passage -/

/-- Putting an item in the queue leaves the next serial alone, whatever it is (R215). -/
theorem StoreUnit.enqueue_nextSerial (u : StoreUnit) (n : Serial) (i : StoreItem) :
    StoreUnit.enqueue { u with nextSerial := n } i = { u.enqueue i with nextSerial := n } := by
  obtain ⟨a, b, c, d, e, f, g, h, k, l, m⟩ := u
  unfold StoreUnit.enqueue
  dsimp only
  cases c with
  | none => dsimp only; split <;> rfl
  | some w => dsimp only; split <;> [rfl; (split <;> rfl)]

/-- The arm timer runs from now, unless nothing is fitted (R23). -/
theorem Site.startArmTimer_eq (s : Site) :
    ∃ x, s.startArmTimer = s.setTimers x ∧ (s.nothingFitted = false → x = { s.passage.timers with arm := some s.now }) ∧
      (s.nothingFitted = true → x = s.passage.timers) := by
  unfold Site.startArmTimer; split
  · rename_i h; refine ⟨s.passage.timers, rfl, fun h' => ?_, fun _ => rfl⟩; rw [h] at h'; cases h'
  · rename_i h; exact ⟨_, rfl, fun _ => rfl, fun h' => absurd h' h⟩

/-- A module line at the call for a new passage (R73). -/
theorem ModuleLine.called_eq (l : ModuleLine) (fitted : Bool) (n : Nat) (w : Word16) (code : Byte) (payload : List Byte) :
    (if fitted then (l.arm true).give n w code payload else l.arm false) =
      { l with
        arming := if fitted then .arming else .notFitted
        cursor := 0
        beyond := 0
        expected := 1#16
        crcTally := 0#16
        orphanTally := 0#16
        sendSeq := if fitted then l.sendSeq + 1#16 else l.sendSeq
        sending := if fitted then l.sending ++ [ModuleFrame.make (BitVec.ofNat 8 (lineKindOf n).frameByte) w l.sendSeq code payload]
          else l.sending } := by
  cases fitted <;> rfl

/-- Nothing is fitted, by the working MODULES_FITTED that the call latches (R20, R23). -/
abbrev Site.NoneFitted (t : Site) : Prop := ∀ n : Fin 8, (BitVec.ofNat 8 (t.setting .modulesFitted)).getLsbD n.val = false

/-- The call before its arm timer starts: serial, latch, direction and ARM (R20, R21, R73). -/
abbrev Site.calledUntimed (t : Site) (d : Dir) : Site :=
  ((t.updatePassage (fun p => { p with expected := some d })).takeSerial.setDirection d).sendArm d

/-- Before the arm timer starts: what the passage controller and the points hold (R20, R21). -/
theorem Site.calledUntimed_passage (t : Site) (d : Dir) :
    (t.calledUntimed d).passage =
        { t.passage with
          expected := some d, serial := some t.store.nextSerial, armedMoment := t.now, latched := t.settings } ∧
      (t.calledUntimed d).points = (t.setDirection d).points ∧ (t.calledUntimed d).now = t.now := by
  simp [Site.sendArm, Site.setDirection, Site.takeSerial, Site.enqueue, Site.updatePassage]

/-- Before the arm timer starts: what the store and the modules hold (R20, R73). -/
theorem Site.calledUntimed_modules (t : Site) (d : Dir) :
    (t.calledUntimed d).store = { t.store.enqueue .serial with nextSerial := serialAfter t.store.nextSerial } ∧
      (t.calledUntimed d).modules =
        { lines := tableMapIdx (fun n l =>
            if (BitVec.ofNat 8 (t.setting .modulesFitted)).getLsbD n then
              (l.arm true).give n (t.store.nextSerial.setWidth 16) armCode [d.armByte]
            else l.arm false) t.modules.lines
          passageNumber := some (t.store.nextSerial.setWidth 16)
          reversed := false
          ambient := none } :=
  ⟨StoreUnit.enqueue_nextSerial _ _ _, rfl⟩

/-- The call changes the passage controller, the points, the modules and the store alone (R20, R73). -/
theorem Site.callModules_beside (t : Site) (d : Dir) : t.SameBeside (t.callModules d) := by
  obtain ⟨x, hx, -, -⟩ := (t.calledUntimed d).startArmTimer_eq
  rw [show t.callModules d = (t.calledUntimed d).setTimers x from hx]
  unfold Site.SameBeside
  simp [Site.setTimers, Site.sendArm, Site.setDirection, Site.takeSerial, Site.enqueue, Site.updatePassage]

/-- Nothing is fitted before the arm timer starts exactly when the working set is empty (R20, R23). -/
theorem Site.calledUntimed_nothingFitted (t : Site) (d : Dir) : (t.calledUntimed d).nothingFitted = true ↔ t.NoneFitted := by
  have hcf : ∀ n, (t.calledUntimed d).fitted n = (BitVec.ofNat 8 (t.setting .modulesFitted)).getLsbD n := fun _ => rfl
  unfold Site.nothingFitted
  simp only [hcf, List.all_eq_true, List.mem_range, Bool.not_eq_true']
  exact ⟨fun h n => h n.val n.isLt, fun h n hn => h ⟨n, hn⟩⟩

/-- After the call nothing is fitted exactly when the working set is empty (R20, R23). -/
theorem Site.callModules_nothingFitted (t : Site) (d : Dir) : (t.callModules d).nothingFitted = true ↔ t.NoneFitted := by
  obtain ⟨x, hx, -, -⟩ := (t.calledUntimed d).startArmTimer_eq
  rw [← t.calledUntimed_nothingFitted d, show t.callModules d = (t.calledUntimed d).setTimers x from hx]
  rfl

/-- The passage controller after the call: serial, latch, armed moment, expected direction, and the arm timer (R20 to R23). -/
theorem Site.callModules_passage (t : Site) (d : Dir) :
    (t.callModules d).passage =
      { t.passage with
        expected := some d
        serial := some t.store.nextSerial
        armedMoment := t.now
        latched := t.settings
        timers :=
          if (t.callModules d).nothingFitted = true then t.passage.timers else { t.passage.timers with arm := some t.now } } := by
  obtain ⟨x, hx, h1, h2⟩ := (t.calledUntimed d).startArmTimer_eq
  obtain ⟨p1, -, p3⟩ := t.calledUntimed_passage d
  have hr : t.callModules d = (t.calledUntimed d).setTimers x := hx
  have hn : (t.callModules d).nothingFitted = (t.calledUntimed d).nothingFitted := by rw [hr]; rfl
  rw [hn, hr]
  generalize t.calledUntimed d = c at *
  unfold Site.setTimers
  rw [Site.setPassage_passage]
  cases h : c.nothingFitted
  · rw [h1 h, p1, p3]; rfl
  · rw [h2 h, p1]; rfl

/-- Points, modules and store after the call (R16, R20, R73). -/
theorem Site.callModules_rest (t : Site) (d : Dir) :
    (t.callModules d).points = (t.setDirection d).points ∧ (t.callModules d).modules = (t.calledUntimed d).modules ∧
      (t.callModules d).store = (t.calledUntimed d).store := by
  obtain ⟨x, hx, -, -⟩ := (t.calledUntimed d).startArmTimer_eq
  obtain ⟨-, p2, -⟩ := t.calledUntimed_passage d
  rw [show t.callModules d = (t.calledUntimed d).setTimers x from hx, ← p2]
  exact ⟨rfl, rfl, rfl⟩

/-- What the call for a new passage leaves, as the statements say it (R20 to R23, R30, R73). -/
theorem Site.callModules_calledFor (t : Site) (d : Dir) : t.CalledFor d (t.callModules d) := by
  have hp := t.callModules_passage d
  have hf := t.callModules_nothingFitted d
  obtain ⟨r1, r2, r3⟩ := t.callModules_rest d
  obtain ⟨m1, m2⟩ := t.calledUntimed_modules d
  rw [m2] at r2
  rw [m1] at r3
  generalize t.callModules d = r at *
  have hb : [d.armByte] = [if d = .ab then 1#8 else 2#8] := by cases d <;> rfl
  refine ⟨by rw [hp], by rw [hp], by rw [hp], by rw [hp], r3, by rw [r1]; rfl, by rw [r1]; rfl, fun q => ?_, by rw [r2], by rw [r2],
    by rw [r2], fun n => ?_, ?_, fun h => ?_⟩
  · unfold Site.point; rw [r1]; cases q <;> rfl
  · unfold Site.line; rw [r2, ← hb]
    show (tableMapIdx _ _)[n] = _
    rw [tableMapIdx_getElem, ModuleLine.called_eq]; rfl
  · rintro ⟨n, hn⟩
    have : ¬ r.nothingFitted = true := fun h => by
      have h0 : (BitVec.ofNat 8 (t.setting .modulesFitted)).getLsbD n.val = true := hn
      rw [hf.1 h n] at h0; cases h0
    rw [hp, if_neg this]
  · rw [hp, if_pos (hf.2 h)]

end Sys2Proof
end

