-- ==== Sys2Proof/Laws/Roster.lean ====
section
/-! SUPPORT. What the operations of the roster can do to its entries and its vehicles (R45 to R65). -/

namespace Sys2Proof

/-- An element of a list changed in place. -/
theorem updateAt_eq_set {α : Type} (f : α → α) (l : List α) (i : Nat) (e : α) (h : l[i]? = some e) :
    updateAt f i l = l.set i (f e) := by
  induction l generalizing i with
  | nil => simp at h
  | cons x xs ih =>
    cases i with
    | zero => simp at h; subst h; rfl
    | succ i => simp only [updateAt, List.set_cons_succ]; rw [ih i (by simpa using h)]

/-- A change in place keeps a list's length. -/
theorem updateAt_length {α : Type} (f : α → α) (i : Nat) (l : List α) : (updateAt f i l).length = l.length := by
  induction l generalizing i with
  | nil => cases i <;> rfl
  | cons x xs ih => cases i with
    | zero => rfl
    | succ i => exact congrArg (· + 1) (ih i)

/-- An element of a list changed at an index. -/
theorem updateAt_getElem? {α : Type} (f : α → α) (i j : Nat) (l : List α) :
    (updateAt f i l)[j]? = if j = i then l[j]?.map f else l[j]? := by
  induction l generalizing i j with
  | nil => cases i <;> simp [updateAt]
  | cons x xs ih =>
    cases i with
    | zero => cases j <;> simp [updateAt]
    | succ i =>
      cases j with
      | zero => simp [updateAt]
      | succ j => simp [updateAt, ih]

/-- The last element of a list changed. -/
theorem updateAt_last {α : Type} (f : α → α) (l : List α) (v : α) (h : l.getLast? = some v) :
    updateAt f (l.length - 1) l = l.dropLast ++ [f v] := by
  obtain ⟨xs, rfl⟩ := List.getLast?_eq_some_iff.mp h
  rw [updateAt_eq_set f _ _ v (by simp)]
  simp

/-- A vehicle's change leaves the entries. -/
theorem RosterUnit.updateVehicle_entries (u : RosterUnit) (p : Nat) (f : Vehicle → Vehicle) :
    (u.updateVehicle p f).entries = u.entries := by unfold RosterUnit.updateVehicle; split <;> rfl

/-- The vehicles after one is changed. -/
theorem RosterUnit.updateVehicle_vehicles (u : RosterUnit) (p : Nat) (f : Vehicle → Vehicle) (h : p ≠ 0) :
    (u.updateVehicle p f).vehicles = updateAt f (p - 1) u.vehicles := by unfold RosterUnit.updateVehicle; rw [if_neg h]

/-- Two rosters hold the same entries but for their axle indexes. -/
structure RosterUnit.SameButIndexes (u w : RosterUnit) : Prop where
  length : w.entries.length = u.entries.length
  entry : ∀ (i : Nat) (e : AxleEntry), u.entries[i]? = some e → ∃ x, w.entries[i]? = some { e with axleIndex := x }

namespace RosterUnit.SameButIndexes

theorem of (u w : RosterUnit) (h : w.entries = u.entries) : u.SameButIndexes w :=
  ⟨by rw [h], fun _ e he => ⟨e.axleIndex, by rw [h]; exact he⟩⟩

theorem refl (u : RosterUnit) : u.SameButIndexes u := of u u rfl

theorem trans {u v w : RosterUnit} (h : u.SameButIndexes v) (k : v.SameButIndexes w) : u.SameButIndexes w :=
  ⟨k.length.trans h.length, fun i e he => by
    obtain ⟨x, hx⟩ := h.entry i e he
    obtain ⟨y, hy⟩ := k.entry i _ hx
    exact ⟨y, hy⟩⟩

end RosterUnit.SameButIndexes

/-- The entries of a vehicle's run with their axle indexes changed. -/
theorem RosterUnit.setIndexes_same (u : RosterUnit) (p : Nat) (f : Nat → Option Nat) : u.SameButIndexes (u.setIndexes p f) := by
  refine ⟨by simp [RosterUnit.setIndexes], fun i e he => ?_⟩
  have : (u.setIndexes p f).entries[i]? = some (if e.vehicle = p then { e with axleIndex := f e.position } else e) := by
    simp [RosterUnit.setIndexes, he]
  rw [this]
  split
  · exact ⟨_, rfl⟩
  · exact ⟨e.axleIndex, rfl⟩

/-- An orientation fixed changes axle indexes alone among the entries (R64, R65). -/
theorem RosterUnit.fixOrientation_same (u : RosterUnit) (p : Nat) : u.SameButIndexes (u.fixOrientation p) := by
  unfold RosterUnit.fixOrientation
  split
  · split
    · exact (SameButIndexes.of _ _ (updateVehicle_entries _ _ _)).trans (setIndexes_same _ _ _)
    · exact .refl _
  · exact .refl _

/-- A vehicle's closing changes axle indexes alone among the entries (R58). -/
theorem RosterUnit.closeVehicle_same (u : RosterUnit) (p : Nat) : u.SameButIndexes (u.closeVehicle p) := by
  unfold RosterUnit.closeVehicle
  exact (SameButIndexes.of _ _ (updateVehicle_entries _ _ _)).trans (fixOrientation_same _ _)

/-- A placement changes axle indexes alone among the entries (R57). -/
theorem RosterUnit.place_same (u : RosterUnit) (p : Placement) (n : Nat) : u.SameButIndexes (u.place p n) := by
  have h2 : ∀ v : RosterUnit, v.SameButIndexes (if p.openNew then v.openVehicle n else v.joinVehicle u.vehicles.length) := by
    intro v
    split
    · exact .of _ _ rfl
    · exact .of _ _ (updateVehicle_entries _ _ _)
  have h1 : u.SameButIndexes (if p.closeCurrent then u.closeVehicle u.vehicles.length else u) := by
    split
    · exact closeVehicle_same _ _
    · exact .refl _
  exact h1.trans (h2 _)

/-- The closing at twelve axles changes axle indexes alone among the entries (R58). -/
theorem RosterUnit.closeAtTwelve_same (u : RosterUnit) : u.SameButIndexes u.closeAtTwelve := by
  unfold RosterUnit.closeAtTwelve
  split
  · split
    · exact closeVehicle_same _ _
    · exact .refl _
  · exact .refl _

/-- An orientation fixed leaves the generation number. -/
theorem RosterUnit.fixOrientation_generation (u : RosterUnit) (p : Nat) : (u.fixOrientation p).generation = u.generation := by
  unfold RosterUnit.fixOrientation RosterUnit.setIndexes RosterUnit.updateVehicle
  repeat' split
  all_goals rfl

/-- A vehicle's closing leaves the generation number. -/
theorem RosterUnit.closeVehicle_generation (u : RosterUnit) (p : Nat) : (u.closeVehicle p).generation = u.generation := by
  unfold RosterUnit.closeVehicle
  rw [fixOrientation_generation]; unfold RosterUnit.updateVehicle; split <;> rfl

/-- A placement leaves the generation number. -/
theorem RosterUnit.place_generation (u : RosterUnit) (p : Placement) (n : Nat) : (u.place p n).generation = u.generation := by
  unfold RosterUnit.place RosterUnit.openVehicle RosterUnit.joinVehicle RosterUnit.updateVehicle
  dsimp only
  repeat' split
  all_goals first | rfl | exact closeVehicle_generation _ _

/-- The closing at twelve axles leaves the generation number. -/
theorem RosterUnit.closeAtTwelve_generation (u : RosterUnit) : u.closeAtTwelve.generation = u.generation := by
  unfold RosterUnit.closeAtTwelve
  repeat' split
  all_goals first | rfl | exact closeVehicle_generation _ _

/-- An orientation fixed changes the orientation alone among the vehicles (R64). -/
theorem RosterUnit.fixOrientation_vehicles (u : RosterUnit) (p : Nat) :
    ∃ o : Vehicle → Orientation,
      (u.fixOrientation p).vehicles = updateAt (fun v => { v with orientation := o v }) (p - 1) u.vehicles := by
  have hid : updateAt (fun v : Vehicle => { v with orientation := v.orientation }) (p - 1) u.vehicles = u.vehicles := by
    apply List.ext_getElem?; intro j
    rw [updateAt_getElem?]; split <;> simp
  unfold RosterUnit.fixOrientation
  split
  · rename_i v hv
    have hp : p ≠ 0 := by
      intro h; unfold RosterUnit.vehicleAt at hv; rw [if_pos h] at hv; cases hv
    split
    · refine ⟨Vehicle.orientationFromTag, ?_⟩
      show (u.updateVehicle p _).vehicles = _
      rw [updateVehicle_vehicles _ _ _ hp]
    · exact ⟨Vehicle.orientation, hid.symm⟩
  · exact ⟨Vehicle.orientation, hid.symm⟩

/-- The vehicles after the one at a position is CLOSED: its state, and perhaps its orientation (R58, R64). -/
theorem RosterUnit.closeVehicle_vehicles (u : RosterUnit) (p : Nat) (h : p ≠ 0) :
    ∃ o : Vehicle → Orientation, (u.closeVehicle p).vehicles =
      updateAt (fun v => { v with state := .closed, orientation := o v }) (p - 1) u.vehicles := by
  obtain ⟨o, ho⟩ := (u.updateVehicle p (fun v => { v with state := .closed })).fixOrientation_vehicles p
  refine ⟨fun v => o { v with state := .closed }, ?_⟩
  unfold RosterUnit.closeVehicle
  rw [ho, updateVehicle_vehicles _ _ _ h]
  apply List.ext_getElem?; intro j
  rw [updateAt_getElem?, updateAt_getElem?, updateAt_getElem?]
  split
  · cases u.vehicles[j]? <;> rfl
  · rfl

/-- The vehicle at the position of the list's length is the last one. -/
theorem RosterUnit.vehicleAt_last (u : RosterUnit) (v : Vehicle) (h : u.vehicles.getLast? = some v) :
    u.vehicleAt u.vehicles.length = some v := by
  obtain ⟨xs, e⟩ := List.getLast?_eq_some_iff.mp h
  unfold RosterUnit.vehicleAt
  rw [e]
  simp

/-- Closing the last vehicle is R58's closing, with the orientation and the axle indexes of R64 and R65. -/
theorem RosterUnit.closeVehicle_last (u : RosterUnit) (v : Vehicle) (h : u.vehicles.getLast? = some v) :
    LastVehicleClosed u.vehicles u.entries v (u.closeVehicle u.vehicles.length).vehicles
      (u.closeVehicle u.vehicles.length).entries := by
  have h0 : u.vehicles.length ≠ 0 := by
    intro e
    rw [List.length_eq_zero_iff.mp e] at h
    cases h
  -- the vehicle list with its last vehicle `w`, from one that ends in `x`
  have put : ∀ (r : RosterUnit) (x : Vehicle) (f : Vehicle → Vehicle), r.vehicles = u.vehicles.dropLast ++ [x] →
      (r.updateVehicle u.vehicles.length f).vehicles = u.vehicles.dropLast ++ [f x] := by
    intro r x f e
    have l : r.vehicles.length = u.vehicles.length := by rw [e]; simp; omega
    rw [updateVehicle_vehicles _ _ _ h0, ← l, updateAt_last f r.vehicles x (by rw [e]; simp), e]
    simp
  have shut := put u v (fun v => { v with state := .closed })
    (by obtain ⟨xs, e⟩ := List.getLast?_eq_some_iff.mp h; rw [e]; simp)
  have last : (u.updateVehicle u.vehicles.length (fun v => { v with state := .closed })).vehicleAt u.vehicles.length =
      some { v with state := .closed } := by
    have l : (u.updateVehicle u.vehicles.length (fun v => { v with state := .closed })).vehicles.length = u.vehicles.length := by
      rw [shut]; simp; omega
    refine (congrArg (RosterUnit.vehicleAt _) l.symm).trans ?_
    exact vehicleAt_last _ { v with state := .closed } (by rw [shut]; simp)
  have fit : ({ v with state := .closed } : Vehicle).orientable = true ↔
      (v.tagState = .single ∨ v.tagState = .confirmed) ∧ v.axleCount ≤ 12 := by
    unfold Vehicle.orientable
    simp
  have turn : ({ v with state := .closed } : Vehicle).orientationFromTag =
      (match v.taggedEnd with
        | some .one => if 2 * v.readPosition.getD 0 ≤ v.axleCount then .end1Leading else .end2Leading
        | some .two => if 2 * v.readPosition.getD 0 ≤ v.axleCount then .end2Leading else .end1Leading
        | none => .unknown) := by
    unfold Vehicle.orientationFromTag Vehicle.taggedEndLeads
    by_cases q : 2 * v.readPosition.getD 0 ≤ v.axleCount <;> cases v.taggedEnd with
    | none => simp
    | some d => cases d <;> simp [q]
  refine ⟨h, fun k => ?_, fun k => ?_⟩
  · unfold RosterUnit.closeVehicle RosterUnit.fixOrientation
    rw [last]
    dsimp only
    rw [if_pos (fit.mpr k)]
    refine ⟨(put _ _ (fun w => { w with orientation := w.orientationFromTag }) shut).trans
      (congrArg (fun o => u.vehicles.dropLast ++ [{ v with state := .closed, orientation := o }]) turn), ?_⟩
    refine Eq.trans ?_ (congrArg (fun o => u.entries.map (fun e =>
      if e.vehicle = u.vehicles.length then { e with axleIndex := axleIndexOf o v.axleCount e.position } else e)) turn)
    unfold RosterUnit.setIndexes
    dsimp only
    rw [updateVehicle_entries, updateVehicle_entries]
  · unfold RosterUnit.closeVehicle RosterUnit.fixOrientation
    rw [last]
    dsimp only
    rw [if_neg (fun x => k (fit.mp x))]
    exact ⟨shut, updateVehicle_entries _ _ _⟩

/-- What an append's last step closes: the last vehicle at its twelfth axle, unless it is vehicle 256 (R58, R59). -/
theorem RosterUnit.closeAtTwelve_last (u : RosterUnit) (v : Vehicle) (h : u.vehicles.getLast? = some v) :
    (v.state = .opened ∧ 12 ≤ v.axleCount ∧ v.position ≠ 256 →
      LastVehicleClosed u.vehicles u.entries v u.closeAtTwelve.vehicles u.closeAtTwelve.entries) ∧
    (¬(v.state = .opened ∧ 12 ≤ v.axleCount ∧ v.position ≠ 256) → u.closeAtTwelve = u) := by
  unfold RosterUnit.closeAtTwelve RosterUnit.current
  rw [h]
  dsimp only
  refine ⟨fun k => ?_, fun k => ?_⟩
  · rw [if_pos k]
    exact u.closeVehicle_last v h
  · rw [if_neg k]

/-- An axle that joins the last vehicle raises its axle count alone (R57). -/
theorem RosterUnit.joinVehicle_last (u : RosterUnit) (v : Vehicle) (h : u.vehicles.getLast? = some v) :
    (u.joinVehicle u.vehicles.length).vehicles = u.vehicles.dropLast ++ [{ v with axleCount := v.axleCount + 1 }] := by
  have h0 : u.vehicles.length ≠ 0 := by
    intro e
    rw [List.length_eq_zero_iff.mp e] at h
    cases h
  unfold RosterUnit.joinVehicle
  rw [updateVehicle_vehicles _ _ _ h0]
  exact updateAt_last _ _ _ h

/-- The roster after an axle is appended. -/
theorem Site.appendAxle_roster (s : Site) (time : BitVec 32) (speed gap : Option Nat) :
    (s.appendAxle time speed gap).roster = s.rosterAppended time speed gap := by
  have h1 : ∀ (t : Site) (b : Bool) (c : Cause), (t.addRecordCauseIf b c).roster = t.roster := by
    intro t b c; unfold Site.addRecordCauseIf; split <;> rfl
  unfold Site.appendAxle Site.cursorsIntoRoster
  simp only [Site.setModules_roster, h1, Site.setRoster_roster]

end Sys2Proof
end

