-- ==== Sys2Proof/Laws/WatchFrame.lean ====
section
/-! SUPPORT. What applying contributions can touch (R168 to R172, R177, R186): the watch slots, the flags, the counters of the
watch table and the store queue; it makes no hold, and of a write in flight it can set the changed mark alone. -/

namespace Sys2Proof

/-- No entry has a holder or pending contributions. -/
def Site.NoHolds (s : Site) : Prop := ∀ i e, s.watchEntry i = some e → e.hold = none ∧ e.pending = []

/-- A site that came from another by applying contributions. -/
structure Site.AppliedOnly (s t : Site) : Prop where
  rest : t = { s with watch := t.watch, flags := t.flags, counts := t.counts, store := t.store }
  sweep : t.watch = { s.watch with slots := t.watch.slots }
  store : t.store = { s.store with queue := t.store.queue, inFlight := t.store.inFlight }
  noHolds : s.NoHolds → t.NoHolds
  flight : t.store.inFlight = s.store.inFlight ∨
    ∃ w, s.store.inFlight = some w ∧ t.store.inFlight = some { w with changed := true }

namespace Site.AppliedOnly

variable {s0 s t : Site}

theorem refl (s : Site) : s.AppliedOnly s := ⟨rfl, rfl, rfl, id, .inl rfl⟩

theorem trans (h : s0.AppliedOnly s) (k : s.AppliedOnly t) : s0.AppliedOnly t := by
  refine ⟨?_, ?_, ?_, k.noHolds ∘ h.noHolds, ?_⟩
  · rw [k.rest, h.rest]
  · rw [k.sweep, h.sweep]
  · rw [k.store, h.store]
  · rcases h.flight with h1 | ⟨w, h1, h2⟩
    · exact h1 ▸ k.flight
    · rcases k.flight with k1 | ⟨v, k1, k2⟩
      · exact .inr ⟨w, h1, k1.trans h2⟩
      · refine .inr ⟨w, h1, k2.trans ?_⟩
        rw [h2] at k1
        injection k1 with e
        rw [← e]

theorem setFlags (h : s0.AppliedOnly s) (v) : s0.AppliedOnly (s.setFlags v) := h.trans ⟨rfl, rfl, rfl, id, .inl rfl⟩
theorem raise (h : s0.AppliedOnly s) (f) : s0.AppliedOnly (s.raise f) := h.setFlags _
theorem setCounts (h : s0.AppliedOnly s) (v) : s0.AppliedOnly (s.setCounts v) := h.trans ⟨rfl, rfl, rfl, id, .inl rfl⟩

theorem raiseIf (h : s0.AppliedOnly s) (b f) : s0.AppliedOnly (s.raiseIf b f) := by
  unfold Site.raiseIf
  split
  · exact h.raise f
  · exact h

theorem enqueue (h : s0.AppliedOnly s) (i) : s0.AppliedOnly (s.enqueue i) := by
  refine h.trans ⟨rfl, rfl, ?_, id, ?_⟩
  · show s.store.enqueue i = _
    unfold Site.enqueue StoreUnit.enqueue
    repeat' split
    all_goals rfl
  · show (s.store.enqueue i).inFlight = _ ∨ ∃ w, _ ∧ (s.store.enqueue i).inFlight = _
    unfold StoreUnit.enqueue
    split
    · next w hw =>
      split
      · exact .inr ⟨w, hw, rfl⟩
      · split <;> exact .inl rfl
    · split <;> exact .inl rfl

/-- A slot of a table after one slot is set. -/
theorem watchEntry_putWatchSlot (s : Site) (i j : Fin 512) (w : WatchSlot) :
    (s.putWatchSlot i w).watchEntry j = if j = i then w.entry else s.watchEntry j := by
  by_cases e : j = i
  · subst e; simp [Site.putWatchSlot, Site.watchEntry, Site.watchSlot, Site.setWatch]
  · have : i.val ≠ j.val := fun h => e (Fin.ext h.symm)
    simp [Site.putWatchSlot, Site.watchEntry, Site.watchSlot, Site.setWatch, e, Vector.getElem_set_ne, this]

theorem putWatchSlot (h : s0.AppliedOnly s) (i : Fin 512) (w : WatchSlot)
    (hw : s.NoHolds → ∀ e, w.entry = some e → e.hold = none ∧ e.pending = []) : s0.AppliedOnly (s.putWatchSlot i w) := by
  refine h.trans ⟨rfl, rfl, rfl, fun k j e he => ?_, .inl rfl⟩
  rw [watchEntry_putWatchSlot] at he
  split at he
  · exact hw k e he
  · exact k j e he

theorem putEntry (h : s0.AppliedOnly s) (i : Fin 512) (e : WatchEntry)
    (he : s.NoHolds → e.hold = none ∧ e.pending = []) : s0.AppliedOnly (s.putEntry i e) :=
  h.putWatchSlot i _ (fun k f hf => by
    simp only [Option.some.injEq] at hf
    exact hf ▸ he k)

theorem freeSlot (h : s0.AppliedOnly s) (i) : s0.AppliedOnly (s.freeSlot i) :=
  (h.putWatchSlot i _ (fun _ _ he => absurd he (by simp))).enqueue _

theorem putApplied (h : s0.AppliedOnly s) (i : Fin 512) (a : Applied)
    (ha : ∀ f, a.entry = some f → s.NoHolds → f.hold = none ∧ f.pending = []) : s0.AppliedOnly (s.putApplied i a) := by
  unfold Site.putApplied
  split
  · next e he => exact ((h.putEntry i e (ha e he)).enqueue _).raiseIf _ _
  · exact h.freeSlot i

theorem applyAt (h : s0.AppliedOnly s) (i c) : s0.AppliedOnly (s.applyAt i c) := by
  unfold Site.applyAt
  split
  · next e he =>
    split
    · next a ha =>
      refine h.putApplied i a (fun f hf k => ?_)
      have h1 := WatchEntry.apply_holds ha hf
      have h2 := k i e he
      exact ⟨h1.1.trans h2.1, h1.2.trans h2.2⟩
    · exact h
  · exact h

theorem refuseRaise (h : s0.AppliedOnly s) : s0.AppliedOnly s.refuseRaise := (h.setCounts _).raise _

theorem raiseEntry (h : s0.AppliedOnly s) (k g c) : s0.AppliedOnly (s.raiseEntry k g c) := by
  unfold Site.raiseEntry
  split
  · split
    · split
      · exact ((h.putEntry _ _ (fun _ => ⟨rfl, rfl⟩)).applyAt _ _).raise _
      · exact h.refuseRaise
    · exact h.refuseRaise
  · exact h

theorem takeUnheld (h : s0.AppliedOnly s) (c) : s0.AppliedOnly (s.takeUnheld c) := by
  unfold Site.takeUnheld
  repeat' split
  all_goals first | exact h | exact h.applyAt _ _ | exact h.raiseEntry _ _ _

/-- Applying pending contributions in order touches what applying one touches. -/
theorem applyPending (i : Fin 512) : ∀ (cs : List Contribution) (b : Bool) (t : Site), s0.AppliedOnly t →
    s0.AppliedOnly (Site.applyPending i cs b t).1
  | [], _, _, h => h
  | _ :: cs, true, _, h => applyPending i cs _ _ (h.applyAt _ _)
  | _ :: cs, false, _, h => applyPending i cs _ _ (h.takeUnheld _)

theorem foldl {α : Type} (f : Site → α → Site) (hf : ∀ t a, s0.AppliedOnly t → s0.AppliedOnly (f t a)) :
    ∀ (l : List α) (t : Site), s0.AppliedOnly t → s0.AppliedOnly (l.foldl f t)
  | [], _, h => h
  | a :: l, t, h => foldl f hf l (f t a) (hf t a h)

/-! ### What stays, field by field -/

theorem mode (h : s.AppliedOnly t) : t.mode = s.mode := by rw [h.rest]
theorem now (h : s.AppliedOnly t) : t.now = s.now := by rw [h.rest]
theorem pins (h : s.AppliedOnly t) : t.pins = s.pins := by rw [h.rest]
theorem points (h : s.AppliedOnly t) : t.points = s.points := by rw [h.rest]
theorem passage (h : s.AppliedOnly t) : t.passage = s.passage := by rw [h.rest]
theorem roster (h : s.AppliedOnly t) : t.roster = s.roster := by rw [h.rest]
theorem modules (h : s.AppliedOnly t) : t.modules = s.modules := by rw [h.rest]
theorem settings (h : s.AppliedOnly t) : t.settings = s.settings := by rw [h.rest]
theorem composition (h : s.AppliedOnly t) : t.composition = s.composition := by rw [h.rest]
theorem train (h : s.AppliedOnly t) : t.train = s.train := by rw [h.rest]
theorem enables (h : s.AppliedOnly t) : t.enables = s.enables := by rw [h.rest]
theorem holds (h : s.AppliedOnly t) : t.holds = s.holds := by rw [h.rest]
theorem clock (h : s.AppliedOnly t) : t.clock = s.clock := by rw [h.rest]
theorem freeDraws (h : s.AppliedOnly t) : t.freeDraws = s.freeDraws := by rw [h.rest]
theorem sweepSerial (h : s.AppliedOnly t) : t.watch.sweepSerial = s.watch.sweepSerial := by rw [h.sweep]
theorem sweepState (h : s.AppliedOnly t) : t.watch.sweepState = s.watch.sweepState := by rw [h.sweep]
theorem cursor (h : s.AppliedOnly t) : t.watch.cursor = s.watch.cursor := by rw [h.sweep]
theorem startPending (h : s.AppliedOnly t) : t.watch.startPending = s.watch.startPending := by rw [h.sweep]
theorem store_state (h : s.AppliedOnly t) : t.store.state = s.store.state := by rw [h.store]
theorem store_failures (h : s.AppliedOnly t) : t.store.failures = s.store.failures := by rw [h.store]
theorem store_nextStamp (h : s.AppliedOnly t) : t.store.nextStamp = s.store.nextStamp := by rw [h.store]
theorem store_nextSerial (h : s.AppliedOnly t) : t.store.nextSerial = s.store.nextSerial := by rw [h.store]
theorem store_waiting (h : s.AppliedOnly t) : t.store.waiting = s.store.waiting := by rw [h.store]

end Site.AppliedOnly

/-- The watch table as a site reset clears it, before the pending contributions are applied (R179, R186). -/
def Site.watchCleared (s : Site) : Site :=
  (s.setWatch
    { s.watch with
      slots := tableMap WatchSlot.atReset s.watch.slots
      sweepState := .idle
      cursor := 0
      startPending := false }).setHolds { link := 0, service := 0 }

theorem Site.watchCleared_noHolds (s : Site) : s.watchCleared.NoHolds := by
  intro i e he
  have : ((tableMap WatchSlot.atReset s.watch.slots)[i]).entry = some e := he
  simp only [tableMap, Fin.getElem_fin, Vector.getElem_mk, List.getElem_toArray, List.getElem_map,
    WatchSlot.atReset, Option.map_eq_some_iff] at this
  obtain ⟨f, _, rfl⟩ := this
  exact ⟨rfl, rfl⟩

/-- The watch table's part of a site reset: cleared, then only contributions applied (R179). -/
theorem Site.resetWatch_applied (s : Site) : s.watchCleared.AppliedOnly s.resetWatch :=
  Site.AppliedOnly.foldl _ (fun t i k => Site.AppliedOnly.applyPending i _ true t k) _ _ (.refl _)

/-! ### Counters cleared -/

@[simp] theorem Site.clearCounters_mode (s : Site) : s.clearCounters.mode = s.mode := by
  simp [Site.clearCounters, Site.mapLines]
@[simp] theorem Site.clearCounters_now (s : Site) : s.clearCounters.now = s.now := by
  simp [Site.clearCounters, Site.mapLines]
@[simp] theorem Site.clearCounters_pins (s : Site) : s.clearCounters.pins = s.pins := by
  simp [Site.clearCounters, Site.mapLines]
@[simp] theorem Site.clearCounters_settings (s : Site) : s.clearCounters.settings = s.settings := by
  simp [Site.clearCounters, Site.mapLines]
@[simp] theorem Site.clearCounters_composition (s : Site) : s.clearCounters.composition = s.composition := by
  simp [Site.clearCounters, Site.mapLines]
@[simp] theorem Site.clearCounters_train (s : Site) : s.clearCounters.train = s.train := by
  simp [Site.clearCounters, Site.mapLines]
@[simp] theorem Site.clearCounters_watch (s : Site) : s.clearCounters.watch = s.watch := by
  simp [Site.clearCounters, Site.mapLines]
@[simp] theorem Site.clearCounters_flags (s : Site) : s.clearCounters.flags = s.flags := by
  simp [Site.clearCounters, Site.mapLines]
@[simp] theorem Site.clearCounters_enables (s : Site) : s.clearCounters.enables = s.enables := by
  simp [Site.clearCounters, Site.mapLines]
@[simp] theorem Site.clearCounters_holds (s : Site) : s.clearCounters.holds = s.holds := by
  simp [Site.clearCounters, Site.mapLines]
@[simp] theorem Site.clearCounters_clock (s : Site) : s.clearCounters.clock = s.clock := by
  simp [Site.clearCounters, Site.mapLines]
@[simp] theorem Site.clearCounters_freeDraws (s : Site) : s.clearCounters.freeDraws = s.freeDraws := by
  simp [Site.clearCounters, Site.mapLines]
@[simp] theorem Site.clearCounters_points (s : Site) : s.clearCounters.points = s.points.clearCounters := by
  simp [Site.clearCounters, Site.mapLines]
@[simp] theorem Site.clearCounters_passage (s : Site) :
    s.clearCounters.passage = { s.passage with falseApproaches := 0#16 } := by simp [Site.clearCounters, Site.mapLines]
@[simp] theorem Site.clearCounters_roster (s : Site) : s.clearCounters.roster =
    { s.roster with earlyTags := 0#16, lateTags := 0#16, unplacedTags := 0#16, failedReads := 0#16 } := by
  simp [Site.clearCounters, Site.mapLines]
@[simp] theorem Site.clearCounters_store (s : Site) :
    s.clearCounters.store = { s.store with faults := 0#16, entriesLost := 0#16 } := by
  simp [Site.clearCounters, Site.mapLines]
@[simp] theorem Site.clearCounters_modules (s : Site) : s.clearCounters.modules =
    { s.modules with lines := tableMapIdx (fun _ l => l.clearCounters) s.modules.lines } := by
  simp [Site.clearCounters, Site.mapLines]

/-! ### Indications cleared -/

theorem Site.keepClockUnset_eq (s : Site) : ∃ f, s.keepClockUnset = s.setFlags f := by
  unfold Site.keepClockUnset Site.raiseIf
  split
  · exact ⟨_, rfl⟩
  · exact ⟨s.flags, rfl⟩

/-- Every counter is 0 once cleared (R209). -/
theorem Site.clearCounters_counters (s : Site) : s.clearCounters.counters = List.replicate 67 0#16 := by
  have key : ∀ (k : Nat) (ls : List ModuleLine),
      (mapFrom (fun _ l => ModuleLine.clearCounters l) k ls).flatMap ModuleLine.counters =
        List.replicate (6 * ls.length) 0#16 := by
    intro k ls
    induction ls generalizing k with
    | nil => rfl
    | cons a as ih =>
      simp only [mapFrom, List.flatMap_cons, ih, ModuleLine.counters, List.length_cons, Nat.mul_add,
        Nat.add_comm (6 * as.length), List.replicate_add]
      rfl
  have h8 : s.clearCounters.modules.lines.toList = mapFrom (fun _ l => l.clearCounters) 0 s.modules.lines.toList := rfl
  simp only [Site.counters, h8, key, Vector.length_toList]
  rfl

end Sys2Proof
end

