-- ==== Sys2Proof/Laws/Same.lean ====
section
/-! SUPPORT. Two relations between sites: one that changes nothing the invariants of the passage and the records read, and one
that changes nothing the invariants of the tables' keys and holds read; and the operations that stay within them. -/

namespace Sys2Proof

/-! ### The passage, the records, the roster and the places -/

/-- Nothing that RecordsSound, VerdictsSound, RosterSound and PlacesSound read differs; verdicts stay sound. -/
structure Site.SamePassage (s t : Site) : Prop where
  isOpen : t.passageOpen = s.passageOpen
  idle : t.passage.phase = .idle ↔ s.passage.phase = .idle
  held : t.passage.held = s.passage.held
  direction : t.passage.direction = s.passage.direction
  gate : t.passage.gate = s.passage.gate
  nets : ∀ p, (t.point p).net = (s.point p).net
  entries : t.roster.entries.map AxleEntry.state = s.roster.entries.map AxleEntry.state
  positions : t.roster.vehicles.map Vehicle.position = s.roster.vehicles.map Vehicle.position
  standing : t.roster.standing = s.roster.standing
  rosterNet : t.roster.net = s.roster.net
  phases : ∀ i, (t.recordAt i).map TrainRecord.phase = (s.recordAt i).map TrainRecord.phase
  verdicts : s.VerdictsSound → t.VerdictsSound
  composing : t.composing = s.composing
  places : ∀ n, (t.line n).cursor = (s.line n).cursor ∧ (t.line n).beyond = (s.line n).beyond

namespace Site.SamePassage

variable {s0 s t : Site}

theorem refl (s : Site) : s.SamePassage s := ⟨rfl, Iff.rfl, rfl, rfl, rfl, fun _ => rfl, rfl, rfl, rfl, rfl, fun _ => rfl, id, rfl,
  fun _ => ⟨rfl, rfl⟩⟩

theorem trans (h : s0.SamePassage s) (k : s.SamePassage t) : s0.SamePassage t :=
  ⟨k.isOpen.trans h.isOpen, k.idle.trans h.idle, k.held.trans h.held, k.direction.trans h.direction, k.gate.trans h.gate,
    fun p => (k.nets p).trans (h.nets p), k.entries.trans h.entries, k.positions.trans h.positions,
    k.standing.trans h.standing, k.rosterNet.trans h.rosterNet, fun i => (k.phases i).trans (h.phases i),
    k.verdicts ∘ h.verdicts, k.composing.trans h.composing,
    fun n => ⟨(k.places n).1.trans (h.places n).1, (k.places n).2.trans (h.places n).2⟩⟩

/-- A change of none of the blocks that the invariants read. -/
theorem same (h : s0.SamePassage s) (hp : t.passage = s.passage) (hq : t.points = s.points) (hr : t.roster = s.roster)
    (ht : t.train = s.train) (hc : t.composition = s.composition) (hm : t.modules = s.modules) : s0.SamePassage t := by
  refine h.trans ⟨?_, by rw [hp], by rw [hp], by rw [hp], by rw [hp], fun p => ?_, by rw [hr], by rw [hr], by rw [hr], by rw [hr],
    fun i => ?_, ?_, ?_, fun n => ?_⟩
  · unfold Site.passageOpen; rw [hp]
  · unfold Site.point; rw [hq]
  · unfold Site.recordAt; rw [ht]
  · unfold Site.VerdictsSound Site.recordAt; rw [ht]; exact id
  · unfold Site.composing; rw [hc]
  · unfold Site.line; rw [hm]; exact ⟨rfl, rfl⟩

theorem ite {c : Prop} [Decidable c] {a b : Site} (h : s0.SamePassage a) (k : s0.SamePassage b) :
    s0.SamePassage (if c then a else b) := by split <;> assumption

theorem foldl {α : Type} (f : Site → α → Site) (hf : ∀ t a, s0.SamePassage t → s0.SamePassage (f t a)) :
    ∀ (l : List α) (t : Site), s0.SamePassage t → s0.SamePassage (l.foldl f t)
  | [], _, h => h
  | a :: l, t, h => foldl f hf l (f t a) (hf t a h)

/-! ### Setters -/

theorem setMode (h : s0.SamePassage s) (v) : s0.SamePassage (s.setMode v) := h.same rfl rfl rfl rfl rfl rfl
theorem setNow (h : s0.SamePassage s) (v) : s0.SamePassage (s.setNow v) := h.same rfl rfl rfl rfl rfl rfl
theorem setPins (h : s0.SamePassage s) (v) : s0.SamePassage (s.setPins v) := h.same rfl rfl rfl rfl rfl rfl
theorem setSettings (h : s0.SamePassage s) (v) : s0.SamePassage (s.setSettings v) := h.same rfl rfl rfl rfl rfl rfl
theorem setWatch (h : s0.SamePassage s) (v) : s0.SamePassage (s.setWatch v) := h.same rfl rfl rfl rfl rfl rfl
theorem setFlags (h : s0.SamePassage s) (v) : s0.SamePassage (s.setFlags v) := h.same rfl rfl rfl rfl rfl rfl
theorem setEnables (h : s0.SamePassage s) (v) : s0.SamePassage (s.setEnables v) := h.same rfl rfl rfl rfl rfl rfl
theorem setCounts (h : s0.SamePassage s) (v) : s0.SamePassage (s.setCounts v) := h.same rfl rfl rfl rfl rfl rfl
theorem setHolds (h : s0.SamePassage s) (v) : s0.SamePassage (s.setHolds v) := h.same rfl rfl rfl rfl rfl rfl
theorem setClock (h : s0.SamePassage s) (v) : s0.SamePassage (s.setClock v) := h.same rfl rfl rfl rfl rfl rfl
theorem setStore (h : s0.SamePassage s) (v) : s0.SamePassage (s.setStore v) := h.same rfl rfl rfl rfl rfl rfl
theorem setFreeDraws (h : s0.SamePassage s) (v) : s0.SamePassage (s.setFreeDraws v) := h.same rfl rfl rfl rfl rfl rfl
theorem enqueue (h : s0.SamePassage s) (v) : s0.SamePassage (s.enqueue v) := h.setStore _
theorem raise (h : s0.SamePassage s) (f) : s0.SamePassage (s.raise f) := h.setFlags _
theorem raiseIf (h : s0.SamePassage s) (b f) : s0.SamePassage (s.raiseIf b f) := ite (h.raise f) h
theorem loseHold (h : s0.SamePassage s) (p) : s0.SamePassage (s.loseHold p) := h.setHolds _
theorem gainHold (h : s0.SamePassage s) (p) : s0.SamePassage (s.gainHold p) := h.setHolds _
theorem keepClockUnset (h : s0.SamePassage s) : s0.SamePassage s.keepClockUnset := h.raiseIf _ _
theorem clearFlags (h : s0.SamePassage s) (v) : s0.SamePassage (s.clearFlags v) := by
  unfold Site.clearFlags
  exact (h.setFlags _).keepClockUnset

/-- The passage controller replaced by one with the same phase, held mark, direction and gate. -/
theorem setPassage (h : s0.SamePassage s) (v : Passage) (h1 : v.phase = s.passage.phase := by rfl)
    (h2 : v.held = s.passage.held := by rfl) (h3 : v.direction = s.passage.direction := by rfl)
    (h4 : v.gate = s.passage.gate := by rfl) : s0.SamePassage (s.setPassage v) := by
  refine h.trans ⟨?_, by simp [Site.setPassage, h1], h2, h3, h4, fun _ => rfl, rfl, rfl, rfl, rfl, fun _ => rfl, id, rfl,
    fun _ => ⟨rfl, rfl⟩⟩
  simp [Site.passageOpen, Site.setPassage, h1]

/-- An open passage's phase changed to another open one. -/
theorem setOpenPhase (h : s0.SamePassage s) (v : Passage) (ho : s.passageOpen = true) (h1 : v.phase.isOpen = true := by rfl)
    (h2 : v.held = s.passage.held := by rfl) (h3 : v.direction = s.passage.direction := by rfl)
    (h4 : v.gate = s.passage.gate := by rfl) :
    s0.SamePassage (s.setPassage v) := by
  refine h.trans ⟨by rw [ho]; exact h1, ?_, h2, h3, h4, fun _ => rfl, rfl, rfl, rfl, rfl, fun _ => rfl, id, rfl,
    fun _ => ⟨rfl, rfl⟩⟩
  have a : v.phase ≠ .idle := fun e => by rw [e] at h1; exact absurd h1 (by decide)
  have b : s.passage.phase ≠ .idle := fun e => by
    unfold Site.passageOpen at ho; rw [e] at ho; exact absurd ho (by decide)
  exact ⟨fun e => absurd e a, fun e => absurd e b⟩

theorem addPending (h : s0.SamePassage s) (c) : s0.SamePassage (s.addPending c) := h.setPassage _
theorem setTimers (h : s0.SamePassage s) (c) : s0.SamePassage (s.setTimers c) := h.setPassage _

/-- The points replaced by ones with the same net counts. -/
theorem setPoints (h : s0.SamePassage s) (v : PointUnit) (hv : ∀ p, (v.get p).net = (s.point p).net) :
    s0.SamePassage (s.setPoints v) :=
  h.trans ⟨rfl, Iff.rfl, rfl, rfl, rfl, hv, rfl, rfl, rfl, rfl, fun _ => rfl, id, rfl, fun _ => ⟨rfl, rfl⟩⟩

theorem putPoint (h : s0.SamePassage s) (p : PointId) (v : Point) (hv : v.net = (s.point p).net := by rfl) :
    s0.SamePassage (s.putPoint p v) := by
  refine h.setPoints _ (fun q => ?_)
  show ((s.putPoint p v).point q).net = _
  rw [Site.putPoint_point]
  split
  · next e => rw [e]; exact hv
  · rfl

/-- The roster replaced by one with the same entry states, positions, standing and net axle count. -/
theorem setRoster (h : s0.SamePassage s) (v : RosterUnit)
    (h1 : v.entries.map AxleEntry.state = s.roster.entries.map AxleEntry.state := by rfl)
    (h2 : v.vehicles.map Vehicle.position = s.roster.vehicles.map Vehicle.position := by rfl)
    (h3 : v.standing = s.roster.standing := by rfl) (h4 : v.net = s.roster.net := by rfl) : s0.SamePassage (s.setRoster v) :=
  h.trans ⟨rfl, Iff.rfl, rfl, rfl, rfl, fun _ => rfl, h1, h2, h3, h4, fun _ => rfl, id, rfl, fun _ => ⟨rfl, rfl⟩⟩

/-- The train table replaced by one with the same phases, its verdicts sound. -/
theorem setTrain (h : s0.SamePassage s) (v : Vector (Option TrainRecord) 4)
    (h1 : ∀ i : Fin 4, (v[i]).map TrainRecord.phase = (s.recordAt i).map TrainRecord.phase)
    (h2 : s.VerdictsSound → (s.setTrain v).VerdictsSound) : s0.SamePassage (s.setTrain v) :=
  h.trans ⟨rfl, Iff.rfl, rfl, rfl, rfl, fun _ => rfl, rfl, rfl, rfl, rfl, h1, h2, rfl, fun _ => ⟨rfl, rfl⟩⟩

/-- Every record changed by a function that keeps its phase and its verdict. -/
theorem mapTrain (h : s0.SamePassage s) (f : Option TrainRecord → Option TrainRecord)
    (hf : ∀ r, (f r).map TrainRecord.phase = r.map TrainRecord.phase)
    (hv : ∀ r, (f r).bind TrainRecord.verdict = r.bind TrainRecord.verdict) :
    s0.SamePassage (s.setTrain (tableMap f s.train)) := by
  refine h.setTrain _ (fun i => ?_) (fun k i r v hr hw => ?_)
  · rw [tableMap_getElem]; exact hf _
  · rw [Site.setTrain_recordAt] at hr
    have h1 := hv (s.recordAt i)
    rw [hr] at h1
    cases e : s.recordAt i with
    | none => rw [e] at h1; simp [hw] at h1
    | some q => rw [e] at h1; simp only [Option.bind_some, hw] at h1; exact k i q v e h1.symm

theorem putRecord (h : s0.SamePassage s) (i : Fin 4) (r q : TrainRecord) (hr : s.recordAt i = some r)
    (h1 : q.phase = r.phase := by rfl)
    (h2 : ∀ v, q.verdict = some v → (r.verdict = some v ∨ v.deferred = v.findings.countP (fun f => f.state == .deferred)) := by
      exact fun _ hv => Or.inl hv) :
    s0.SamePassage (s.putRecord i (some q)) := by
  have hp : ∀ j, (s.train.set i (some q))[j] = if j = i then some q else s.recordAt j := fun j => s.putRecord_recordAt i j (some q)
  refine h.setTrain _ (fun j => ?_) (fun k j r' v hr' hv => ?_)
  · rw [hp]; split
    · next e => rw [e, hr]; simp [h1]
    · rfl
  · have : (s.train.set i (some q))[j] = some r' := hr'
    rw [hp] at this
    split at this
    · next e =>
      injection this with this
      subst this
      rcases h2 v hv with a | a
      · exact k i r v hr a
      · exact a
    · exact k j r' v this hv

theorem addRecordCause (h : s0.SamePassage s) (c) : s0.SamePassage (s.addRecordCause c) :=
  h.mapTrain _ (fun r => by cases r with | none => rfl | some r => unfold addCauseWhenOpen; simp only; split <;> rfl)
    (fun r => by cases r with | none => rfl | some r => unfold addCauseWhenOpen; simp only; split <;> rfl)
theorem addCause (h : s0.SamePassage s) (c) : s0.SamePassage (s.addCause c) := ite (h.addRecordCause c) (h.addPending c)
theorem addRecordCauseIf (h : s0.SamePassage s) (b c) : s0.SamePassage (s.addRecordCauseIf b c) := ite (h.addRecordCause c) h

/-- Every record of a phase changed by a function that keeps phase and verdict. -/
theorem updateRecord (h : s0.SamePassage s) (p) (f : TrainRecord → TrainRecord)
    (h1 : ∀ r, (f r).phase = r.phase := by intros; rfl) (h2 : ∀ r, (f r).verdict = r.verdict := by intros; rfl) : s0.SamePassage (s.updateRecord p f) :=
  h.mapTrain _
    (fun r => by cases r with | none => rfl | some r => unfold updateInPhase; simp only; split <;> simp [h1])
    (fun r => by cases r with | none => rfl | some r => unfold updateInPhase; simp only; split <;> simp [h2])

theorem setComposition (h : s0.SamePassage s) (v : Option Composition) (hv : v.isSome = s.composition.isSome) :
    s0.SamePassage (s.setComposition v) :=
  h.trans ⟨rfl, Iff.rfl, rfl, rfl, rfl, fun _ => rfl, rfl, rfl, rfl, rfl, fun _ => rfl, id, hv, fun _ => ⟨rfl, rfl⟩⟩

/-- The module lines replaced by ones at the same places. -/
theorem setModules (h : s0.SamePassage s) (v : ModuleUnit)
    (hv : ∀ n : Fin 8, (v.lines[n]).cursor = (s.line n).cursor ∧ (v.lines[n]).beyond = (s.line n).beyond := by
      exact fun _ => ⟨rfl, rfl⟩) :
    s0.SamePassage (s.setModules v) :=
  h.trans ⟨rfl, Iff.rfl, rfl, rfl, rfl, fun _ => rfl, rfl, rfl, rfl, rfl, fun _ => rfl, id, rfl, hv⟩

theorem putLine (h : s0.SamePassage s) (n : Fin 8) (l : ModuleLine) (h1 : l.cursor = (s.line n).cursor)
    (h2 : l.beyond = (s.line n).beyond) : s0.SamePassage (s.putLine n l) := by
  refine h.setModules _ (fun m => ?_)
  show ((s.putLine n l).line m).cursor = _ ∧ ((s.putLine n l).line m).beyond = _
  rw [Site.putLine_line]
  split
  · next e => rw [e]; exact ⟨h1, h2⟩
  · exact ⟨rfl, rfl⟩

theorem updateLine (h : s0.SamePassage s) (n : Fin 8) (f : ModuleLine → ModuleLine)
    (h1 : ∀ l, (f l).cursor = l.cursor := by intros; rfl) (h2 : ∀ l, (f l).beyond = l.beyond := by intros; rfl) : s0.SamePassage (s.updateLine n f) := h.putLine n _ (h1 _) (h2 _)

theorem mapLines (h : s0.SamePassage s) (f : Nat → ModuleLine → ModuleLine)
    (h1 : ∀ n l, (f n l).cursor = l.cursor := by intros; rfl) (h2 : ∀ n l, (f n l).beyond = l.beyond := by intros; rfl) : s0.SamePassage (s.mapLines f) := by
  refine h.setModules _ (fun m => ?_)
  show ((s.mapLines f).line m).cursor = _ ∧ ((s.mapLines f).line m).beyond = _
  rw [Site.mapLines_line]
  exact ⟨h1 _ _, h2 _ _⟩

/-! ### The watch table -/

theorem applied (h : s0.SamePassage s) (k : s.AppliedOnly t) : s0.SamePassage t := by
  rw [k.rest]; exact h.same rfl rfl rfl rfl rfl rfl
theorem putWatchSlot (h : s0.SamePassage s) (i w) : s0.SamePassage (s.putWatchSlot i w) := h.setWatch _
theorem putEntry (h : s0.SamePassage s) (i e) : s0.SamePassage (s.putEntry i e) := h.putWatchSlot _ _
theorem freeSlot (h : s0.SamePassage s) (i) : s0.SamePassage (s.freeSlot i) := (h.putWatchSlot _ _).enqueue _

end Site.SamePassage

end Sys2Proof
end

