-- ==== Sys2Proof/Laws/SamePassage.lean ====
section
/-! SUPPORT. The operations that change nothing of what the invariants of the passage, the records, the roster and the module
places read. -/

namespace Sys2Proof

/-- The vehicle positions after one vehicle is changed by a function that keeps its position. -/
theorem updateAt_map {α β : Type} (f : α → α) (g : α → β) (hf : ∀ a, g (f a) = g a) (i : Nat) (l : List α) :
    (updateAt f i l).map g = l.map g := by
  induction l generalizing i with
  | nil => cases i <;> rfl
  | cons x xs ih => cases i with
    | zero => simp [updateAt, hf]
    | succ i => simp [updateAt, ih]

theorem RosterUnit.updateVehicle_positions (u : RosterUnit) (p : Nat) (f : Vehicle → Vehicle)
    (hf : ∀ v, (f v).position = v.position) :
    (u.updateVehicle p f).vehicles.map Vehicle.position = u.vehicles.map Vehicle.position := by
  unfold RosterUnit.updateVehicle
  split
  · rfl
  · exact updateAt_map f _ hf _ _

/-- The states of the entries stand where only axle indexes change. -/
theorem RosterUnit.setIndexes_states (u : RosterUnit) (p : Nat) (f : Nat → Option Nat) :
    (u.setIndexes p f).entries.map AxleEntry.state = u.entries.map AxleEntry.state := by
  simp only [RosterUnit.setIndexes, List.map_map]
  refine List.map_congr_left (fun e _ => ?_)
  simp only [Function.comp]
  split <;> rfl

theorem RosterUnit.fixOrientation_states (u : RosterUnit) (p : Nat) :
    (u.fixOrientation p).entries.map AxleEntry.state = u.entries.map AxleEntry.state := by
  unfold RosterUnit.fixOrientation
  repeat' split
  · rw [RosterUnit.setIndexes_states, RosterUnit.updateVehicle_entries]
  · rfl
  · rfl

theorem RosterUnit.fixOrientation_positions (u : RosterUnit) (p : Nat) :
    (u.fixOrientation p).vehicles.map Vehicle.position = u.vehicles.map Vehicle.position := by
  obtain ⟨o, ho⟩ := u.fixOrientation_vehicles p
  rw [ho]
  exact updateAt_map (fun v : Vehicle => { v with orientation := o v }) _ (fun _ => rfl) _ _

theorem RosterUnit.closeVehicle_states (u : RosterUnit) (p : Nat) :
    (u.closeVehicle p).entries.map AxleEntry.state = u.entries.map AxleEntry.state := by
  unfold RosterUnit.closeVehicle
  rw [RosterUnit.fixOrientation_states, RosterUnit.updateVehicle_entries]

theorem RosterUnit.closeVehicle_positions (u : RosterUnit) (p : Nat) :
    (u.closeVehicle p).vehicles.map Vehicle.position = u.vehicles.map Vehicle.position := by
  unfold RosterUnit.closeVehicle
  rw [RosterUnit.fixOrientation_positions]
  exact u.updateVehicle_positions p _ (fun _ => rfl)

/-- The standing and the net axle count stand while vehicles and axle indexes change. -/
theorem RosterUnit.updateVehicle_heading (u : RosterUnit) (p : Nat) (f : Vehicle → Vehicle) :
    (u.updateVehicle p f).standing = u.standing ∧ (u.updateVehicle p f).net = u.net := by
  unfold RosterUnit.updateVehicle; split <;> exact ⟨rfl, rfl⟩

theorem RosterUnit.fixOrientation_heading (u : RosterUnit) (p : Nat) :
    (u.fixOrientation p).standing = u.standing ∧ (u.fixOrientation p).net = u.net := by
  unfold RosterUnit.fixOrientation
  repeat' split
  · exact u.updateVehicle_heading p _
  · exact ⟨rfl, rfl⟩
  · exact ⟨rfl, rfl⟩

theorem RosterUnit.closeVehicle_heading (u : RosterUnit) (p : Nat) :
    (u.closeVehicle p).standing = u.standing ∧ (u.closeVehicle p).net = u.net := by
  unfold RosterUnit.closeVehicle
  have h1 := (u.updateVehicle p (fun v => { v with state := .closed })).fixOrientation_heading p
  have h2 := u.updateVehicle_heading p (fun v => { v with state := .closed })
  exact ⟨h1.1.trans h2.1, h1.2.trans h2.2⟩

/-- The entry states after one entry is changed by a function that keeps its state. -/
theorem RosterUnit.updateEntry_states (u : RosterUnit) (n : Nat) (f : AxleEntry → AxleEntry) (hf : ∀ e, (f e).state = e.state) :
    (u.updateEntry n f).entries.map AxleEntry.state = u.entries.map AxleEntry.state := by
  unfold RosterUnit.updateEntry
  split
  · rfl
  · exact updateAt_map f _ hf _ _

namespace Site.SamePassage

variable {s0 s : Site}

/-! ### Points -/

theorem setHealth (h : s0.SamePassage s) (hd v) : s0.SamePassage (s.setHealth hd v) := by
  unfold Site.setHealth
  exact (h.putPoint _ _ (Point.setHealth_net _ _ _)).raiseIf _ _
theorem cutOffStanding (h : s0.SamePassage s) : s0.SamePassage s.cutOffStanding :=
  foldl _ (fun _ _ k => ite (k.setHealth _ _) k) _ _ h
theorem recordCrossing (h : s0.SamePassage s) (p d i) : s0.SamePassage (s.recordCrossing p d i) := h.putPoint _ _
theorem countSpurious (h : s0.SamePassage s) (p) : s0.SamePassage (s.countSpurious p) := h.putPoint _ _

/-! ### Roster -/

theorem updateVehicle (h : s0.SamePassage s) (p : Nat) (f : Vehicle → Vehicle) (hf : ∀ v, (f v).position = v.position) :
    s0.SamePassage (s.setRoster (s.roster.updateVehicle p f)) :=
  h.setRoster _ (by rw [RosterUnit.updateVehicle_entries]) (s.roster.updateVehicle_positions p f hf)
    (s.roster.updateVehicle_heading p f).1 (s.roster.updateVehicle_heading p f).2
theorem updateEntry (h : s0.SamePassage s) (n : Nat) (f : AxleEntry → AxleEntry) (hf : ∀ e, (f e).state = e.state) :
    s0.SamePassage (s.setRoster (s.roster.updateEntry n f)) :=
  h.setRoster _ (s.roster.updateEntry_states n f hf) (by unfold RosterUnit.updateEntry; split <;> rfl)
    (by unfold RosterUnit.updateEntry; split <;> rfl) (by unfold RosterUnit.updateEntry; split <;> rfl)
theorem fixOrientation (h : s0.SamePassage s) (p : Nat) (f : Vehicle → Vehicle) (hf : ∀ v, (f v).position = v.position) :
    s0.SamePassage (s.setRoster ((s.roster.updateVehicle p f).fixOrientation p)) :=
  h.setRoster _ (by rw [RosterUnit.fixOrientation_states, RosterUnit.updateVehicle_entries])
    (by rw [RosterUnit.fixOrientation_positions]; exact s.roster.updateVehicle_positions p f hf)
    (((s.roster.updateVehicle p f).fixOrientation_heading p).1.trans (s.roster.updateVehicle_heading p f).1)
    (((s.roster.updateVehicle p f).fixOrientation_heading p).2.trans (s.roster.updateVehicle_heading p f).2)
theorem tagConflict (h : s0.SamePassage s) (p) : s0.SamePassage (s.tagConflict p) := by
  unfold Site.tagConflict
  refine addRecordCause ?_ _
  exact h.setRoster _ (by rw [RosterUnit.setIndexes_states, RosterUnit.updateVehicle_entries])
    (s.roster.updateVehicle_positions p _ (fun _ => rfl))
    (s.roster.updateVehicle_heading p _).1 (s.roster.updateVehicle_heading p _).2
theorem assignTag (h : s0.SamePassage s) (t e) : s0.SamePassage (s.assignTag t e) := by
  unfold Site.assignTag
  repeat' split
  · exact h.fixOrientation _ _ (fun _ => rfl)
  · exact h.updateVehicle _ _ (fun _ => rfl)
  · exact h.tagConflict _
  · exact h
  · exact h.tagConflict _
  · exact h
  · exact h
theorem takeTag (h : s0.SamePassage s) (t) : s0.SamePassage (s.takeTag t) := by
  unfold Site.takeTag
  dsimp only
  repeat' split
  all_goals first | exact h.setRoster _ | exact h.assignTag _ _

/-! ### Module lines -/

theorem sendStandDown (h : s0.SamePassage s) : s0.SamePassage s.sendStandDown :=
  h.mapLines _ (fun _ _ => by split <;> rfl) (fun _ _ => by split <;> rfl)
theorem standDownModules (h : s0.SamePassage s) : s0.SamePassage s.standDownModules :=
  h.sendStandDown.mapLines _ (fun _ _ => by unfold ModuleLine.standDown; split <;> rfl)
    (fun _ _ => by unfold ModuleLine.standDown; split <;> rfl)
theorem becomeArmed (h : s0.SamePassage s) : s0.SamePassage s.becomeArmed := by
  unfold Site.becomeArmed
  split
  · next e =>
    refine h.trans ⟨?_, ?_, rfl, rfl, rfl, fun _ => rfl, rfl, rfl, rfl, rfl, fun _ => rfl, id, rfl, fun _ => ⟨rfl, rfl⟩⟩
    · unfold Site.passageOpen; rw [e]; rfl
    · rw [e]
      exact Iff.intro (fun a => PassagePhase.noConfusion a) (fun a => PassagePhase.noConfusion a)
  · exact h
theorem stopArmTimer (h : s0.SamePassage s) : s0.SamePassage s.stopArmTimer := h.setTimers _
theorem startArmTimer (h : s0.SamePassage s) : s0.SamePassage s.startArmTimer := ite h (h.setTimers _)
theorem readyReported (h : s0.SamePassage s) : s0.SamePassage s.readyReported := ite h.stopArmTimer.becomeArmed h
theorem giveUpModules (h : s0.SamePassage s) : s0.SamePassage s.giveUpModules :=
  h.mapLines _ (fun _ _ => by unfold ModuleLine.giveUp; split <;> rfl) (fun _ _ => by unfold ModuleLine.giveUp; split <;> rfl)
theorem armExpiry (h : s0.SamePassage s) : s0.SamePassage s.armExpiry := h.giveUpModules.stopArmTimer.becomeArmed
theorem armTimerAtClose (h : s0.SamePassage s) : s0.SamePassage s.armTimerAtClose := ite h.giveUpModules.stopArmTimer h
theorem completeModules (h : s0.SamePassage s) : s0.SamePassage s.completeModules :=
  (((h.addRecordCauseIf _ _).raiseIf _ _).raiseIf _ _).mapLines _
theorem malformedFrame (h : s0.SamePassage s) (n r) : s0.SamePassage (s.updateLine n (fun l => l.malformedFrame.receive r)) :=
  h.updateLine _ _
theorem moduleGap (h : s0.SamePassage s) (n b) : s0.SamePassage (s.moduleGap n b) := h.malformedFrame _ _
theorem discardModuleFrame (h : s0.SamePassage s) (n d) : s0.SamePassage (s.discardModuleFrame n d) := by
  unfold Site.discardModuleFrame
  split
  · exact h.malformedFrame _ _
  · exact h.malformedFrame _ _
  · exact h.updateLine _ _ (fun _ => by split <;> rfl) (fun _ => by split <;> rfl)
theorem moduleReady (h : s0.SamePassage s) (n p) : s0.SamePassage (s.moduleReady n p) := by
  have k : s0.SamePassage (s.updateLine n ModuleLine.becomeReady) := h.updateLine _ _
  exact ite (k.setModules _) k
theorem takeReady (h : s0.SamePassage s) (n p) : s0.SamePassage (s.takeReady n p) := by
  unfold Site.takeReady
  split
  all_goals first | exact (h.moduleReady _ _).readyReported | exact (h.moduleReady _ _).addCause _ | exact h
theorem moduleFrame (h : s0.SamePassage s) (n f take) (ht : ∀ t, s0.SamePassage t → s0.SamePassage (take t)) :
    s0.SamePassage (s.takeFrame n f take) := by
  have k : s0.SamePassage (s.updateLine n (fun l => l.receive .hunting)) := h.updateLine _ _
  unfold Site.takeFrame
  dsimp only
  repeat' split
  all_goals first
    | exact h
    | exact k.updateLine _ _
    | exact ht _ k
theorem readyFrame (h : s0.SamePassage s) (n f) : s0.SamePassage (s.readyFrame n f) :=
  h.moduleFrame _ _ _ (fun _ k => k.takeReady _ _)
theorem tagFrame (h : s0.SamePassage s) (f) : s0.SamePassage (s.tagFrame f) :=
  h.moduleFrame _ _ _ (fun _ k => (k.takeReady _ _).takeTag _)

/-! ### Watch table -/

theorem endHold (h : s0.SamePassage s) (i) : s0.SamePassage (s.endHold i) := by
  unfold Site.endHold
  repeat' split
  all_goals first | exact h | exact (h.putEntry _ _).loseHold _
theorem applyAt (h : s0.SamePassage s) (i c) : s0.SamePassage (s.applyAt i c) := by
  unfold Site.applyAt Site.putApplied
  repeat' split
  all_goals first | exact h | exact ((h.putEntry _ _).enqueue _).raiseIf _ _ | exact h.freeSlot _
theorem refuseRaise (h : s0.SamePassage s) : s0.SamePassage s.refuseRaise := (h.setCounts _).raise _
theorem raiseEntry (h : s0.SamePassage s) (k g c) : s0.SamePassage (s.raiseEntry k g c) := by
  unfold Site.raiseEntry
  repeat' split
  all_goals first | exact h | exact ((h.putEntry _ _).applyAt _ _).raise _ | exact h.refuseRaise
theorem takeUnheld (h : s0.SamePassage s) (c) : s0.SamePassage (s.takeUnheld c) := by
  unfold Site.takeUnheld
  repeat' split
  all_goals first | exact h | exact h.applyAt _ _ | exact h.raiseEntry _ _ _
theorem applyPending (i : Fin 512) : ∀ (cs : List Contribution) (b : Bool) (t : Site), s0.SamePassage t →
    s0.SamePassage (Site.applyPending i cs b t).1
  | [], _, _, h => h
  | _ :: cs, true, _, h => applyPending i cs _ _ (h.applyAt _ _)
  | _ :: cs, false, _, h => applyPending i cs _ _ (h.takeUnheld _)
theorem breakHold (h : s0.SamePassage s) (i hd cs) : s0.SamePassage (s.breakHold i hd cs) := by
  unfold Site.breakHold
  exact applyPending _ _ _ _ (((h.endHold _).raise _).putWatchSlot _ _)
theorem takeAt (h : s0.SamePassage s) (i c) : s0.SamePassage (s.takeAt i c) := by
  unfold Site.takeAt Site.pend
  repeat' split
  all_goals first | exact h | exact h.putEntry _ _ | exact h.breakHold _ _ _ | exact h.applyAt _ _
theorem contribute (h : s0.SamePassage s) (c) : s0.SamePassage (s.contribute c) := by
  unfold Site.contribute Site.takeKeyed
  repeat' split
  all_goals first | exact h | exact h.takeAt _ _ | exact h.raiseEntry _ _ _
theorem releaseEntry (h : s0.SamePassage s) (i e) : s0.SamePassage (s.releaseEntry i e).1 := applyPending _ _ _ _ (h.endHold _)
theorem sendResolution (h : s0.SamePassage s) (k g) : s0.SamePassage (s.sendResolution k g) := by
  unfold Site.sendResolution
  split
  · exact h.contribute _
  · exact h
theorem watchLeaseExpiry (h : s0.SamePassage s) (i) : s0.SamePassage (s.watchLeaseExpiry i) := by
  unfold Site.watchLeaseExpiry
  split
  · exact (h.raise _).releaseEntry _ _
  · exact h
theorem startSweep (h : s0.SamePassage s) : s0.SamePassage s.startSweep := h.setWatch _
theorem setStartPending (h : s0.SamePassage s) (b) : s0.SamePassage (s.setStartPending b) := h.setWatch _
theorem setSweep (h : s0.SamePassage s) (v) : s0.SamePassage (s.setSweep v) := h.setWatch _
theorem takeSweepStart (h : s0.SamePassage s) : s0.SamePassage s.takeSweepStart := ite (ite (h.setStartPending _) h.startSweep) h
theorem suspendSweep (h : s0.SamePassage s) : s0.SamePassage s.suspendSweep := ite (h.setSweep _) h
theorem resumeSweep (h : s0.SamePassage s) : s0.SamePassage s.resumeSweep := ite (h.setSweep _) h
theorem startPendingSweep (h : s0.SamePassage s) : s0.SamePassage s.startPendingSweep := ite h.startSweep h
theorem sweepVisit (h : s0.SamePassage s) : s0.SamePassage s.sweepVisit := by
  have hv : ∀ i, s0.SamePassage (s.visit i) := by
    intro i
    unfold Site.visit
    repeat' split
    all_goals first | exact h | exact h.takeAt _ _
  have ha : ∀ t : Site, s0.SamePassage t → s0.SamePassage t.advanceCursor :=
    fun t k => ite (k.setWatch _) ((k.setWatch _).raise _)
  unfold Site.sweepVisit
  repeat' split
  all_goals first | exact ha _ (hv _) | exact ha _ h | exact h
theorem resetWatch (h : s0.SamePassage s) : s0.SamePassage s.resetWatch :=
  foldl _ (fun _ _ k => applyPending _ _ _ _ k) _ _ ((h.setWatch _).setHolds _)

/-! ### Train table -/

theorem breakTrainHold (h : s0.SamePassage s) (r) : s0.SamePassage (s.breakTrainHold r) := by
  unfold Site.breakTrainHold
  split
  · exact (h.loseHold _).raise _
  · exact h
theorem abandonDeferred (h : s0.SamePassage s) (r) : s0.SamePassage (s.abandonDeferred r) := h.setCounts _
theorem reclaim (h : s0.SamePassage s) (i) : s0.SamePassage (s.reclaim i) := by
  unfold Site.reclaim
  split
  · exact (ite (h.breakTrainHold _) (((h.breakTrainHold _).setCounts _).raise _)).abandonDeferred _
  · exact h
theorem endTrainHold (h : s0.SamePassage s) (i r p) (hr : s.recordAt i = some r) : s0.SamePassage (s.endTrainHold i r p) :=
  (h.putRecord i r _ hr).loseHold _
theorem trainLeaseExpiry (h : s0.SamePassage s) (i) : s0.SamePassage (s.trainLeaseExpiry i) := by
  unfold Site.trainLeaseExpiry
  repeat' split
  all_goals first | exact h | exact (h.endTrainHold _ _ _ ‹_›).raise _

/-! ### Passage controller -/

theorem takeSerial (h : s0.SamePassage s) : s0.SamePassage s.takeSerial := by
  unfold Site.takeSerial
  dsimp only
  refine enqueue (setStore ?_ _) _
  exact SamePassage.setModules (h.setPassage _) _
theorem falseApproach (h : s0.SamePassage s) : s0.SamePassage s.falseApproach := h.setPassage _
theorem takeGateCrossing (h : s0.SamePassage s) (p d i) : s0.SamePassage (s.takeGateCrossing p d i).1 := by
  unfold Site.takeGateCrossing
  dsimp only
  repeat' split
  all_goals first | exact h | (dsimp only; exact h.setPassage _)
theorem testOpposing (h : s0.SamePassage s) (p d) : s0.SamePassage (s.testOpposing p d) := by
  unfold Site.testOpposing
  repeat' split
  all_goals first | exact (h.addPending _).raise _ | exact h

theorem open_of_running {p : PassagePhase} (h : p.running = true) : p.isOpen = true := by cases p <;> simp_all [PassagePhase.running, PassagePhase.isOpen]

theorem becomeClearing (h : s0.SamePassage s) (o) (ho : s.passageOpen = true) : s0.SamePassage (s.becomeClearing o) :=
  h.setOpenPhase _ ho
theorem returnToPassage (h : s0.SamePassage s) (ho : s.passageOpen = true) : s0.SamePassage s.returnToPassage :=
  h.setOpenPhase _ ho
theorem testClearing (h : s0.SamePassage s) : s0.SamePassage s.testClearing := by
  unfold Site.testClearing
  split
  · next e => exact h.becomeClearing _ (open_of_running (Bool.and_eq_true_iff.mp e).1)
  · exact h
theorem testWithdrawal (h : s0.SamePassage s) : s0.SamePassage s.testWithdrawal := by
  unfold Site.testWithdrawal
  split
  · next e => exact h.becomeClearing _ (open_of_running (Bool.and_eq_true_iff.mp (Bool.and_eq_true_iff.mp e).1).1)
  · exact h
theorem testGateCounts (h : s0.SamePassage s) : s0.SamePassage s.testGateCounts := h.addRecordCauseIf _ _
theorem clearUnchecked (h : s0.SamePassage s) (ho : s.passageOpen = true) : s0.SamePassage s.clearUnchecked :=
  (h.becomeClearing _ ho).addRecordCause _
theorem testMembership (h : s0.SamePassage s) (ho : s.passageOpen = true) : s0.SamePassage s.testMembership := by
  have h1 := h.testGateCounts
  have ho1 : s.testGateCounts.passageOpen = true := by
    unfold Site.testGateCounts Site.addRecordCauseIf; split <;> exact ho
  unfold Site.testMembership
  dsimp only
  repeat' split
  all_goals first | exact h1.testClearing | exact h1.clearUnchecked ho1 | exact h1.addRecordCause _ | exact h1
theorem leaveCheckSet (h : s0.SamePassage s) (p) : s0.SamePassage (s.leaveCheckSet p) := by
  unfold Site.leaveCheckSet
  split
  · next e => exact testMembership (h.setPassage _) (Bool.and_eq_true_iff.mp e).1
  · exact h
theorem changeHealth (h : s0.SamePassage s) (hd v) : s0.SamePassage (s.changeHealth hd v) :=
  ite ((h.setHealth _ _).leaveCheckSet _) (h.setHealth _ _)
theorem takeOpenCrossing (h : s0.SamePassage s) (p) (ho : s.passageOpen = true) : s0.SamePassage (s.takeOpenCrossing p) := by
  unfold Site.takeOpenCrossing
  repeat' split
  all_goals first | exact h.returnToPassage ho | exact h
theorem standstillExpiry (h : s0.SamePassage s) (ho : s.passageOpen = true) : s0.SamePassage s.standstillExpiry :=
  ite ((h.setOpenPhase _ ho).addRecordCause _) (h.clearUnchecked ho)
theorem stuckExpiry (h : s0.SamePassage s) (hd) : s0.SamePassage (s.stuckExpiry hd) := ite (h.changeHealth _ _) h
theorem quietExpiry (h : s0.SamePassage s) (hd) : s0.SamePassage (s.quietExpiry hd) := ite (h.changeHealth _ _) h
theorem rescale (h : s0.SamePassage s) (n) : s0.SamePassage (s.rescale n) := by
  unfold Site.rescale
  split
  · exact foldl _ (fun _ _ k => k.stuckExpiry _) _ _ h
  · exact foldl _ (fun _ _ k => k.quietExpiry _) _ _ h
  · exact h
theorem armTimerEvent (h : s0.SamePassage s) : s0.SamePassage s.armTimerEvent := ite h.armExpiry h
theorem standstillEvent (h : s0.SamePassage s) : s0.SamePassage s.standstillEvent := by
  unfold Site.standstillEvent
  split
  · next e => exact h.standstillExpiry (by unfold Site.passageOpen; rw [e.1]; rfl)
  · exact h

/-! ### Composition -/

theorem putComposition (h : s0.SamePassage s) (c) (hc : s.composing = true) : s0.SamePassage (s.putComposition c) :=
  h.setComposition _ (by unfold Site.composing at hc; rw [hc]; rfl)
theorem composeStep (h : s0.SamePassage s) (k f) (hf : ∀ c, s.composing = true → s0.SamePassage (f c)) :
    s0.SamePassage (s.composeStep k f) := by
  unfold Site.composeStep
  split
  · next c e => exact ite (hf c (by unfold Site.composing; rw [e]; rfl)) h
  · exact h
theorem composeDerive (h : s0.SamePassage s) : s0.SamePassage s.composeDerive :=
  h.composeStep _ _ (fun _ hc => h.putComposition _ hc)
theorem composeTest (h : s0.SamePassage s) : s0.SamePassage s.composeTest := h.composeStep _ _ (fun _ hc => h.putComposition _ hc)
theorem composeWatched (h : s0.SamePassage s) : s0.SamePassage s.composeWatched :=
  h.composeStep _ _ (fun _ hc => h.putComposition _ hc)
theorem addClosingCause (h : s0.SamePassage s) (b c) : s0.SamePassage (s.addClosingCause b c) :=
  ite (h.updateRecord _ _) h
theorem composeSelect (h : s0.SamePassage s) : s0.SamePassage s.composeSelect :=
  h.composeStep _ _ (fun _ hc => (h.putComposition _ hc).addClosingCause _ _)
theorem writeVerdict (h : s0.SamePassage s) (v : Verdict) (hv : v.deferred = v.findings.countP (fun f => f.state == .deferred)) :
    s0.SamePassage (s.updateRecord .closing (fun r => { r with verdict := some v })) := by
  refine h.setTrain _ (fun i => ?_) (fun k i r w hr hw => ?_)
  · rw [tableMap_getElem]
    show (updateInPhase _ _ (s.recordAt i)).map _ = _
    unfold updateInPhase
    split
    · next e => rw [e]; simp only; split <;> rfl
    · next e => rw [e]
  · have hr : (s.updateRecord .closing (fun r => { r with verdict := some v })).recordAt i = some r := hr
    rw [Site.updateRecord_recordAt] at hr
    unfold updateInPhase at hr
    split at hr
    · next q e =>
      split at hr
      · injection hr with hr
        subst hr
        have : some v = some w := hw
        injection this with this
        exact this ▸ hv
      · injection hr with hr
        subst hr
        exact k i q w e hw
    · exact absurd hr (by simp)
theorem composeVerdict (h : s0.SamePassage s) : s0.SamePassage s.composeVerdict :=
  h.composeStep _ _ (fun c hc => by
    dsimp only
    refine putComposition ((h.writeVerdict _ rfl).addClosingCause _ _) _ ?_
    unfold Site.addClosingCause
    split <;> exact hc)
theorem sendContribution (h : s0.SamePassage s) : s0.SamePassage s.sendContribution :=
  h.composeStep _ _ (fun c hc => by
    split
    · exact (h.putComposition _ hc).contribute _
    · exact h)
theorem raiseVerdictFlags (h : s0.SamePassage s) (r) : s0.SamePassage (s.raiseVerdictFlags r) :=
  ((h.raise _).raiseIf _ _).raiseIf _ _

/-! ### Clock, store, loading -/

theorem nextSpan (h : s0.SamePassage s) : s0.SamePassage s.nextSpan := h.setClock _
theorem advanceReading (h : s0.SamePassage s) : s0.SamePassage s.advanceReading := by
  unfold Site.advanceReading Site.clockWrap
  dsimp only
  repeat' split
  · exact ((h.setClock _).setStartPending _).raise _
  · exact (h.setClock _).takeSweepStart
  · exact h.setClock _
theorem clockSecond (h : s0.SamePassage s) : s0.SamePassage s.clockSecond := ite h h.nextSpan.advanceReading
theorem setReading (h : s0.SamePassage s) (d) : s0.SamePassage (s.setReading d) := h.setClock _
theorem noteClockChange (h : s0.SamePassage s) : s0.SamePassage s.noteClockChange :=
  ite (h.addRecordCause _) (ite (h.addPending _) h)
theorem startWrite (h : s0.SamePassage s) : s0.SamePassage s.startWrite := by
  unfold Site.startWrite
  repeat' split
  all_goals first | exact h | exact h.setStore _
theorem landWrite (h : s0.SamePassage s) (w) : s0.SamePassage (s.landWrite w) := h.setStore _
theorem writeSucceeds (h : s0.SamePassage s) (w) : s0.SamePassage (s.writeSucceeds w) := by
  have k : s0.SamePassage ((s.landWrite w).stampSlot w) := by
    unfold Site.stampSlot
    split
    · exact (h.landWrite _).putWatchSlot _ _
    · exact h.landWrite _
    · exact h.landWrite _
  exact ite ((k.setStore _).enqueue _) (k.setStore _)
theorem writeFails (h : s0.SamePassage s) (w) : s0.SamePassage (s.writeFails w) :=
  (((h.landWrite _).enqueue _).setStore _).raise _
theorem retryStore (h : s0.SamePassage s) : s0.SamePassage s.retryStore := ite (h.setStore _).startWrite h
theorem takeSettingsImage (h : s0.SamePassage s) (i) : s0.SamePassage (s.takeSettingsImage i) := by
  have k : s0.SamePassage (s.loadSettings i) := by
    unfold Site.loadSettings
    repeat' split
    all_goals first | exact (h.setSettings _).setStore _ | exact h.raise _
  exact ite (k.setStore _) h
theorem badSerial (h : s0.SamePassage s) : s0.SamePassage s.badSerial := (((h.setStore _).enqueue _).setStore _).raise _
theorem takeSerialImage (h : s0.SamePassage s) (i) : s0.SamePassage (s.takeSerialImage i) := by
  have k : s0.SamePassage (s.loadSerial i) := by
    unfold Site.loadSerial
    repeat' split
    all_goals first | exact h.setStore _ | exact (h.setStore _).setStore _ | exact h.badSerial
  exact ite (k.setStore _) h
theorem loseSlot (h : s0.SamePassage s) (i) : s0.SamePassage (s.loseSlot i) := ((h.enqueue _).setStore _).raise _
theorem loadSlot (h : s0.SamePassage s) (i m) : s0.SamePassage (s.loadSlot i m) := by
  unfold Site.loadSlot
  repeat' split
  all_goals first | exact h | exact h.loseSlot _ | exact (h.putWatchSlot _ _).setStore _
theorem takeSlotImage (h : s0.SamePassage s) (i) : s0.SamePassage (s.takeSlotImage i) := by
  unfold Site.takeSlotImage
  repeat' split
  all_goals first | exact h | exact (h.loadSlot _ _).setStore _
theorem startRunning (h : s0.SamePassage s) : s0.SamePassage s.startRunning := by
  unfold Site.startRunning
  dsimp only
  refine setWatch (SamePassage.setPassage ?_ _) _
  refine SamePassage.mapLines ?_ _
  exact ((h.setMode _).setNow _).setPoints _ (fun p => by cases p <;> rfl)
theorem endLoading (h : s0.SamePassage s) : s0.SamePassage s.endLoading := by
  unfold Site.endLoading
  dsimp only
  have h1 : s0.SamePassage s.freeDuplicates := foldl _ (fun _ _ k => k.freeSlot _) _ _ h
  generalize s.freeDuplicates = t at h1
  exact ite (startRunning (h1.setStore { t.store with nextStamp := t.store.firstStamp })) h
theorem hold (h : s0.SamePassage s) : s0.SamePassage s.hold := (h.setMode _).setStore _
theorem clearCounters (h : s0.SamePassage s) : s0.SamePassage s.clearCounters := by
  unfold Site.clearCounters
  dsimp only
  refine setStore (mapLines (setRoster (setPassage (setPoints (h.setCounts _) _ ?_) _) _) _
   ) _
  exact fun p => by cases p <;> rfl
theorem resetIndications (h : s0.SamePassage s) : s0.SamePassage s.resetIndications :=
  ((h.setFlags _).setEnables _).clearCounters.keepClockUnset
theorem tick (h : s0.SamePassage s) : s0.SamePassage s.tick :=
  ite ((h.setNow _).mapLines _) h
theorem whenRunning (h : s0.SamePassage s) (f : Site → Site) (hf : s0.SamePassage (f s)) : s0.SamePassage (s.whenRunning f) := ite hf h

end Site.SamePassage

end Sys2Proof
end

