-- ==== Sys2Proof/Laws/PassageSound.lean ====
section
/-! SUPPORT. The invariants of the passage, the records, the verdicts, the roster and the module places, kept by the operations that
change what they read: opening, counting, filling, reports, close, composition's end, reset. -/

namespace Sys2Proof

/-- The invariants of the passage and of what goes with it, together. -/
structure Site.PassageSound (s : Site) : Prop where
  records : s.RecordsSound
  verdicts : s.VerdictsSound
  roster : s.RosterSound
  places : s.PlacesSound

/-- The roster is right for a net axle count: bounds, numbering, PRESENT exactly up to the count, and as long as the count or
1,024 (R45, R49, R52). -/
structure RosterUnit.Fits (u : RosterUnit) (m : Nat) : Prop where
  entries : u.entries.length ≤ 1024
  vehicles : u.vehicles.length ≤ 256
  positions : ∀ (k : Nat) v, u.vehicles[k]? = some v → v.position = k + 1
  present : ∀ (k : Nat) e, u.entries[k]? = some e → (e.state = .present ↔ k + 1 ≤ m)
  reached : min m 1024 ≤ u.entries.length

theorem Site.RosterSound.fits {s : Site} (h : s.RosterSound) : s.roster.Fits s.headingNet :=
  ⟨h.entries, h.vehicles, h.positions, h.present, h.reached⟩

/-- The entries of a list of states. -/
theorem getElem?_of_map {α β : Type} {f : α → β} {xs ys : List α} (h : xs.map f = ys.map f) {k : Nat} {x : α}
    (hx : xs[k]? = some x) : ∃ y, ys[k]? = some y ∧ f y = f x := by
  have h1 : (xs.map f)[k]? = some (f x) := by rw [List.getElem?_map, hx]; rfl
  rw [h, List.getElem?_map] at h1
  cases e : ys[k]? with
  | none => rw [e] at h1; exact absurd h1 (by simp)
  | some y => rw [e] at h1; exact ⟨y, rfl, by simpa using h1⟩

theorem length_of_map {α β : Type} {f : α → β} {xs ys : List α} (h : xs.map f = ys.map f) : xs.length = ys.length := by
  have := congrArg List.length h; simpa using this

/-- A roster with the same entry states and vehicle positions fits the same count. -/
theorem RosterUnit.Fits.of_same {u w : RosterUnit} {m : Nat} (h : u.Fits m)
    (he : w.entries.map AxleEntry.state = u.entries.map AxleEntry.state)
    (hv : w.vehicles.map Vehicle.position = u.vehicles.map Vehicle.position) : w.Fits m := by
  refine ⟨by rw [length_of_map he]; exact h.entries, by rw [length_of_map hv]; exact h.vehicles, fun k v hk => ?_, fun k e hk => ?_,
    by rw [length_of_map he]; exact h.reached⟩
  · obtain ⟨y, hy, e⟩ := getElem?_of_map hv hk
    rw [← e]; exact h.positions k y hy
  · obtain ⟨y, hy, e'⟩ := getElem?_of_map he hk
    rw [← e']; exact h.present k y hy

theorem Site.SamePassage.headingNet {s t : Site} (h : s.SamePassage t) : t.headingNet = s.headingNet := by
  unfold Site.headingNet Site.gateNet
  rw [h.standing, h.gate, h.rosterNet]
  split
  · split
    · exact h.nets _
    · rfl
  · rfl

theorem Site.SamePassage.gateNet {s t : Site} (h : s.SamePassage t) : t.gateNet = s.gateNet := by
  unfold Site.gateNet
  rw [h.gate]
  split
  · exact h.nets _
  · rfl

theorem Site.SamePassage.rosterLen {s t : Site} (h : s.SamePassage t) : t.rosterLen = s.rosterLen := by
  unfold Site.rosterLen
  rw [h.isOpen, length_of_map h.entries]

/-- A record of one table in a phase is one of another with the same phases. -/
theorem phase_of_same {s t : Site} (h : ∀ i, (t.recordAt i).map TrainRecord.phase = (s.recordAt i).map TrainRecord.phase) {i : Fin 4}
    {r : TrainRecord} (hr : t.recordAt i = some r) : ∃ q, s.recordAt i = some q ∧ q.phase = r.phase := by
  have := h i
  rw [hr] at this
  cases e : s.recordAt i with
  | none => rw [e] at this; exact absurd this (by simp)
  | some q => rw [e] at this; exact ⟨q, rfl, by simpa using this.symm⟩

theorem exists_phase_congr {s t : Site} (h : ∀ i, (t.recordAt i).map TrainRecord.phase = (s.recordAt i).map TrainRecord.phase)
    (p : RecordPhase) : (∃ i r, t.recordAt i = some r ∧ r.phase = p) ↔ ∃ i r, s.recordAt i = some r ∧ r.phase = p := by
  constructor
  · rintro ⟨i, r, hr, hp⟩
    obtain ⟨q, hq, e⟩ := phase_of_same h hr
    exact ⟨i, q, hq, e.trans hp⟩
  · rintro ⟨i, r, hr, hp⟩
    obtain ⟨q, hq, e⟩ := phase_of_same (fun i => (h i).symm) hr
    exact ⟨i, q, hq, e.trans hp⟩

namespace Site.RecordsSound

variable {s t : Site}

/-- The records stay sound where phases, the open passage and the composition stand. -/
theorem of_same (k : s.RecordsSound) (h : ∀ i, (t.recordAt i).map TrainRecord.phase = (s.recordAt i).map TrainRecord.phase)
    (ho : t.passageOpen = s.passageOpen) (hc : t.composing = s.composing)
    (hh : t.passage.held = true → s.composing = true ∧ t.passage.direction.isSome = true) : t.RecordsSound := by
  refine ⟨fun i j r q hi hj hr hq => ?_, ?_, ?_, fun e => by rw [hc]; exact hh e⟩
  · obtain ⟨r', hr', e1⟩ := phase_of_same h hi
    obtain ⟨q', hq', e2⟩ := phase_of_same h hj
    exact k.active i j r' q' hr' hq' (by rw [e1]; exact hr) (by rw [e2]; exact hq)
  · rw [exists_phase_congr h, ho]; exact k.opened
  · rw [exists_phase_congr h, hc]; exact k.closing

/-- No passage is open while a composition is in flight. -/
theorem not_both (k : s.RecordsSound) (ho : s.passageOpen = true) (hc : s.composing = true) : False := by
  obtain ⟨i, r, hr, hp⟩ := k.opened.mpr ho
  obtain ⟨j, q, hq, hp'⟩ := k.closing.mpr hc
  have e := k.active i j r q hr hq (by rw [hp]; decide) (by rw [hp']; decide)
  subst e
  rw [hr] at hq
  injection hq with hq
  rw [hq, hp'] at hp
  exact absurd hp (by decide)

/-- While no passage is open and no composition in flight, every record is CLOSED. -/
theorem all_closed (k : s.RecordsSound) (ho : s.passageOpen = false) (hc : s.composing = false) (i : Fin 4) (r : TrainRecord)
    (hr : s.recordAt i = some r) : r.phase = .closed := by
  cases e : r.phase with
  | closed => rfl
  | opened => exact absurd (k.opened.mp ⟨i, r, hr, e⟩) (by rw [ho]; decide)
  | closing => exact absurd (k.closing.mp ⟨i, r, hr, e⟩) (by rw [hc]; decide)

end Site.RecordsSound

namespace Site.PassageSound

variable {s t : Site}

/-- A change of nothing the invariants read keeps them. -/
theorem of_same (k : s.PassageSound) (h : s.SamePassage t) : t.PassageSound := by
  have hf := k.roster.fits.of_same h.entries h.positions
  refine ⟨k.records.of_same h.phases h.isOpen h.composing (fun e => ?_), h.verdicts k.verdicts,
    ⟨?_, hf.entries, hf.vehicles, hf.positions, ?_, ?_, ?_⟩, ?_⟩
  · rw [h.direction]; rw [h.held] at e; exact k.records.held e
  · rw [h.standing, h.isOpen]; exact k.roster.live
  · rw [h.headingNet]; exact hf.present
  · rw [h.headingNet]; exact hf.reached
  · intro h1 h2 h3
    rw [h.nets, h.nets]
    exact k.roster.waiting (fun e => h1 (h.idle.mpr e)) (by rw [← h.isOpen]; exact h2) (by rw [← h.held]; exact h3)
  · intro h1 n
    rw [(h.places n).1, (h.places n).2, h.rosterLen]
    refine k.places ?_ n
    rcases h1 with h1 | h1
    · exact Or.inl (fun e => h1 (h.idle.mpr e))
    · exact Or.inr (by rw [← h.held]; exact h1)

/-- While no passage is open, the roster is not LIVE and the heading shows the count of the last close. -/
theorem heading_shut (k : s.PassageSound) (ho : s.passageOpen = false) : s.headingNet = s.roster.net := by
  unfold Site.headingNet
  rw [if_neg]
  intro e
  rw [k.roster.live.mp e] at ho
  exact absurd ho (by decide)

/-- From one site with no open passage to another with the same records and the same roster. -/
theorem shut (k : s.PassageSound) (hs : s.passageOpen = false) (ht : t.passageOpen = false)
    (hp : ∀ i, (t.recordAt i).map TrainRecord.phase = (s.recordAt i).map TrainRecord.phase) (hv : s.VerdictsSound → t.VerdictsSound)
    (hc : t.composing = s.composing) (hr : t.roster = s.roster)
    (hh : t.passage.held = true → s.composing = true ∧ t.passage.direction.isSome = true)
    (hw : t.passage.phase ≠ .idle → t.passage.held = false → (t.point .ga).net = 0 ∧ (t.point .gb).net = 0)
    (hl : t.passage.phase ≠ .idle ∨ t.passage.held = true → ∀ n, (t.line n).cursor = 0) : t.PassageSound := by
  have hn : t.headingNet = s.headingNet := by
    rw [k.heading_shut hs]
    unfold Site.headingNet
    rw [hr, if_neg]
    intro e
    rw [k.roster.live.mp e] at hs
    exact absurd hs (by decide)
  refine ⟨k.records.of_same hp (ht.trans hs.symm) hc hh, hv k.verdicts, ⟨?_, ?_, ?_, ?_, ?_, ?_, fun a _ b => hw a b⟩, ?_⟩
  · rw [hr, ht, ← hs]; exact k.roster.live
  · rw [hr]; exact k.roster.entries
  · rw [hr]; exact k.roster.vehicles
  · rw [hr]; exact k.roster.positions
  · rw [hr, hn]; exact k.roster.present
  · rw [hr, hn]; exact k.roster.reached
  · intro h n
    have h0 : t.rosterLen = 0 := by unfold Site.rosterLen; rw [ht]; rfl
    rw [hl h n, h0]
    exact ⟨Nat.le_refl _, fun _ => rfl⟩

end Site.PassageSound

/-! ### The roster of a rise, a fall and a fill -/

namespace RosterUnit

theorem closeVehicle_fits {u : RosterUnit} {m : Nat} (h : u.Fits m) (p : Nat) : (u.closeVehicle p).Fits m :=
  h.of_same (u.closeVehicle_states p) (u.closeVehicle_positions p)

/-- The current vehicle is numbered as the last of the list. -/
theorem current_position {u : RosterUnit} (h : ∀ (k : Nat) v, u.vehicles[k]? = some v → v.position = k + 1) {v : Vehicle}
    (hv : u.current = some v) : v.position = u.vehicles.length := by
  unfold current at hv
  rw [List.getLast?_eq_getElem?] at hv
  have hlt : u.vehicles.length - 1 < u.vehicles.length := by
    rw [List.getElem?_eq_some_iff] at hv
    exact hv.1
  have := h _ _ hv
  omega

/-- A new vehicle opens only where fewer than 256 stand (R57, R59). -/
theorem open_below {u : RosterUnit} (h : ∀ (k : Nat) v, u.vehicles[k]? = some v → v.position = k + 1) (hl : u.vehicles.length ≤ 256)
    {c : GapClass} (ho : (placementOf u.current c).openNew = true) : u.vehicles.length < 256 := by
  unfold placementOf at ho
  cases e : u.current with
  | none =>
    unfold current at e
    rw [List.getLast?_eq_none_iff] at e
    rw [e]; decide
  | some v =>
    rw [e] at ho
    have := current_position h e
    by_cases h256 : v.position = 256
    · simp [h256] at ho
    · omega

theorem place_positions {u : RosterUnit} (h : ∀ (k : Nat) v, u.vehicles[k]? = some v → v.position = k + 1)
    (hl : u.vehicles.length ≤ 256) (c : GapClass) (n : Nat) :
    (∀ (k : Nat) v, (u.place (placementOf u.current c) n).vehicles[k]? = some v → v.position = k + 1) ∧
      (u.place (placementOf u.current c) n).vehicles.length ≤ 256 := by
  have hb := fun ho => open_below (c := c) h hl ho
  generalize placementOf u.current c = p at hb
  unfold place
  dsimp only
  have hm : ∀ w : RosterUnit, w.vehicles.map Vehicle.position = u.vehicles.map Vehicle.position →
      (∀ (k : Nat) v, w.vehicles[k]? = some v → v.position = k + 1) ∧ w.vehicles.length = u.vehicles.length := by
    intro w hw
    refine ⟨fun k v hk => ?_, length_of_map hw⟩
    obtain ⟨y, hy, e⟩ := getElem?_of_map hw hk
    rw [← e]; exact h k y hy
  have h1 : (if p.closeCurrent then u.closeVehicle u.vehicles.length else u).vehicles.map Vehicle.position =
      u.vehicles.map Vehicle.position := by
    split
    · exact u.closeVehicle_positions _
    · rfl
  generalize (if p.closeCurrent then u.closeVehicle u.vehicles.length else u) = w at h1
  obtain ⟨hw, hwl⟩ := hm w h1
  split
  · next ho =>
    have hlt := hb ho
    unfold openVehicle
    refine ⟨fun k v hk => ?_, by simp only [List.length_append, List.length_singleton]; omega⟩
    rw [List.getElem?_append] at hk
    split at hk
    · exact hw k v hk
    · next hge =>
      rw [List.getElem?_singleton] at hk
      split at hk
      · injection hk with hk
        rw [← hk]
        show w.vehicles.length + 1 = k + 1
        omega
      · exact absurd hk (by simp)
  · have := hm (w.joinVehicle u.vehicles.length)
      ((w.updateVehicle_positions u.vehicles.length (fun v => { v with axleCount := v.axleCount + 1 }) (fun _ => rfl)).trans h1)
    exact ⟨this.1, by rw [this.2]; exact hl⟩

theorem place_states (u : RosterUnit) (p : Placement) (n : Nat) :
    (u.place p n).entries.map AxleEntry.state = u.entries.map AxleEntry.state := by
  unfold place openVehicle joinVehicle
  dsimp only
  have h1 : (if p.closeCurrent then u.closeVehicle u.vehicles.length else u).entries.map AxleEntry.state =
      u.entries.map AxleEntry.state := by
    split
    · exact u.closeVehicle_states _
    · rfl
  split
  · exact h1
  · rw [updateVehicle_entries]; exact h1

theorem place_heading (u : RosterUnit) (p : Placement) (n : Nat) :
    (u.place p n).standing = u.standing ∧ (u.place p n).net = u.net := by
  unfold place openVehicle joinVehicle
  dsimp only
  have h1 : (if p.closeCurrent then u.closeVehicle u.vehicles.length else u).standing = u.standing ∧
      (if p.closeCurrent then u.closeVehicle u.vehicles.length else u).net = u.net := by
    split
    · exact u.closeVehicle_heading _
    · exact ⟨rfl, rfl⟩
  split
  · exact h1
  · have h2 := updateVehicle_heading (if p.closeCurrent then u.closeVehicle u.vehicles.length else u) u.vehicles.length
      (fun v => { v with axleCount := v.axleCount + 1 })
    exact ⟨h2.1.trans h1.1, h2.2.trans h1.2⟩

theorem closeAtTwelve_cases (u : RosterUnit) : u.closeAtTwelve = u ∨ u.closeAtTwelve = u.closeVehicle u.vehicles.length := by
  unfold closeAtTwelve
  repeat' split
  · exact Or.inr rfl
  · exact Or.inl rfl
  · exact Or.inl rfl

/-- Both lists of a roster after the closing of a vehicle of twelve axles: states, positions, standing and count stand. -/
theorem closeAtTwelve_keeps (u : RosterUnit) :
    u.closeAtTwelve.entries.map AxleEntry.state = u.entries.map AxleEntry.state ∧
      u.closeAtTwelve.vehicles.map Vehicle.position = u.vehicles.map Vehicle.position ∧
      u.closeAtTwelve.standing = u.standing ∧ u.closeAtTwelve.net = u.net := by
  rcases u.closeAtTwelve_cases with e | e <;> rw [e]
  · exact ⟨rfl, rfl, rfl, rfl⟩
  · exact ⟨u.closeVehicle_states _, u.closeVehicle_positions _, u.closeVehicle_heading _⟩

end RosterUnit

/-- The roster after an append: the states of before with one PRESENT more, the vehicles within their bounds. -/
theorem Site.rosterAppended_fits (s : Site) (time : BitVec 32) (speed gap : Option Nat) (hv : s.roster.vehicles.length ≤ 256)
    (hp : ∀ (k : Nat) v, s.roster.vehicles[k]? = some v → v.position = k + 1) :
    (s.rosterAppended time speed gap).entries.map AxleEntry.state = s.roster.entries.map AxleEntry.state ++ [.present] ∧
      (s.rosterAppended time speed gap).vehicles.length ≤ 256 ∧
      (∀ (k : Nat) v, (s.rosterAppended time speed gap).vehicles[k]? = some v → v.position = k + 1) ∧
      (s.rosterAppended time speed gap).standing = s.roster.standing ∧ (s.rosterAppended time speed gap).net = s.roster.net := by
  unfold Site.rosterAppended
  dsimp only
  have hpl := RosterUnit.place_positions hp hv (gapClassOf s.passage.latched
    (if s.roster.entries.length + 1 = 1 then none else gap)) (s.roster.entries.length + 1)
  have hst := s.roster.place_states (placementOf s.roster.current (gapClassOf s.passage.latched
    (if s.roster.entries.length + 1 = 1 then none else gap))) (s.roster.entries.length + 1)
  have hhd := s.roster.place_heading (placementOf s.roster.current (gapClassOf s.passage.latched
    (if s.roster.entries.length + 1 = 1 then none else gap))) (s.roster.entries.length + 1)
  generalize s.roster.place (placementOf s.roster.current (gapClassOf s.passage.latched
    (if s.roster.entries.length + 1 = 1 then none else gap))) (s.roster.entries.length + 1) = u at hpl hst hhd
  have hc := fun e => RosterUnit.closeAtTwelve_keeps { u with entries := u.entries ++ [e] }
  refine ⟨?_, ?_, fun k v hk => ?_, ?_, ?_⟩
  · show List.map AxleEntry.state (RosterUnit.closeAtTwelve _).entries = _
    rw [(hc _).1, List.map_append, hst]
    rfl
  · show (RosterUnit.closeAtTwelve _).vehicles.length ≤ 256
    rw [length_of_map (hc _).2.1]
    exact hpl.2
  · obtain ⟨y, hy, e⟩ := getElem?_of_map (hc _).2.1 hk
    rw [← e]; exact hpl.1 k y hy
  · exact (hc _).2.2.1.trans hhd.1
  · exact (hc _).2.2.2.trans hhd.2

/-- A roster whose states gained one PRESENT entry fits the next count. -/
theorem RosterUnit.Fits.append {u w : RosterUnit} {m : Nat} (h : u.Fits m) (hm : u.entries.length = m) (hlt : m < 1024)
    (he : w.entries.map AxleEntry.state = u.entries.map AxleEntry.state ++ [.present]) (hl : w.vehicles.length ≤ 256)
    (hp : ∀ (k : Nat) v, w.vehicles[k]? = some v → v.position = k + 1) : w.Fits (m + 1) := by
  have hlen : w.entries.length = m + 1 := by
    have := congrArg List.length he
    simpa [hm] using this
  refine ⟨by omega, hl, hp, fun k e hk => ?_, by omega⟩
  have h1 : (w.entries.map AxleEntry.state)[k]? = some e.state := by rw [List.getElem?_map, hk]; rfl
  rw [he, List.getElem?_append] at h1
  have hk' : k < m + 1 := by
    have := (List.getElem?_eq_some_iff.mp hk).1
    omega
  split at h1
  · next hlt' =>
    rw [List.getElem?_map] at h1
    rw [List.length_map] at hlt'
    cases e' : u.entries[k]? with
    | none => rw [e'] at h1; exact absurd h1 (by simp)
    | some y =>
      rw [e'] at h1
      have h2 : y.state = e.state := by simpa using h1
      rw [← h2, h.present k y e']
      omega
  · rw [List.getElem?_singleton] at h1
    split at h1
    · injection h1 with h1
      rw [← h1]
      exact iff_of_true rfl (by omega)
    · exact absurd h1 (by simp)

/-- The entry of an ordinal set to a state: what the roster fits after a revival or a retraction. -/
theorem RosterUnit.Fits.update {u : RosterUnit} {m m' : Nat} (h : u.Fits m) (n : Nat) (hn : n ≠ 0) (f : AxleEntry → AxleEntry)
    (hf : ∀ e : AxleEntry, (f e).state = .present ↔ n ≤ m') (hm : ∀ k, k + 1 ≠ n → k < u.entries.length → (k + 1 ≤ m ↔ k + 1 ≤ m'))
    (hr : min m' 1024 ≤ u.entries.length) : (u.updateEntry n f).newGeneration.Fits m' := by
  unfold newGeneration updateEntry
  rw [if_neg hn]
  refine ⟨by show (updateAt f (n - 1) u.entries).length ≤ _; rw [updateAt_length]; exact h.entries, h.vehicles, h.positions,
    fun k e hk => ?_, by show _ ≤ (updateAt f (n - 1) u.entries).length; rw [updateAt_length]; exact hr⟩
  have hk : (updateAt f (n - 1) u.entries)[k]? = some e := hk
  rw [updateAt_getElem?] at hk
  split at hk
  · next e1 =>
    cases e2 : u.entries[k]? with
    | none => rw [e2] at hk; exact absurd hk (by simp)
    | some y =>
      rw [e2] at hk
      have : f y = e := by simpa using hk
      rw [← this, hf]
      have : k + 1 = n := by omega
      rw [this]
  · next e1 =>
    rw [h.present k e hk]
    refine hm k (by omega) ?_
    rw [List.getElem?_eq_some_iff] at hk
    exact hk.1

end Sys2Proof
end

