-- ==== Sys2Proof/Laws/PassageEvents.lean ====
section
/-! SUPPORT. The events of the passage controller keep the invariants of the passage, the records, the roster and the module
places. -/

namespace Sys2Proof

/-! ### The roster under counting -/

/-- What an append leaves of the site beside the roster and the lines: passage, points and composition, and the phases and the
verdicts of the records. -/
theorem Site.appendAxle_rest (s : Site) (time : BitVec 32) (speed gap : Option Nat) :
    (s.appendAxle time speed gap).passage = s.passage ∧ (s.appendAxle time speed gap).points = s.points ∧
      (s.appendAxle time speed gap).composition = s.composition ∧
      (∀ i, ((s.appendAxle time speed gap).recordAt i).map TrainRecord.phase = (s.recordAt i).map TrainRecord.phase) ∧
      (s.VerdictsSound → (s.appendAxle time speed gap).VerdictsSound) := by
  have h : ∀ (t : Site) (a b c : Bool),
      t.SamePassage (((t.addRecordCauseIf a .groupingUncertain).addRecordCauseIf b .groupingLimit).addRecordCauseIf c .vehicleFull) :=
    fun t a b c => (((SamePassage.refl t).addRecordCauseIf _ _).addRecordCauseIf _ _).addRecordCauseIf _ _
  have e : ∀ (t : Site) (b : Bool) (c : Cause), (t.addRecordCauseIf b c).passage = t.passage ∧
      (t.addRecordCauseIf b c).points = t.points ∧ (t.addRecordCauseIf b c).composition = t.composition := by
    intro t b c; unfold Site.addRecordCauseIf; split <;> exact ⟨rfl, rfl, rfl⟩
  unfold Site.appendAxle
  dsimp only
  refine ⟨?_, ?_, ?_, fun i => ?_, ?_⟩
  · exact ((e _ _ _).1.trans (e _ _ _).1).trans (e _ _ _).1
  · exact ((e _ _ _).2.1.trans (e _ _ _).2.1).trans (e _ _ _).2.1
  · exact ((e _ _ _).2.2.trans (e _ _ _).2.2).trans (e _ _ _).2.2
  · exact (h _ _ _ _).phases i
  · intro k
    exact (h (s.setRoster (s.rosterAppended time speed gap)) _ _ _).verdicts k

/-- The places after an append (R85). -/
theorem Site.appendAxle_line (s : Site) (time : BitVec 32) (speed gap : Option Nat) (n : Fin 8) :
    (s.appendAxle time speed gap).line n = (s.line n).intoRoster := by
  have h : ∀ (t : Site), t.cursorsIntoRoster.line n = (t.line n).intoRoster := fun t => tableMap_getElem _ _ _
  have e : ∀ (t : Site) (b : Bool) (c : Cause), (t.addRecordCauseIf b c).line n = t.line n := by
    intro t b c; unfold Site.addRecordCauseIf; split <;> rfl
  unfold Site.appendAxle
  dsimp only
  rw [h, e, e, e]
  rfl

/-- The places of a LIVE roster of a length (R80). -/
def Site.PlacesWithin (s : Site) (len : Nat) : Prop :=
  ∀ n, (s.line n).cursor ≤ len ∧ (0 < (s.line n).beyond → (s.line n).cursor = len)

/-- An append moves the places with the roster's length (R85). -/
theorem Site.PlacesWithin.append {s : Site} {len : Nat} (h : s.PlacesWithin len) (time : BitVec 32) (speed gap : Option Nat) :
    (s.appendAxle time speed gap).PlacesWithin (len + 1) := by
  intro n
  rw [Site.appendAxle_line]
  obtain ⟨h1, h2⟩ := h n
  unfold ModuleLine.intoRoster
  split
  · next hb =>
    have := h2 hb
    exact ⟨by show _ + 1 ≤ _; omega, fun _ => by show _ + 1 = _; omega⟩
  · next hb => exact ⟨by omega, fun a => absurd a hb⟩

/-- An entry appended keeps the roster in step with a count that rose with it. -/
theorem Site.appendAxle_fits {s : Site} {m : Nat} (h : s.roster.Fits m) (hm : s.roster.entries.length = m) (hlt : m < 1024)
    (time : BitVec 32) (speed gap : Option Nat) :
    (s.appendAxle time speed gap).roster.Fits (m + 1) ∧ (s.appendAxle time speed gap).roster.entries.length = m + 1 ∧
      (s.appendAxle time speed gap).roster.standing = s.roster.standing := by
  obtain ⟨h1, h2, h3, h4, _⟩ := s.rosterAppended_fits time speed gap h.vehicles h.positions
  rw [Site.appendAxle_roster]
  refine ⟨h.append hm hlt h1 h2 h3, ?_, h4⟩
  have := congrArg List.length h1
  simpa [hm] using this

/-- An open passage's site as the counting leaves it: everything but the roster and the places as before. -/
structure Site.Counting (s t : Site) : Prop where
  isOpen : t.passageOpen = s.passageOpen
  held : t.passage.held = s.passage.held
  direction : t.passage.direction = s.passage.direction
  gate : t.passage.gate = s.passage.gate
  nets : ∀ p, (t.point p).net = (s.point p).net
  standing : t.roster.standing = s.roster.standing
  phases : ∀ i, (t.recordAt i).map TrainRecord.phase = (s.recordAt i).map TrainRecord.phase
  verdicts : s.VerdictsSound → t.VerdictsSound
  composing : t.composing = s.composing

namespace Site.Counting

variable {s t u : Site}

theorem trans (h : s.Counting t) (k : t.Counting u) : s.Counting u :=
  ⟨k.isOpen.trans h.isOpen, k.held.trans h.held, k.direction.trans h.direction, k.gate.trans h.gate,
    fun p => (k.nets p).trans (h.nets p), k.standing.trans h.standing, fun i => (k.phases i).trans (h.phases i),
    k.verdicts ∘ h.verdicts, k.composing.trans h.composing⟩

theorem of_same (h : s.SamePassage t) : s.Counting t :=
  ⟨h.isOpen, h.held, h.direction, h.gate, h.nets, h.standing, h.phases, h.verdicts, h.composing⟩

theorem refl (s : Site) : s.Counting s := of_same (.refl s)

theorem setRoster (s : Site) (v : RosterUnit) (h : v.standing = s.roster.standing) : s.Counting (s.setRoster v) :=
  ⟨rfl, rfl, rfl, rfl, fun _ => rfl, h, fun _ => rfl, id, rfl⟩

theorem appendAxle (s : Site) (time : BitVec 32) (speed gap : Option Nat)
    (h : (s.appendAxle time speed gap).roster.standing = s.roster.standing) : s.Counting (s.appendAxle time speed gap) := by
  obtain ⟨h1, h2, h3, h4, h5⟩ := s.appendAxle_rest time speed gap
  refine ⟨?_, by rw [h1], by rw [h1], by rw [h1], fun p => ?_, h, h4, h5, ?_⟩
  · unfold Site.passageOpen; rw [h1]
  · unfold Site.point; rw [h2]
  · unfold Site.composing; rw [h3]

end Site.Counting

/-- A passage open and counting, its roster fitting a count and its places within the roster. -/
structure Site.OpenFor (s : Site) (m : Nat) : Prop where
  isOpen : s.passageOpen = true
  standing : s.roster.standing = .live
  fits : s.roster.Fits m
  within : s.PlacesWithin s.roster.entries.length

/-- A rise of the count by one: an entry appended or revived, or none at 1,024 (R48, R49, R51). -/
theorem Site.OpenFor.rise {s : Site} {m : Nat} (h : s.OpenFor m) (time : BitVec 32) (speed gap : Option Nat) :
    (s.rosterRise (m + 1) time speed gap).OpenFor (m + 1) ∧ s.Counting (s.rosterRise (m + 1) time speed gap) := by
  have hl := h.fits.reached
  have hmax := h.fits.entries
  unfold Site.rosterRise
  split
  · next hbig =>
    have k := (SamePassage.refl s).addRecordCause Cause.rosterFull
    refine ⟨⟨by rw [k.isOpen]; exact h.isOpen, by rw [k.standing]; exact h.standing, ?_, h.within⟩, .of_same k⟩
    refine ⟨hmax, h.fits.vehicles, h.fits.positions, fun i e hi => ?_, ?_⟩
    · rw [h.fits.present i e hi]
      have := (List.getElem?_eq_some_iff.mp hi).1
      have : i < 1024 := Nat.lt_of_lt_of_le this hmax
      omega
    · show min (m + 1) 1024 ≤ s.roster.entries.length
      omega
  · next hsmall =>
    split
    · next hlt =>
      have hm : s.roster.entries.length = m := by omega
      obtain ⟨h1, h2, h3⟩ := Site.appendAxle_fits h.fits hm (by omega) time speed gap
      have hc := Counting.appendAxle s time speed gap h3
      have hw := h.within.append time speed gap
      rw [hm, ← h2] at hw
      exact ⟨⟨by rw [hc.isOpen]; exact h.isOpen, by rw [h3]; exact h.standing, h1, hw⟩, hc⟩
    · next hge =>
      have hst : (s.roster.updateEntry (m + 1) AxleEntry.revive).newGeneration.standing = s.roster.standing := rfl
      have hlen : (s.roster.updateEntry (m + 1) AxleEntry.revive).newGeneration.entries.length = s.roster.entries.length :=
        updateAt_length _ _ _
      refine ⟨⟨h.isOpen, hst.trans h.standing, ?_, ?_⟩, .setRoster _ _ hst⟩
      · refine h.fits.update (m + 1) (by omega) AxleEntry.revive (fun e => iff_of_true rfl (Nat.le_refl _)) (fun i hi hi2 => by omega)
          (by omega)
      · show PlacesWithin _ (s.roster.updateEntry (m + 1) AxleEntry.revive).newGeneration.entries.length
        rw [hlen]; exact h.within

/-- A fall of the count by one: the entry above it RETRACTED, where there is one (R49, R50). -/
theorem Site.OpenFor.fall {s : Site} {m : Nat} (h : s.OpenFor (m + 1)) :
    (s.rosterFall (m + 1)).OpenFor m ∧ s.Counting (s.rosterFall (m + 1)) := by
  have hl := h.fits.reached
  have hmax := h.fits.entries
  unfold Site.rosterFall
  split
  · next hs =>
    have hst : (s.roster.updateEntry (m + 1) AxleEntry.retract).newGeneration.standing = s.roster.standing := rfl
    have hlen : (s.roster.updateEntry (m + 1) AxleEntry.retract).newGeneration.entries.length = s.roster.entries.length :=
      updateAt_length _ _ _
    refine ⟨⟨h.isOpen, hst.trans h.standing, ?_, ?_⟩, .setRoster _ _ hst⟩
    · refine h.fits.update (m + 1) (by omega) AxleEntry.retract
        (fun e => iff_of_false (by simp [AxleEntry.retract]) (by omega)) (fun i hi hi2 => by omega) (by omega)
    · show PlacesWithin _ (s.roster.updateEntry (m + 1) AxleEntry.retract).newGeneration.entries.length
      rw [hlen]; exact h.within
  · next hs =>
    refine ⟨⟨h.isOpen, h.standing, ⟨hmax, h.fits.vehicles, h.fits.positions, fun i e hi => ?_, by omega⟩, h.within⟩, .refl s⟩
    rw [h.fits.present i e hi]
    have h1 : i ≠ m := by
      intro e1
      apply hs
      show (s.roster.entryAt (m + 1)).isSome = true
      unfold RosterUnit.entryAt
      rw [if_neg (by omega)]
      show (s.roster.entries[m]?).isSome = true
      rw [← e1, hi]; rfl
    omega

/-- A change of the counting gate's count by one, passed on in an open passage (R33). -/
theorem Site.OpenFor.changed {s : Site} {m m' : Nat} (h : s.OpenFor m) (hm : m' = m + 1 ∨ m = m' + 1) (f : GateFigures) :
    (s.gateChanged m m' f).OpenFor m' ∧ s.Counting (s.gateChanged m m' f) := by
  unfold Site.gateChanged
  rcases hm with e | e
  · rw [if_pos (by omega), e]
    obtain ⟨h1, h2⟩ := h.rise s.passageTime f.speed f.gap
    have k : (s.rosterRise (m + 1) s.passageTime f.speed f.gap).SamePassage
        ((s.rosterRise (m + 1) s.passageTime f.speed f.gap).updatePassage (fun p => { p with tally := p.tally.takeRise f.speed })) :=
      (SamePassage.refl _).setPassage _
    exact ⟨⟨k.isOpen.trans h1.isOpen, h1.standing, h1.fits, h1.within⟩, h2.trans (.of_same k)⟩
  · rw [if_neg (by omega), e]
    have k := (SamePassage.refl s).addRecordCause Cause.rollback
    have h' : (s.addRecordCause .rollback).OpenFor (m' + 1) := ⟨k.isOpen.trans h.isOpen, h.standing, e ▸ h.fits, h.within⟩
    obtain ⟨h1, h2⟩ := h'.fall
    exact ⟨h1, (Counting.of_same k).trans h2⟩

/-- The fill of a held opening (R53). -/
theorem fillAxles_openFor : ∀ (k m : Nat) (s : Site), s.OpenFor m → s.roster.entries.length = m → m + k ≤ 1024 →
    (fillAxles k s).OpenFor (m + k) ∧ (fillAxles k s).roster.entries.length = m + k ∧ s.Counting (fillAxles k s)
  | 0, _, s, h, hm, _ => ⟨h, hm, .refl s⟩
  | k + 1, m, s, h, hm, hk => by
    obtain ⟨h1, h2, h3⟩ := Site.appendAxle_fits h.fits hm (by omega) 0#32 none none
    have hc := Site.Counting.appendAxle s 0#32 none none h3
    have hw := h.within.append 0#32 none none
    rw [hm, ← h2] at hw
    have h' : (s.appendAxle 0#32 none none).OpenFor (m + 1) :=
      ⟨by rw [hc.isOpen]; exact h.isOpen, by rw [h3]; exact h.standing, h1, hw⟩
    obtain ⟨a, b, c⟩ := fillAxles_openFor k (m + 1) _ h' h2 (by omega)
    have e : m + (k + 1) = m + 1 + k := by omega
    rw [e]
    exact ⟨a, b, hc.trans c⟩

theorem Site.OpenFor.fill {s : Site} (h : s.OpenFor 0) (hm : s.roster.entries.length = 0) (n : Nat) :
    (s.fillRoster n).OpenFor n ∧ s.Counting (s.fillRoster n) := by
  obtain ⟨h1, h2, h3⟩ := fillAxles_openFor (min n 1024) 0 s h hm (by omega)
  unfold Site.fillRoster
  have k := (SamePassage.refl (fillAxles (min n 1024) s)).addRecordCauseIf (decide (1024 < n)) Cause.rosterFull
  have hr : ∀ (t : Site) (b : Bool) (c : Cause), (t.addRecordCauseIf b c).roster = t.roster ∧
      (t.addRecordCauseIf b c).modules = t.modules := by
    intro t b c; unfold Site.addRecordCauseIf; split <;> exact ⟨rfl, rfl⟩
  refine ⟨⟨k.isOpen.trans h1.isOpen, k.standing.trans h1.standing, ?_, ?_⟩, h3.trans (.of_same k)⟩
  · rw [(hr _ _ _).1]
    have hf := h1.fits
    refine ⟨hf.entries, hf.vehicles, hf.positions, fun i e hi => ?_, ?_⟩
    · rw [hf.present i e hi]
      have := (List.getElem?_eq_some_iff.mp hi).1
      omega
    · rw [h2]; omega
  · unfold PlacesWithin Site.line
    rw [(hr _ _ _).1, (hr _ _ _).2]
    exact h1.within

/-! ### Opening -/

/-- A passage as an opening finds it: every record CLOSED, no composition, every cursor at 0. -/
structure Site.Ready (s : Site) : Prop where
  closed : ∀ i r, s.recordAt i = some r → r.phase = .closed
  verdicts : s.VerdictsSound
  composing : s.composing = false
  held : s.passage.held = false
  cursors : ∀ n, (s.line n).cursor = 0

namespace Site.Ready

variable {s : Site}

/-- The records after an opening: the new one OPEN, the others as they were, and CLOSED (R27, R144, R148). -/
theorem records (_ : s.Ready) (d : Dir) (b : Bool) (i : Fin 4) (r : TrainRecord)
    (hr : (s.openPassage d b).recordAt i = some r) :
    (i = s.chooseSlot ∧ r.phase = .opened ∧ r.verdict = none) ∨ (i ≠ s.chooseSlot ∧ ∃ q, s.recordAt i = some q ∧ q.phase = r.phase ∧ q.verdict = r.verdict) := by
  by_cases e : i = s.chooseSlot
  · left
    rw [e, Site.openPassage_record] at hr
    injection hr with hr
    exact ⟨e, by rw [← hr]; rfl, by rw [← hr]; rfl⟩
  · right
    refine ⟨e, ?_⟩
    have h0 : ∀ t : Site, t.suspendSweep.recordAt i = t.recordAt i := by
      intro t; unfold Site.suspendSweep; split <;> rfl
    have h1 := s.reclaim_only s.chooseSlot
    unfold Site.openPassage at hr
    simp only [h0] at hr
    have hr : (((s.openRecord d).startRoster).addRecordCauseIf (s.chooseGate d != d.entryGate) .gateSubstituted).recordAt i = some r := hr
    have h2 : (s.openRecord d).startRoster.recordAt i = s.recordAt i := by
      show ((s.reclaim s.chooseSlot).putRecord s.chooseSlot (some (s.newRecord d))).recordAt i = _
      rw [Site.putRecord_recordAt, if_neg e]
      unfold Site.recordAt; rw [h1.train]
    unfold Site.addRecordCauseIf at hr
    split at hr
    · rw [Site.addRecordCause_recordAt, h2] at hr
      unfold addCauseWhenOpen at hr
      split at hr
      · next q hq =>
        split at hr
        · injection hr with hr
          exact ⟨q, hq, by rw [← hr], by rw [← hr]⟩
        · injection hr with hr
          exact ⟨q, hq, by rw [← hr], by rw [← hr]⟩
      · exact absurd hr (by simp)
    · rw [h2] at hr
      exact ⟨r, hr, rfl, rfl⟩

/-- What an opening leaves, before any axle is counted or filled in. -/
theorem opened (h : s.Ready) (d : Dir) (b : Bool) :
    (s.openPassage d b).OpenFor 0 ∧ (s.openPassage d b).roster.entries.length = 0 ∧ (s.openPassage d b).RecordsSound ∧
      (s.openPassage d b).VerdictsSound ∧ (s.openPassage d b).passage.gate = some (s.chooseGate d) ∧
      (s.openPassage d b).points = s.points := by
  have hp := s.openPassage_passage d b
  obtain ⟨_, _, _, h4, h5, _, h7, _, _⟩ := s.openPassage_rest d b
  have hr := s.openRecord_startRoster d
  rw [← s.openPassage_roster d b] at hr
  obtain ⟨r1, r2, r3, _, _⟩ := hr
  have ho : (s.openPassage d b).passageOpen = true := by unfold Site.passageOpen; rw [hp]; rfl
  have hline : ∀ n, (s.openPassage d b).line n = s.line n := fun n => by unfold Site.line; rw [h5]
  have hc : (s.openPassage d b).composing = false := by
    have := h.composing
    unfold Site.composing at this ⊢; rw [h7]; exact this
  refine ⟨⟨ho, r1, ⟨?_, ?_, ?_, ?_, ?_⟩, ?_⟩, by rw [r2]; rfl, ⟨?_, ?_, ?_, ?_⟩, ?_, by rw [hp], h4⟩
  · rw [r2]; exact Nat.zero_le _
  · rw [r3]; exact Nat.zero_le _
  · rw [r3]; intro k v hk; exact absurd hk (by simp)
  · rw [r2]; intro k v hk; exact absurd hk (by simp)
  · exact Nat.le_of_eq (by simp [r2])
  · intro n
    rw [hline, h.cursors, r2]
    exact ⟨Nat.le_refl _, fun _ => rfl⟩
  · intro i j r q hi hj hr hq
    rcases h.records d b i r hi with ⟨e1, _, _⟩ | ⟨_, r', hr', e1, _⟩
    · rcases h.records d b j q hj with ⟨e2, _, _⟩ | ⟨_, q', hq', e2, _⟩
      · rw [e1, e2]
      · exact absurd (e2 ▸ h.closed j q' hq') hq
    · exact absurd (e1 ▸ h.closed i r' hr') hr
  · refine ⟨fun _ => ho, fun _ => ⟨s.chooseSlot, _, s.openPassage_record d b, rfl⟩⟩
  · refine ⟨?_, fun e => by rw [hc] at e; exact absurd e (by decide)⟩
    rintro ⟨i, r, hr, hph⟩
    rcases h.records d b i r hr with ⟨_, e, _⟩ | ⟨_, r', hr', e, _⟩
    · rw [hph] at e; exact absurd e (by decide)
    · rw [h.closed i r' hr', hph] at e; exact absurd e (by decide)
  · intro e
    rw [hp] at e
    have e : s.passage.held = true := e
    rw [h.held] at e
    exact absurd e (by decide)
  · intro i r v hr hv
    rcases h.records d b i r hr with ⟨_, _, e⟩ | ⟨_, r', hr', _, e⟩
    · rw [hv] at e; exact absurd e (by simp)
    · exact h.verdicts i r' v hr' (e.trans hv)

end Site.Ready

/-- An open passage whose roster fits the gate's count keeps every invariant of the passage. -/
theorem Site.OpenFor.sound {s : Site} (h : s.OpenFor s.gateNet) (hr : s.RecordsSound) (hv : s.VerdictsSound) : s.PassageSound := by
  have hn : s.headingNet = s.gateNet := by unfold Site.headingNet; rw [if_pos h.standing]
  refine ⟨hr, hv, ⟨iff_of_true h.standing h.isOpen, h.fits.entries, h.fits.vehicles, h.fits.positions, by rw [hn]; exact h.fits.present,
    by rw [hn]; exact h.fits.reached, fun _ e => absurd h.isOpen (by rw [e]; decide)⟩, ?_⟩
  intro _ n
  have hl : s.rosterLen = s.roster.entries.length := by unfold Site.rosterLen; rw [if_pos h.isOpen]
  rw [hl]
  exact h.within n

/-- And the other way. -/
theorem Site.PassageSound.openFor {s : Site} (h : s.PassageSound) (ho : s.passageOpen = true) : s.OpenFor s.gateNet := by
  have hs := h.roster.live.mpr ho
  have hn : s.headingNet = s.gateNet := by unfold Site.headingNet; rw [if_pos hs]
  have hf := h.roster.fits
  rw [hn] at hf
  refine ⟨ho, hs, hf, ?_⟩
  have hl : s.rosterLen = s.roster.entries.length := by unfold Site.rosterLen; rw [if_pos ho]
  rw [← hl]
  refine h.places (Or.inl ?_)
  intro e
  unfold Site.passageOpen at ho
  rw [e] at ho
  exact absurd ho (by decide)

/-- A site in which only the roster and the places moved with an open passage keeps its records sound. -/
theorem Site.RecordsSound.counting {s t : Site} (k : s.RecordsSound) (h : s.Counting t) : t.RecordsSound :=
  k.of_same h.phases h.isOpen h.composing (fun e => by rw [h.direction]; rw [h.held] at e; exact k.held e)

theorem Site.Counting.gateNet {s t : Site} (h : s.Counting t) : t.gateNet = s.gateNet := by
  unfold Site.gateNet
  rw [h.gate]
  split
  · exact h.nets _
  · rfl

end Sys2Proof
end

