-- ==== Sys2Proof/Laws/PassageKept.lean ====
section
/-! SUPPORT. Crossings, closes, held openings, reports and resets keep the invariants of the passage, the records, the roster and the
module places. -/

namespace Sys2Proof

/-! ### Calling the modules and leaving ARMING -/

/-- What calling the modules leaves (R21, R22, R30): the passage's own state, the records, the roster and the composition stand, every
net count and every cursor is 0. -/
structure Site.Called (s t : Site) : Prop where
  phase : t.passage.phase = s.passage.phase
  held : t.passage.held = s.passage.held
  direction : t.passage.direction = s.passage.direction
  roster : t.roster = s.roster
  train : t.train = s.train
  composition : t.composition = s.composition
  nets : ∀ p, (t.point p).net = 0
  cursors : ∀ n, (t.line n).cursor = 0

theorem Site.callModules_called (s : Site) (d : Dir) : s.Called (s.callModules d) := by
  have e : ∀ t : Site, ∃ u, t.startArmTimer = t.setTimers u := by
    intro t; unfold Site.startArmTimer; split
    · exact ⟨t.passage.timers, rfl⟩
    · exact ⟨_, rfl⟩
  unfold Site.callModules
  obtain ⟨u, hu⟩ := e ((((s.updatePassage (fun p => { p with expected := some d })).takeSerial.setDirection d).sendArm d))
  rw [hu]
  refine ⟨rfl, rfl, rfl, ?_, ?_, ?_, fun p => by cases p <;> rfl, fun n => ?_⟩
  iterate 3
    simp only [Site.setTimers, Site.sendArm, Site.setDirection, Site.takeSerial, Site.updatePassage, Site.setPassage, Site.enqueue,
      Site.setStore, Site.setModules, Site.setPoints]
  show (tableMapIdx _ _ : Vector ModuleLine 8)[n].cursor = 0
  rw [tableMapIdx_getElem]
  split <;> rfl

/-- What a gate crossing in ARMING or ARMED leaves before it opens or holds (R26, R30). -/
structure Site.Left (s t : Site) (d : Dir) : Prop where
  phase : t.passage.phase = s.passage.phase
  held : t.passage.held = s.passage.held
  direction : t.passage.direction = some d
  roster : t.roster = s.roster
  train : t.train = s.train
  composition : t.composition = s.composition
  nets : ∀ p, (s.point p).net = 0 → (t.point p).net = 0
  lines : ∀ n, t.line n = s.line n

theorem Site.fromArming_left (s : Site) (d : Dir) : s.Left (s.fromArming d) d := by
  have h1 : ∀ t : Site, t.passage.direction = some d → t.Left (t.applyMismatch d) d := by
    intro t ht
    unfold Site.applyMismatch
    split
    · exact ⟨rfl, rfl, ht, rfl, rfl, rfl, fun _ => id, fun _ => rfl⟩
    · exact ⟨rfl, rfl, ht, rfl, rfl, rfl, fun p _ => by cases p <;> rfl, fun _ => rfl⟩
  unfold Site.fromArming
  dsimp only
  split
  · have := h1 ((s.addPending .lateArm).headFor d) rfl
    exact ⟨this.phase, this.held, this.direction, this.roster, this.train, this.composition, this.nets, this.lines⟩
  · have := h1 ((s.updateTimers (fun t => { t with armTimeout := none })).headFor d) rfl
    exact ⟨this.phase, this.held, this.direction, this.roster, this.train, this.composition, this.nets, this.lines⟩

/-- A phase that is not open leaves the passage not open, whatever else changes. -/
theorem Site.passageOpen_of_phase {s t : Site} (h : t.passage.phase = s.passage.phase) : t.passageOpen = s.passageOpen := by
  unfold Site.passageOpen; rw [h]

namespace Site.PassageSound

variable {s : Site}

/-- The cursors of a passage not open lie at 0 (R80). -/
theorem cursors_zero (k : s.PassageSound) (ho : s.passageOpen = false) (h : s.passage.phase ≠ .idle ∨ s.passage.held = true) (n : Fin 8) :
    (s.line n).cursor = 0 := by
  have := (k.places h n).1
  have h0 : s.rosterLen = 0 := by unfold Site.rosterLen; rw [ho]; rfl
  omega

theorem composing_of (k : s.Called t) : t.composing = s.composing := by unfold Site.composing; rw [k.composition]

/-- An inward approach crossing in IDLE (R21). -/
theorem armSite (k : s.PassageSound) (hi : s.passage.phase = .idle) (hh : s.passage.held = false) (d : Dir) :
    (s.armSite d).PassageSound := by
  have ho : s.passageOpen = false := by unfold Site.passageOpen; rw [hi]; rfl
  unfold Site.armSite
  split
  · exact k.of_same ((SamePassage.refl s).falseApproach.raise _)
  · have c := s.callModules_called d
    have k1 : ((s.callModules d).updatePassage (fun p => { p with phase := .arming })).PassageSound := by
      refine k.shut ho rfl (fun i => ?_) ?_ ?_ c.roster (fun e => ?_) (fun _ _ => ⟨c.nets _, c.nets _⟩) (fun _ n => c.cursors n)
      · show ((s.callModules d).train[i]).map _ = _
        rw [c.train]; rfl
      · intro hv
        show (s.callModules d).VerdictsSound
        unfold VerdictsSound Site.recordAt; rw [c.train]; exact hv
      · show (s.callModules d).composing = _
        unfold Site.composing; rw [c.composition]
      · have e : (s.callModules d).passage.held = true := e
        rw [c.held, hh] at e
        exact absurd e (by decide)
    unfold Site.armedAtOnce
    split
    · exact k1.of_same (SamePassage.refl _).becomeArmed
    · exact k1

/-- The site before an opening is ready for it where its records and cursors are (R27, R30). -/
theorem ready_of {t : Site} (k : s.PassageSound) (ho : s.passageOpen = false) (hc : s.composing = false) (ht : t.train = s.train)
    (hco : t.composition = s.composition) (hh : t.passage.held = false) (hl : ∀ n, (t.line n).cursor = 0) : t.Ready := by
  refine ⟨fun i r hr => ?_, ?_, ?_, hh, hl⟩
  · refine k.records.all_closed ho hc i r ?_
    unfold Site.recordAt at hr ⊢; rw [← ht]; exact hr
  · unfold VerdictsSound Site.recordAt; rw [ht]; exact k.verdicts
  · unfold Site.composing at hc ⊢; rw [hco]; exact hc

/-- An opening of a ready site whose counting gate has counted nothing (R27). -/
theorem ofOpening (h : s.Ready) (d : Dir) (hn : (s.point (s.chooseGate d).point).net = 0) : (s.openPassage d false).PassageSound := by
  obtain ⟨h1, _, h3, h4, h5, h6⟩ := h.opened d false
  have hg : (s.openPassage d false).gateNet = 0 := by
    unfold Site.gateNet
    rw [h5]
    show ((s.openPassage d false).point _).net = 0
    unfold Site.point at hn ⊢
    rw [h6]; exact hn
  rw [← hg] at h1
  exact h1.sound h3 h4

/-- An opening held while a composition is in flight (R30). -/
theorem holding {t : Site} (k : s.PassageSound) (ho : s.passageOpen = false) (hto : t.passageOpen = false) (ht : t.train = s.train)
    (hco : t.composition = s.composition) (hr : t.roster = s.roster) (hc : s.composing = true)
    (hd : t.passage.direction.isSome = true) (hl : ∀ n, (t.line n).cursor = 0) {c : Cause} {g : Option Gate} :
    ((t.addPending c).updatePassage (fun p => { p with lastGate := none, held := true, gate := g })).PassageSound := by
  refine k.shut ho hto (fun i => ?_) ?_ ?_ hr (fun _ => ⟨hc, hd⟩) (fun _ a => Bool.noConfusion a) (fun _ n => hl n)
  · show (t.train[i]).map _ = _
    rw [ht]; rfl
  · intro hv
    show t.VerdictsSound
    unfold VerdictsSound Site.recordAt; rw [ht]; exact hv
  · show t.composing = _
    unfold Site.composing; rw [hco]

/-- A gate crossing before the passage is open and with no held opening (R22, R26, R30). -/
theorem takeFirstGate (k : s.PassageSound) (ho : s.passageOpen = false) (hh : s.passage.held = false) (d : Dir) :
    (s.takeFirstGate d).PassageSound ∧ ((s.takeFirstGate d).passageOpen = true ∨ (s.takeFirstGate d).passage.held = true) := by
  unfold Site.takeFirstGate
  split
  · next hc =>
    refine ⟨?_, Or.inr rfl⟩
    unfold Site.holdOpening
    dsimp only
    split
    · next hi =>
      have c := (s.headFor d).callModules_called d
      have e : (((s.headFor d).callModules d).addPending .unannounced).passageOpen = false := by
        exact (Site.passageOpen_of_phase (s := s.headFor d) c.phase).trans ho
      have r := c.roster
      have dr := c.direction
      have tr := c.train
      have co := c.composition
      have cu := c.cursors
      generalize (s.headFor d).callModules d = t at e r dr tr co cu
      exact k.holding ho e tr co r hc (by show t.passage.direction.isSome = true; rw [dr]; rfl) cu
    · next hi =>
      have c := s.fromArming_left d
      have e : (s.fromArming d).passageOpen = false := by rw [Site.passageOpen_of_phase c.phase]; exact ho
      exact k.holding ho e c.train c.composition c.roster hc (by rw [c.direction]; rfl)
        (fun n => by rw [c.lines]; exact k.cursors_zero ho (Or.inl hi) n)
  · next hc =>
    have hc : s.composing = false := by simpa using hc
    split
    · next hi =>
      have c := (s.headFor d).callModules_called d
      have r : (((s.headFor d).callModules d).addPending .unannounced).Ready :=
        k.ready_of ho hc c.train c.composition (c.held.trans hh) c.cursors
      refine ⟨ofOpening r d ?_, Or.inl (r.opened d false).1.isOpen⟩
      exact c.nets _
    · next hi =>
      have c := s.fromArming_left d
      have r : (s.fromArming d).Ready := k.ready_of ho hc c.train c.composition (c.held.trans hh) (fun n => by
        rw [c.lines]; exact k.cursors_zero ho (Or.inl hi) n)
      refine ⟨ofOpening r d (c.nets _ ?_), Or.inl (r.opened d false).1.isOpen⟩
      have hw := k.roster.waiting hi ho hh
      generalize (s.fromArming d).chooseGate d = g
      cases g
      · exact hw.1
      · exact hw.2

/-- A crossing taken by the passage controller; at a gate the passage is then open or its opening held (R22, R26, R30). -/
theorem takeCrossing (k : s.PassageSound) (p : PointId) (d : Dir) (i : Option Nat) :
    (s.takeCrossing p d i).1.PassageSound ∧
      (p.gate.isSome = true → (s.takeCrossing p d i).1.passageOpen = true ∨ (s.takeCrossing p d i).1.passage.held = true) := by
  have hg : ∀ t : Site, t.PassageSound → (p.gate.isSome = true → t.passageOpen = true ∨ t.passage.held = true) →
      (t.takeGateCrossing p d i).1.PassageSound ∧
        (p.gate.isSome = true → (t.takeGateCrossing p d i).1.passageOpen = true ∨ (t.takeGateCrossing p d i).1.passage.held = true) := by
    intro t kt ht
    have e := (SamePassage.refl t).takeGateCrossing p d i
    exact ⟨kt.of_same e, fun h => by rw [e.isOpen, e.held]; exact ht h⟩
  unfold Site.takeCrossing
  dsimp only
  split
  · next ho =>
    have e := (SamePassage.refl s).takeOpenCrossing p ho
    exact hg _ (k.of_same e) (fun _ => Or.inl (e.isOpen.trans ho))
  · next ho =>
    have ho : s.passageOpen = false := by simpa using ho
    split
    · next hp =>
      have hp' : p.gate.isSome = true → False := fun h => by
        rw [Option.isNone_iff_eq_none] at hp; rw [hp] at h; exact absurd h (by decide)
      refine hg _ ?_ (fun h => absurd (hp' h) id)
      unfold Site.takeApproach
      split
      · next hc =>
        split
        · exact k.armSite hc.1 hc.2 d
        · exact k
      · exact k.of_same ((SamePassage.refl s).testOpposing _ _)
    · split
      · next hh => exact hg _ k (fun _ => Or.inr hh)
      · next hh =>
        have hh : s.passage.held = false := by simpa using hh
        obtain ⟨a, b⟩ := k.takeFirstGate ho hh d
        exact hg _ a (fun _ => b)

/-! ### Counting -/

/-- A point's count changed by one, and the change made known (R31, R33). -/
theorem netChanged (k : s.PassageSound) (p : PointId) (q : Point) (old new : Nat) (f : GateFigures) (hold : (s.point p).net = old)
    (hq : q.net = new) (hm : new = old + 1 ∨ old = new + 1)
    (hw : p.gate.isSome = true → s.passageOpen = true ∨ s.passage.held = true) :
    ((s.putPoint p q).netChanged p old new f).PassageSound := by
  have hpt : ∀ r, ((s.putPoint p q).point r).net = if r = p then new else (s.point r).net := by
    intro r
    rw [Site.putPoint_point]
    split
    · exact hq
    · rfl
  unfold Site.netChanged
  dsimp only
  split
  · next ho =>
    have ho : s.passageOpen = true := ho
    have hof := k.openFor ho
    have hrec : (s.putPoint p q).RecordsSound := k.records.of_same (fun _ => rfl) rfl rfl k.records.held
    have h1 : (if ((s.putPoint p q).passage.gate.map Gate.point == some p) = true then (s.putPoint p q).gateChanged old new f
        else s.putPoint p q).PassageSound := by
      split
      · next hg =>
        have hg : (s.passage.gate.map Gate.point == some p) = true := hg
        have hg : s.passage.gate.map Gate.point = some p := by simpa using hg
        obtain ⟨g, hg1, hg2⟩ := Option.map_eq_some_iff.mp hg
        have hs : s.gateNet = old := by unfold Site.gateNet; rw [hg1]; show (s.point g.point).net = old; rw [hg2]; exact hold
        have ht : (s.putPoint p q).gateNet = new := by
          unfold Site.gateNet
          show (match s.passage.gate with | some g => ((s.putPoint p q).point g.point).net | none => 0) = new
          rw [hg1]
          show ((s.putPoint p q).point g.point).net = new
          rw [hpt, if_pos hg2]
        rw [hs] at hof
        have h0 : (s.putPoint p q).OpenFor old := ⟨ho, hof.standing, hof.fits, hof.within⟩
        obtain ⟨a, b⟩ := h0.changed (m' := new) (by omega) f
        have hn := b.gateNet.trans ht
        generalize (s.putPoint p q).gateChanged old new f = u at a b hn
        rw [← hn] at a
        exact a.sound (hrec.counting b) (b.verdicts k.verdicts)
      · next hg =>
        have ht : (s.putPoint p q).gateNet = s.gateNet := by
          unfold Site.gateNet
          show (match s.passage.gate with | some g => ((s.putPoint p q).point g.point).net | none => 0) =
            (match s.passage.gate with | some g => (s.point g.point).net | none => 0)
          cases hg1 : s.passage.gate with
          | none => rfl
          | some g =>
            show ((s.putPoint p q).point g.point).net = (s.point g.point).net
            rw [hpt, if_neg]
            intro e
            apply hg
            show (s.passage.gate.map Gate.point == some p) = true
            rw [hg1, ← e]; simp
        have h0 : (s.putPoint p q).OpenFor (s.putPoint p q).gateNet := by
          rw [ht]; exact ⟨ho, hof.standing, hof.fits, hof.within⟩
        exact h0.sound hrec k.verdicts
    generalize (if ((s.putPoint p q).passage.gate.map Gate.point == some p) = true then (s.putPoint p q).gateChanged old new f
        else s.putPoint p q) = a at h1
    have h2 : (if p.gate.isSome = true then a.testGateCounts else a).PassageSound := by
      split
      · exact h1.of_same (SamePassage.refl _).testGateCounts
      · exact h1
    generalize (if p.gate.isSome = true then a.testGateCounts else a) = b at h2
    have h3 : (if ((s.putPoint p q).passage.gate.map Gate.point == some p && decide (new < old)) = true then b.testWithdrawal
        else b).PassageSound := by
      split
      · exact h2.of_same (SamePassage.refl _).testWithdrawal
      · exact h2
    generalize (if ((s.putPoint p q).passage.gate.map Gate.point == some p && decide (new < old)) = true then b.testWithdrawal
        else b) = c at h3
    split
    · exact h3.of_same (SamePassage.refl _).testClearing
    · exact h3
  · next ho =>
    have ho : s.passageOpen = false := by
      have : ¬ s.passageOpen = true := ho
      simpa using this
    have k1 : (s.putPoint p q).PassageSound := by
      refine k.shut ho ho (fun _ => rfl) id rfl rfl k.records.held (fun a b => ?_) (fun h n => k.cursors_zero ho h n)
      have hp : p.gate.isSome = true → False := fun h => by
        rcases hw h with e | e
        · rw [ho] at e; exact absurd e (by decide)
        · have b : s.passage.held = false := b
          rw [b] at e; exact absurd e (by decide)
      have hw' := k.roster.waiting a ho b
      rw [hpt, hpt]
      cases p
      · exact hw'
      · exact absurd (hp rfl) id
      · exact absurd (hp rfl) id
      · exact hw'
    split
    · exact k1.of_same ((SamePassage.refl _).addPending _)
    · exact k1

theorem countCrossing (k : s.PassageSound) (p : PointId) (d : Dir) (f : GateFigures)
    (hw : p.gate.isSome = true → s.passageOpen = true ∨ s.passage.held = true) : (s.countCrossing p d f).PassageSound := by
  unfold Site.countCrossing
  split
  · exact k
  · split
    · next q o n hq =>
      unfold Point.count at hq
      split at hq
      · split at hq
        · injection hq with e1 e2
          injection e2 with e2
          injection e2 with e2 e3
          exact k.netChanged p q o n f e2 (by rw [← e1, ← e3]) (by omega) hw
        · injection hq with _ e2
          exact absurd e2 (by simp)
      · split at hq
        · injection hq with e1 e2
          injection e2 with e2
          injection e2 with e2 e3
          exact k.netChanged p q o n f e2 (by rw [← e1, ← e3]) (by omega) hw
        · injection hq with _ e2
          exact absurd e2 (by simp)
    · next q hq =>
      refine k.of_same ((SamePassage.refl s).putPoint _ _ ?_)
      unfold Point.count at hq
      split at hq
      · split at hq
        · injection hq with _ e2; exact absurd e2 (by simp)
        · injection hq with e1 _; rw [← e1]
      · split at hq
        · injection hq with _ e2; exact absurd e2 (by simp)
        · injection hq with e1 _; rw [← e1]

theorem takeAndCount (k : s.PassageSound) (p : PointId) (d : Dir) (i : Option Nat) : (s.takeAndCount p d i).PassageSound := by
  obtain ⟨a, b⟩ := k.takeCrossing p d i
  have c := a.countCrossing p d (s.takeCrossing p d i).2 b
  unfold Site.takeAndCount
  dsimp only
  split
  · exact c.of_same (SamePassage.refl _).testClearing
  · exact c

theorem handOn (k : s.PassageSound) (p : PointId) (d : Dir) (i : Option Nat) : (s.handOn p d i).PassageSound := by
  unfold Site.handOn
  dsimp only
  have k1 := k.of_same ((SamePassage.refl s).recordCrossing p d i)
  split
  · exact k1.of_same ((SamePassage.refl _).countSpurious _)
  · exact k1.takeAndCount p d i

theorem headChange (k : s.PassageSound) (h : HeadId) (v : Level) : (s.headChange h v).PassageSound := by
  have k1 := k.of_same ((SamePassage.refl s).setPins (s.pins.put h v))
  unfold Site.headChange
  dsimp only
  split
  · generalize s.setPins (s.pins.put h v) = t at k1
    unfold Site.takeHeadChange
    dsimp only
    split
    · exact k1.of_same ((SamePassage.refl _).putPoint _ _ (Keeps.putHead_net _ _ _))
    · have k2 := k1.of_same ((SamePassage.refl t).putPoint h.point
        (t.crossStep h ((t.point h.point).putHead h.no (((t.point h.point).head h.no).change v t.now)) v).point
        (by rw [Keeps.crossStep_net, Keeps.putHead_net]))
      split
      · exact k2.handOn _ _ _
      · exact k2
  · exact k1

/-! ### Close -/

/-- The close of an open passage (R43, R60, R77). -/
theorem close (k : s.PassageSound) (ho : s.passageOpen = true) (o : PassageOutcome) : (s.close o).PassageSound := by
  have e0 := ((SamePassage.refl s).sendStandDown.armTimerAtClose.cutOffStanding).completeModules
  have k0 := k.of_same e0
  have ho0 := e0.isOpen.trans ho
  unfold Site.close
  dsimp only
  generalize s.sendStandDown.armTimerAtClose.cutOffStanding.completeModules = t at k0 ho0
  have hh : t.passage.held = false := by
    cases h : t.passage.held with
    | false => rfl
    | true => exact absurd (k0.records.not_both ho0 (k0.records.held h).1) id
  have hof := k0.openFor ho0
  have hf : (match t.roster.current with
      | some v => if v.state = VehicleState.opened then t.roster.closeVehicle t.roster.vehicles.length else t.roster
      | none => t.roster).Fits t.gateNet := by
    split
    · split
      · exact RosterUnit.closeVehicle_fits hof.fits _
      · exact hof.fits
    · exact hof.fits
  have hrec : ∀ i, (t.finaliseRoster.closeRecord o).recordAt i =
      updateInPhase .opened (fun r => { r with phase := .closing, close := some (t.finaliseRoster.closeFigures o), causes := t.finaliseRoster.clockCause r.causes }) (t.recordAt i) :=
    fun i => Site.updateRecord_recordAt _ _ _ _
  have hph : ∀ i r, (t.finaliseRoster.closeRecord o).recordAt i = some r → ∃ q, t.recordAt i = some q ∧ r.verdict = q.verdict ∧
      ((q.phase = .opened ∧ r.phase = .closing) ∨ (q.phase ≠ .opened ∧ r.phase = q.phase)) := by
    intro i r hr
    rw [hrec] at hr
    unfold updateInPhase at hr
    split at hr
    · next q hq =>
      split at hr
      · next hp => injection hr with hr; exact ⟨q, hq, by rw [← hr], Or.inl ⟨hp, by rw [← hr]⟩⟩
      · next hp => injection hr with hr; exact ⟨q, hq, by rw [← hr], Or.inr ⟨hp, by rw [← hr]⟩⟩
    · exact absurd hr (by simp)
  have hnc : ∀ i q, t.recordAt i = some q → q.phase ≠ .closing := by
    intro i q hq hp
    exact k0.records.not_both ho0 (k0.records.closing.mp ⟨i, q, hq, hp⟩)
  have hstand : ∀ u : Site, u.SamePassage u.startPendingSweep := fun u => (SamePassage.refl u).startPendingSweep
  refine PassageSound.of_same ?_ (hstand _)
  have hopen : ((((t.finaliseRoster.closeRecord o).setComposition (some (t.finaliseRoster.closeRecord o).newComposition)).clearDirection).updatePassage Passage.afterClose).passageOpen = false := rfl
  refine ⟨⟨?_, ?_, ?_, fun e => ?_⟩, ?_, ⟨?_, hf.entries, hf.vehicles, hf.positions, hf.present, hf.reached, fun e => absurd rfl e⟩, ?_⟩
  · intro i j r q hi hj hr hq
    obtain ⟨r', hr', _, a⟩ := hph i r hi
    obtain ⟨q', hq', _, b⟩ := hph j q hj
    refine k0.records.active i j r' q' hr' hq' ?_ ?_
    · rcases a with a | a
      · rw [a.1]; decide
      · rw [← a.2]; exact hr
    · rcases b with b | b
      · rw [b.1]; decide
      · rw [← b.2]; exact hq
  · refine iff_of_false ?_ (by rw [hopen]; decide)
    rintro ⟨i, r, hr, hp⟩
    obtain ⟨r', hr', _, a⟩ := hph i r hr
    rcases a with a | a
    · rw [a.2] at hp; exact absurd hp (by decide)
    · exact a.1 (a.2 ▸ hp)
  · refine iff_of_true ?_ rfl
    obtain ⟨i, r, hr, hp⟩ := k0.records.opened.mpr ho0
    refine ⟨i, { r with phase := .closing, close := some (t.finaliseRoster.closeFigures o), causes := t.finaliseRoster.clockCause r.causes }, ?_, rfl⟩
    show (t.finaliseRoster.closeRecord o).recordAt i = _
    rw [hrec, hr]
    unfold updateInPhase
    simp only [hp, if_true]
  · have e : t.passage.held = true := e
    rw [hh] at e
    exact absurd e (by decide)
  · intro i r v hr hv
    obtain ⟨r', hr', e, _⟩ := hph i r hr
    exact k0.verdicts i r' v hr' (e ▸ hv)
  · exact iff_of_false (by show RosterStanding.final ≠ .live; decide) (by rw [hopen]; decide)
  · intro h
    rcases h with h | h
    · exact absurd rfl h
    · have h : t.passage.held = true := h
      rw [hh] at h
      exact absurd h (by decide)

/-! ### The end of a composition -/

/-- What the end of a composition leaves: every record CLOSED, no composition (R143). -/
theorem closeComposition_facts (k : s.PassageSound) (hc : s.composing = true) :
    (∀ i r, s.closeComposition.recordAt i = some r → r.phase = .closed) ∧ s.closeComposition.VerdictsSound ∧
      s.closeComposition.composing = false ∧ s.closeComposition.passage = s.passage ∧ s.closeComposition.points = s.points ∧
      s.closeComposition.roster = s.roster ∧ s.closeComposition.modules = s.modules := by
  have ho : s.passageOpen = false := by
    cases h : s.passageOpen with
    | false => rfl
    | true => exact absurd (k.records.not_both h hc) id
  have hf : ∀ (u : Site) (r : TrainRecord), (u.raiseVerdictFlags r).train = u.train ∧ (u.raiseVerdictFlags r).composition = u.composition ∧
      (u.raiseVerdictFlags r).passage = u.passage ∧ (u.raiseVerdictFlags r).points = u.points ∧
      (u.raiseVerdictFlags r).roster = u.roster ∧ (u.raiseVerdictFlags r).modules = u.modules := by
    intro u r
    have g : ∀ (w : Site) (b : Bool) (f : Flag), (w.raiseIf b f).train = w.train ∧ (w.raiseIf b f).composition = w.composition ∧
        (w.raiseIf b f).passage = w.passage ∧ (w.raiseIf b f).points = w.points ∧ (w.raiseIf b f).roster = w.roster ∧
        (w.raiseIf b f).modules = w.modules := by
      intro w b f; unfold Site.raiseIf; split <;> exact ⟨rfl, rfl, rfl, rfl, rfl, rfl⟩
    unfold Site.raiseVerdictFlags
    dsimp only
    refine ⟨?_, ?_, ?_, ?_, ?_, ?_⟩
    · exact ((g _ _ _).1.trans (g _ _ _).1)
    · exact ((g _ _ _).2.1.trans (g _ _ _).2.1)
    · exact ((g _ _ _).2.2.1.trans (g _ _ _).2.2.1)
    · exact ((g _ _ _).2.2.2.1.trans (g _ _ _).2.2.2.1)
    · exact ((g _ _ _).2.2.2.2.1.trans (g _ _ _).2.2.2.2.1)
    · exact ((g _ _ _).2.2.2.2.2.trans (g _ _ _).2.2.2.2.2)
  have hu : ∃ u : Site, s.closeComposition.train = u.train ∧ s.closeComposition.composition = u.composition ∧
      s.closeComposition.passage = u.passage ∧ s.closeComposition.points = u.points ∧ s.closeComposition.roster = u.roster ∧
      s.closeComposition.modules = u.modules ∧
      u = (s.updateRecord .closing (fun r => { r with phase := .closed })).setComposition none := by
    refine ⟨_, ?_, ?_, ?_, ?_, ?_, ?_, rfl⟩ <;>
      (unfold Site.closeComposition; dsimp only; split)
    all_goals first
      | rfl
      | exact (hf _ _).1
      | exact (hf _ _).2.1
      | exact (hf _ _).2.2.1
      | exact (hf _ _).2.2.2.1
      | exact (hf _ _).2.2.2.2.1
      | exact (hf _ _).2.2.2.2.2
  obtain ⟨u, h1, h2, h3, h4, h5, h6, rfl⟩ := hu
  have hrec : ∀ i r, s.closeComposition.recordAt i = some r → ∃ q, s.recordAt i = some q ∧ r.verdict = q.verdict ∧ r.phase = .closed := by
    intro i r hr
    have hr : ((s.updateRecord .closing (fun r => { r with phase := .closed }))).recordAt i = some r := by
      unfold Site.recordAt at hr ⊢; rw [h1] at hr; exact hr
    rw [Site.updateRecord_recordAt] at hr
    unfold updateInPhase at hr
    split at hr
    · next q hq =>
      split at hr
      · injection hr with hr; exact ⟨q, hq, by rw [← hr], by rw [← hr]⟩
      · next hp =>
        injection hr with hr
        refine ⟨q, hq, by rw [← hr], ?_⟩
        rw [← hr]
        cases e : q.phase with
        | closed => rfl
        | closing => exact absurd e hp
        | opened => exact absurd (k.records.opened.mp ⟨i, q, hq, e⟩) (by rw [ho]; decide)
    · exact absurd hr (by simp)
  refine ⟨fun i r hr => ?_, ?_, ?_, h3, h4, h5, h6⟩
  · obtain ⟨_, _, _, h⟩ := hrec i r hr
    exact h
  · intro i r v hr hv
    obtain ⟨q, hq, e, _⟩ := hrec i r hr
    exact k.verdicts i q v hq (e ▸ hv)
  · unfold Site.composing; rw [h2]; rfl

/-- A held opening takes effect (R32, R53). -/
theorem effectHeld (h : ({ s with passage := { s.passage with held := false } } : Site).Ready) {d : Dir} (hd : s.passage.direction = some d) :
    s.effectHeld.PassageSound := by
  unfold Site.effectHeld
  rw [hd]
  dsimp only
  have h : (s.updatePassage (fun p => { p with held := false })).Ready := h
  obtain ⟨h1, h2, h3, h4, _, _⟩ := h.opened d true
  generalize (s.updatePassage (fun p => { p with held := false })).openPassage d true = t at h1 h2 h3 h4
  obtain ⟨a, b⟩ := h1.fill h2 t.gateNet
  have k : (t.fillRoster t.gateNet).PassageSound := by
    rw [← b.gateNet] at a
    have a' : (t.fillRoster t.gateNet).OpenFor (t.fillRoster t.gateNet).gateNet := by
      have e := b.gateNet
      rw [e] at a ⊢
      exact a
    exact a'.sound (h3.counting b) (b.verdicts h4)
  have ho := a.isOpen
  split
  · exact k.of_same ((SamePassage.refl _).becomeClearing _ ho)
  · exact k.of_same (SamePassage.refl _).testClearing

/-- Step 7 of a composition (R32, R143, R190). -/
theorem composeEnd (k : s.PassageSound) : s.composeEnd.PassageSound := by
  unfold Site.composeEnd Site.composeStep
  split
  · next c hc =>
    split
    · dsimp only
      split
      · exact k
      · have hcomp : s.composing = true := by unfold Site.composing; rw [hc]; rfl
        obtain ⟨f1, f2, f3, f4, f5, f6, f7⟩ := k.closeComposition_facts hcomp
        have ho : s.passageOpen = false := by
          cases h : s.passageOpen with
          | false => rfl
          | true => exact absurd (k.records.not_both h hcomp) id
        split
        · next hh =>
          rw [f4] at hh
          obtain ⟨d, hd⟩ := Option.isSome_iff_exists.mp (k.records.held hh).2
          refine effectHeld ⟨f1, f2, f3, rfl, fun n => ?_⟩ (d := d) (by rw [f4]; exact hd)
          show (s.closeComposition.line n).cursor = 0
          unfold Site.line; rw [f7]
          exact k.cursors_zero ho (Or.inr hh) n
        · next hh =>
          rw [f4] at hh
          have hh : s.passage.held = false := by simpa using hh
          have hn : s.closeComposition.headingNet = s.headingNet := by
            unfold Site.headingNet Site.gateNet Site.point; rw [f4, f5, f6]
          have ho' : s.closeComposition.passageOpen = s.passageOpen := by unfold Site.passageOpen; rw [f4]
          refine PassageSound.of_same ⟨⟨?_, ?_, ?_, ?_⟩, f2, ⟨?_, ?_, ?_, ?_, ?_, ?_, ?_⟩, ?_⟩ (SamePassage.refl _).resumeSweep
          · intro i j r q hi hj hr; exact absurd (f1 i r hi) hr
          · refine iff_of_false ?_ (by rw [ho', ho]; decide)
            rintro ⟨i, r, hr, hp⟩
            rw [f1 i r hr] at hp
            exact absurd hp (by decide)
          · refine iff_of_false ?_ (by rw [f3]; decide)
            rintro ⟨i, r, hr, hp⟩
            rw [f1 i r hr] at hp
            exact absurd hp (by decide)
          · rw [f4]; intro e; rw [hh] at e; exact absurd e (by decide)
          · rw [f6, ho']; exact k.roster.live
          · rw [f6]; exact k.roster.entries
          · rw [f6]; exact k.roster.vehicles
          · rw [f6]; exact k.roster.positions
          · rw [f6, hn]; exact k.roster.present
          · rw [f6, hn]; exact k.roster.reached
          · unfold Site.passageOpen Site.point; rw [f4, f5]; exact k.roster.waiting
          · unfold PlacesSound Site.rosterLen Site.passageOpen Site.line; rw [f4, f6, f7]; exact k.places
    · exact k
  · exact k

/-- The arm timeout in ARMED (R24). -/
theorem armTimeoutEvent (k : s.PassageSound) : s.armTimeoutEvent.PassageSound := by
  unfold Site.armTimeoutEvent
  split
  · next h =>
    have ho : s.passageOpen = false := by unfold Site.passageOpen; rw [h.1]; rfl
    unfold Site.armTimeoutExpiry
    refine k.shut ho rfl (fun _ => rfl) id rfl rfl (fun e => ?_) (fun e => absurd rfl e) (fun e => ?_)
    · have e : s.passage.held = true := e
      rw [h.2.1] at e
      exact absurd e (by decide)
    · rcases e with e | e
      · exact absurd rfl e
      · have e : s.passage.held = true := e
        rw [h.2.1] at e
        exact absurd e (by decide)
  · exact k

theorem clearEvent (k : s.PassageSound) : s.clearEvent.PassageSound := by
  unfold Site.clearEvent
  split
  · next h => exact k.close (by unfold Site.passageOpen; rw [h.1]; rfl) _
  · exact k

theorem limitEvent (k : s.PassageSound) : s.limitEvent.PassageSound := by
  unfold Site.limitEvent
  split
  · next h => exact k.close h.1 _
  · exact k

/-! ### Reports -/

/-- A line moved to another place within R80's bounds. -/
theorem putLine (k : s.PassageSound) (n : Fin 8) (l : ModuleLine)
    (hl : s.passage.phase ≠ .idle ∨ s.passage.held = true → l.cursor ≤ s.rosterLen ∧ (0 < l.beyond → l.cursor = s.rosterLen)) :
    (s.putLine n l).PassageSound := by
  refine ⟨k.records.of_same (fun _ => rfl) rfl rfl k.records.held, k.verdicts,
    ⟨k.roster.live, k.roster.entries, k.roster.vehicles, k.roster.positions, k.roster.present, k.roster.reached, k.roster.waiting⟩, ?_⟩
  intro h m
  rw [Site.putLine_line]
  split
  · exact hl h
  · exact k.places h m

theorem missingCrossing (k : s.PassageSound) (n : Fin 8) : (s.missingCrossing n).PassageSound := by
  unfold Site.missingCrossing
  dsimp only
  split
  · next h =>
    refine k.putLine n _ (fun a => ?_)
    obtain ⟨h1, h2⟩ := k.places a n
    exact ⟨h, fun b => by have := h2 b; omega⟩
  · next h =>
    split
    · refine k.putLine n _ (fun a => ?_)
      obtain ⟨h1, h2⟩ := k.places a n
      exact ⟨h1, fun _ => by show (s.line n).cursor = _; omega⟩
    · exact k.putLine n _ (fun a => k.places a n)

theorem missingCrossings (n : Fin 8) : ∀ (m : Nat) (t : Site), t.PassageSound → (Site.missingCrossings n m t).PassageSound
  | 0, _, h => h
  | m + 1, _, h => missingCrossings n m _ (h.missingCrossing n)

theorem takeReport (k : s.PassageSound) (n : Fin 8) (f : ModuleFrame) : (s.takeReport n f).PassageSound := by
  have hr : ∀ t : Site, t.PassageSound → (t.reverseReport n).PassageSound := by
    intro t k
    unfold Site.reverseReport
    dsimp only
    split
    · refine k.putLine n _ (fun a => ?_)
      obtain ⟨h1, h2⟩ := k.places a n
      exact ⟨h1, fun _ => by show (t.line n).cursor = _; omega⟩
    · next hb =>
      split
      · next hc =>
        have k1 := k.of_same ((SamePassage.refl t).updateEntry (t.line n).cursor AxleEntry.markReversed (fun _ => rfl))
        refine k1.putLine n _ (fun a => ?_)
        have h := k1.places a n
        exact ⟨Nat.le_trans (Nat.sub_le _ _) h.1, fun b => absurd b hb⟩
      · exact k
  have hf : ∀ (t : Site) (v : ReportValues), t.PassageSound → (t.forwardReport n v).PassageSound := by
    intro t v k
    unfold Site.forwardReport
    dsimp only
    split
    · next h =>
      refine (k.putLine n _ (fun a => ⟨h.2, fun b => ?_⟩)).of_same
        ((SamePassage.refl _).updateEntry ((t.line n).cursor + 1) (fun e => e.take n v) (fun e => ?_))
      · have b : 0 < (t.line n).beyond := b
        omega
      · unfold AxleEntry.take
        dsimp only
        split
        · split
          · split
            · rfl
            · rfl
            · split <;> rfl
            · split <;> rfl
          · rfl
        · split
          · split
            · rfl
            · rfl
            · split <;> rfl
            · split <;> rfl
          · rfl
    · next h =>
      split
      · refine k.putLine n _ (fun a => ?_)
        obtain ⟨h1, h2⟩ := k.places a n
        exact ⟨h1, fun _ => by show (t.line n).cursor = _; by_cases hb : (t.line n).beyond = 0 <;> omega⟩
      · exact k.of_same (((SamePassage.refl t).updateLine n ModuleLine.orphan).addCause _)
  unfold Site.takeReport
  dsimp only
  split
  · have k1 := missingCrossings n (f.sequence - (s.line n).expected).toNat s k
    have k2 : ((Site.missingCrossings n (f.sequence - (s.line n).expected).toNat s).placeReport n f.payload).PassageSound := by
      unfold Site.placeReport
      split
      · exact hf _ _ k1
      · exact hr _ k1
    exact k2.of_same ((SamePassage.refl _).updateLine n (fun l => l.expectAfter f.sequence))
  · exact k.of_same ((SamePassage.refl s).updateLine n ModuleLine.outOfOrder)

theorem reportFrame (k : s.PassageSound) (n : Fin 8) (f : ModuleFrame) : (s.reportFrame n f).PassageSound := by
  have k0 : (s.updateLine n (fun l => l.receive .hunting)).PassageSound := k.of_same ((SamePassage.refl s).updateLine n _)
  unfold Site.reportFrame Site.takeFrame
  dsimp only
  repeat' split
  · exact k
  · exact k0.of_same ((SamePassage.refl _).updateLine n ModuleLine.crcError)
  · exact k0.of_same ((SamePassage.refl _).updateLine n ModuleLine.malformedFrame)
  · exact k0.of_same ((SamePassage.refl _).updateLine n ModuleLine.staleFrame)
  · exact (k0.of_same ((SamePassage.refl _).takeReady n [])).takeReport n f

/-! ### Records retired and resolved -/

/-- A CLOSED record's slot made FREE (R163). -/
theorem freeRecord (k : s.PassageSound) (i : Fin 4) (r : TrainRecord) (hr : s.recordAt i = some r) (hp : r.phase = .closed) :
    (s.putRecord i none).PassageSound := by
  have h : ∀ j q, (s.putRecord i none).recordAt j = some q → s.recordAt j = some q := by
    intro j q hq
    rw [Site.putRecord_recordAt] at hq
    split at hq
    · exact absurd hq (by simp)
    · exact hq
  have h' : ∀ j q, s.recordAt j = some q → q.phase ≠ .closed → (s.putRecord i none).recordAt j = some q := by
    intro j q hq hn
    rw [Site.putRecord_recordAt, if_neg]
    · exact hq
    · intro e
      rw [e, hr] at hq
      injection hq with hq
      exact hn (hq ▸ hp)
  refine ⟨⟨fun a b p q ha hb => k.records.active a b p q (h a p ha) (h b q hb), ?_, ?_, k.records.held⟩,
    fun j q v hq => k.verdicts j q v (h j q hq),
    ⟨k.roster.live, k.roster.entries, k.roster.vehicles, k.roster.positions, k.roster.present, k.roster.reached, k.roster.waiting⟩, k.places⟩
  · rw [show (s.putRecord i none).passageOpen = s.passageOpen from rfl, ← k.records.opened]
    exact ⟨fun ⟨j, q, hq, e⟩ => ⟨j, q, h j q hq, e⟩, fun ⟨j, q, hq, e⟩ => ⟨j, q, h' j q hq (by rw [e]; decide), e⟩⟩
  · rw [show (s.putRecord i none).composing = s.composing from rfl, ← k.records.closing]
    exact ⟨fun ⟨j, q, hq, e⟩ => ⟨j, q, h j q hq, e⟩, fun ⟨j, q, hq, e⟩ => ⟨j, q, h' j q hq (by rw [e]; decide), e⟩⟩

theorem retireRecord (k : s.PassageSound) (i : Fin 4) (r : TrainRecord) (p : Port) (hr : s.recordAt i = some r)
    (hp : r.phase = .closed) : (s.retireRecord i r p).PassageSound := by
  unfold Site.retireRecord
  dsimp only
  split
  · exact (k.of_same (((SamePassage.refl s).abandonDeferred r).loseHold p)).freeRecord i r hr hp
  · exact (k.of_same ((SamePassage.refl s).abandonDeferred r)).freeRecord i r hr hp

theorem resolveFinding (k : s.PassageSound) (i : Fin 4) (r : TrainRecord) (v : Verdict) (f : Finding) (g : Grade)
    (hr : s.recordAt i = some r) : (s.resolveFinding i r v f g).site.PassageSound := by
  refine k.of_same (SamePassage.sendResolution (SamePassage.raiseIf ?_ _ _) _ _)
  refine (SamePassage.refl s).putRecord i r _ hr rfl (fun w hw => Or.inr ?_)
  have hw : some (v.resolve f.number g) = some w := hw
  injection hw with hw
  rw [← hw]
  rfl

/-! ### Cold start and site reset -/

theorem coldStart (pins : HeadLines) (n : Nat) : (Site.coldStart pins n).PassageSound := by
  have hr : ∀ i, (Site.coldStart pins n).recordAt i = none := fun i => by simp [Site.recordAt, Site.coldStart]
  refine ⟨⟨fun i j r q hi => by rw [hr] at hi; exact absurd hi (by simp), ?_, ?_, fun e => absurd e (by show ¬ (false = true); decide)⟩,
    fun i r v hi => by rw [hr] at hi; exact absurd hi (by simp),
    ⟨iff_of_false (by show RosterStanding.none ≠ .live; decide) (by show ¬ (false = true); decide), Nat.zero_le _, Nat.zero_le _,
      fun k v h => absurd h (by simp [Site.coldStart, RosterUnit.coldStart]),
      fun k e h => absurd h (by simp [Site.coldStart, RosterUnit.coldStart]), Nat.zero_le _, fun h => absurd rfl h⟩, ?_⟩
  · refine iff_of_false ?_ (by show ¬ (false = true); decide)
    rintro ⟨i, r, h, _⟩; rw [hr] at h; exact absurd h (by simp)
  · refine iff_of_false ?_ (by show ¬ (false = true); decide)
    rintro ⟨i, r, h, _⟩; rw [hr] at h; exact absurd h (by simp)
  · rintro (h | h)
    · exact absurd rfl h
    · exact absurd h (by show ¬ (false = true); decide)

/-- A site reset, whatever the site before it (R210). -/
theorem siteReset (s : Site) : s.siteReset.PassageSound := by
  unfold Site.siteReset
  refine PassageSound.of_same ?_ (SamePassage.refl _).resetWatch.resetIndications
  have hr : ∀ i, (s.resetPassage.stopComposition.resetTrain.resetRoster.resetPoints).recordAt i = none := fun i => by
    show (Vector.replicate 4 none : Vector (Option TrainRecord) 4)[i] = none
    simp
  refine ⟨⟨fun i j r q hi => by rw [hr] at hi; exact absurd hi (by simp), ?_, ?_, fun e => absurd e (by show ¬ (false = true); decide)⟩,
    fun i r v hi => by rw [hr] at hi; exact absurd hi (by simp),
    ⟨iff_of_false (by show RosterStanding.none ≠ .live; decide) (by show ¬ (false = true); decide), Nat.zero_le _, Nat.zero_le _,
      fun k v h => absurd h (by show ¬ (([] : List Vehicle)[k]? = some v); simp),
      fun k e h => absurd h (by show ¬ (([] : List AxleEntry)[k]? = some e); simp), Nat.zero_le _, fun h => absurd rfl h⟩, ?_⟩
  · refine iff_of_false ?_ (by show ¬ (false = true); decide)
    rintro ⟨i, r, h, _⟩; rw [hr] at h; exact absurd h (by simp)
  · refine iff_of_false ?_ (by show ¬ (false = true); decide)
    rintro ⟨i, r, h, _⟩; rw [hr] at h; exact absurd h (by simp)
  · rintro (h | h)
    · exact absurd rfl h
    · exact absurd h (by show ¬ (false = true); decide)

end Site.PassageSound

end Sys2Proof
end

