-- ==== Sys2Proof/Laws/Step.lean ====
section
/-! SUPPORT. What a command can do to the whole state: it keeps the queue of commands, every invariant of the site, and the bound on
the answer queues; and so does a step. -/

namespace Sys2Proof.Machine

/-- What every command keeps: the queue of commands, the invariants of the site, the bound on the answer queues. -/
structure State.Keeps (s t : State) : Prop where
  pending : t.pending = s.pending
  site : s.site.KeepsAll t.site
  answers : s.AnswersSound → t.AnswersSound

theorem State.placesTaken_eq (s : State) (p : Port) : s.placesTaken p = (s.line p).answers.length +
    (match p with | .siteLink => (if s.site.store.waiting.isSome then 1 else 0) | .servicePort => 0) := by
  cases p <;> rfl

/-- Two states whose ports have as many answers and whose store waits alike take as many places. -/
theorem State.placesTaken_of_same {s t : State} (p : Port) (ha : (t.line p).answers.length = (s.line p).answers.length)
    (hw : t.site.store.waiting.isSome = s.site.store.waiting.isSome) : t.placesTaken p = s.placesTaken p := by
  cases p <;> simp [State.placesTaken_eq, ha, hw]

theorem State.pushAnswer_length (s : State) (p q : Port) (a : Answer) :
    ((s.pushAnswer p a).line q).answers.length = (s.line q).answers.length + (if q = p then 1 else 0) := by
  cases p <;> cases q <;> simp [State.pushAnswer, State.line, State.putLine]

/-- An outcome that, when it is a next state, keeps what every command keeps. -/
def Fine (s : State) (o : Host.Outcome State Fault Refusal) : Prop := ∀ t, o = .next t → s.Keeps t

namespace Fine

variable {s : State}

theorem next {t : State} (h : s.Keeps t) : Fine s (.next t) := fun u hu => by
  simp only [Host.Outcome.next.injEq] at hu
  exact hu ▸ h

theorem fault {r : Fault} : Fine s (.fault r) := fun _ hu => by simp at hu

theorem keepsSite {t : Site} (h : s.site.Keeps t) : s.Keeps (s.setSite t) :=
  ⟨rfl, h.all, fun k p => by rw [State.placesTaken_of_same p (by simp) h.waiting]; exact k p⟩

theorem onSite {f : Site → Site} (h : s.site.Keeps (f s.site)) : Fine s (Machine.onSite f s) := next (keepsSite h)

theorem onWellFormed {wf : Bool} {f : Site → Site} (h : s.site.Keeps (f s.site)) :
    Fine s (Machine.onWellFormed wf (fun s => s.setSite (f s.site)) s) := by
  unfold Machine.onWellFormed
  split
  · exact next (keepsSite h)
  · exact fault

theorem receive (p : Port) (r : Receiver) : s.Keeps (s.receive p r) :=
  ⟨by simp, by simpa using Site.KeepsAll.refl _, fun k q => by simpa using k q⟩

theorem trans {t u : State} (h : s.Keeps t) (k : t.Keeps u) : s.Keeps u :=
  ⟨k.pending.trans h.pending, h.site.trans k.site, k.answers ∘ h.answers⟩

theorem dropAnswer (p : Port) : s.Keeps (s.dropAnswer p) := keepsSite ((Site.Keeps.refl _).setCounts _)

theorem frameError (p : Port) : s.Keeps (s.frameError p) := keepsSite ((Site.Keeps.refl _).setCounts _)

/-- An answer made where a place is free. -/
theorem pushAnswer (p : Port) (a : Answer) (h : s.placesTaken p < 4) : s.Keeps (s.pushAnswer p a) := by
  refine ⟨by simp, by simpa using Site.KeepsAll.refl _, fun k q => ?_⟩
  have hk := k q
  rw [State.placesTaken_eq] at *
  rw [State.pushAnswer_length]
  by_cases e : q = p
  · subst e; cases q <;> simp_all <;> omega
  · simp only [e, if_false, Nat.add_zero]; simpa using hk

theorem pushReply (p : Port) (tag kind : Byte) (r : Option Reply) (h : s.placesTaken p < 4) :
    s.Keeps (s.pushReply p tag kind r) := by
  cases r with
  | none => exact ⟨rfl, .refl _, id⟩
  | some r => exact pushAnswer p _ h

/-- A frame taken whose owner keeps the site. -/
theorem takeFrame (p : Port) (tag kind : Byte) (take : Site → Handled)
    (h : s.site.mode ≠ .held → s.site.Keeps (take s.site).site) : s.Keeps (s.takeFrame p tag kind take) := by
  unfold State.takeFrame
  split
  · exact ⟨rfl, .refl _, id⟩
  · next hm =>
    dsimp only
    split
    · exact trans (receive p _) (dropAnswer p)
    · next hp =>
      split
      · exact trans (receive p _) (pushReply p _ _ _ (by simpa using hp))
      · have h1 : s.Keeps ((s.receive p .hunting).setSite (take s.site).site) :=
          trans (receive p _) (keepsSite (by simpa using h hm))
        refine trans h1 (pushReply p _ _ _ ?_)
        rw [State.placesTaken_of_same (s := s) p (by simp) (by simpa using (h hm).waiting)]
        omega

/-- A request's command, from what its owner does to a site it passes. -/
theorem request {k : RequestKind} {p : Port} {tag : Byte} {body : List Byte} {owner : Site → Handled}
    (h : s.site.Passes p k body → s.site.Keeps (owner s.site).site) : Fine s (Machine.request k p tag body owner s) := by
  unfold Machine.request
  split
  · refine next (takeFrame p _ _ _ (fun hm => ?_))
    unfold checked
    split
    · exact .refl _
    · next hc => exact h ((Site.portCheck_eq_none _ _ _ _ hm).1 hc)
  · exact fault

theorem unknown {p : Port} {tag kind : Byte} {body : List Byte} : Fine s (execUnknownRequest p tag kind body s) := by
  unfold execUnknownRequest Machine.onWellFormed
  split
  · exact next (takeFrame p _ _ _ (fun _ => .refl _))
  · exact fault

theorem coldStart {a b : Bool} : Fine s (execColdStart a b s) :=
  next ⟨rfl, .coldStart _ _ _, fun _ p => by cases p <;> exact Nat.zero_le _⟩

theorem discardFrame (p : Port) (r : Receiver) : s.Keeps (s.discardFrame p r) := by
  unfold State.discardFrame
  split
  · exact ⟨rfl, .refl _, id⟩
  · exact trans (frameError p) (receive p r)

theorem discard {p : Port} {b : Byte} : Fine s (execPortByteGap p b s) := next (discardFrame p _)

theorem discardWellFormed {p : Port} {w : RequestDiscard} : Fine s (execRequestFrameDiscard p w s) := by
  unfold execRequestFrameDiscard Machine.onWellFormed
  split
  · exact next (discardFrame p _)
  · exact fault

theorem sent {p : Port} : Fine s (execAnswerSent p s) := by
  refine next ?_
  unfold State.answerSent
  split
  · exact ⟨rfl, .refl _, id⟩
  · refine ⟨by simp, by simpa using Site.KeepsAll.refl _, fun k q => ?_⟩
    have hk := k q
    rw [State.placesTaken_eq] at *
    cases p <;> cases q <;> simp [State.line, State.putLine] at * <;> omega

/-- A waiting STORE_SAVE ends: its place is taken by its answer. -/
theorem endSave (w : WaitingSave) (r : Reply) (h : s.site.store.waiting.isSome = true) : s.Keeps (s.endSave w r) := by
  refine ⟨by simp [State.endSave], ?_, fun k q => ?_⟩
  · simp only [State.endSave, State.pushReply_site, State.setSite_site]
    exact .endWaiting _
  · have hk := k q
    rw [State.placesTaken_eq] at *
    simp only [State.endSave, State.pushReply, State.pushAnswer_length, State.setSite_line]
    cases q
    · simp [h, State.pushAnswer, Site.endWaiting] at *
      omega
    · simpa using hk

theorem write (b : Bool) : Fine s (.next (s.endWrite b)) := by
  refine next ?_
  unfold State.endWrite
  split
  · next w hw =>
    split
    · split
      · unfold State.writeDone
        have h1 : s.Keeps (s.setSite (s.site.writeSucceeds w)) := keepsSite ((Site.Keeps.refl _).writeSucceeds w)
        dsimp only
        split
        · next v hv =>
          refine trans h1 (endSave v _ ?_)
          have hs : s.site.store.waiting.isSome = true := by
            unfold StoreUnit.savedBy at hv
            split at hv
            · cases hx : s.site.store.waiting with
              | none => rw [hx] at hv; simp at hv
              | some x => rfl
            · simp at hv
          rw [State.setSite_site, ((Site.Keeps.refl s.site).writeSucceeds w).waiting]
          exact hs
        · exact h1
      · unfold State.writeLost
        have h1 : s.Keeps (s.setSite (s.site.writeFails w)) := keepsSite ((Site.Keeps.refl _).writeFails w)
        refine trans h1 ?_
        unfold State.failSave
        split
        · next v _ hv => exact endSave _ _ (by rw [hv]; rfl)
        · exact ⟨rfl, .refl _, id⟩
    · exact ⟨rfl, .refl _, id⟩
  · exact ⟨rfl, .refl _, id⟩

/-- STORE_SAVE taken: a place is kept for its answer. -/
theorem save {p : Port} {tag : Byte} {body : List Byte} : Fine s (execStoreSave p tag body s) := by
  unfold execStoreSave
  by_cases hoff : s.site.store.state = .offline
  · refine request (fun _ => ?_)
    simp only [Site.storeSave, hoff, if_true]
    exact .refl _
  · unfold Machine.request
    split
    swap
    · exact fault
    refine next ?_
    unfold State.takeFrame
    split
    · exact ⟨rfl, .refl _, id⟩
    · next hm =>
      dsimp only
      split
      · exact trans (receive p _) (dropAnswer p)
      · next hp =>
        split
        · exact trans (receive p _) (pushReply p _ _ _ (by simpa using hp))
        · next hi =>
          unfold checked
          split
          · simp only [Site.refuse, Site.answer]
            exact trans (trans (receive p _) (keepsSite (by simpa using Site.Keeps.refl _)))
              (pushReply p _ _ _ (by rw [State.placesTaken_eq] at hp ⊢; simp at hp ⊢; exact hp))
          · next hc =>
            have hpass := (Site.portCheck_eq_none _ _ _ _ hm).1 hc
            have hlink : p = .siteLink := by
              have := hpass.2.2
              simpa [privilegeOf, RequestKind.privilege] using this
            subst hlink
            simp only [Site.storeSave, hoff, if_false, State.pushReply]
            refine ⟨by simp, by simpa using Site.KeepsAll.startSave _ _, fun k q => ?_⟩
            have hk := k q
            have hl : (s.siteLink.answers).length < 4 := by
              simp [State.placesTaken_eq, State.line] at hp
              omega
            rw [State.placesTaken_eq] at *
            cases q
            · simp only [State.setSite_line, State.receive_answers]
              simp only [State.line]
              split <;> omega
            · simpa using hk

end Fine

/-- Every command keeps what every command keeps. -/
theorem exec_keeps (s : State) (c : Instr) : Fine s (exec c s) := by
  cases c with
  | coldStart _ _ => exact Fine.coldStart
  | loadSettingsImage _ =>
    simp only [exec, execLoadSettingsImage]
    refine Fine.onSite ?_
    exact (Site.Keeps.refl _).takeSettingsImage _
  | loadSerialImage _ =>
    simp only [exec, execLoadSerialImage]
    refine Fine.onSite ?_
    exact (Site.Keeps.refl _).takeSerialImage _
  | loadSlotImage _ =>
    simp only [exec, execLoadSlotImage]
    refine Fine.onSite ?_
    exact (Site.Keeps.refl _).takeSlotImage _
  | loadingEnd =>
    simp only [exec, execLoadingEnd]
    refine Fine.onSite ?_
    exact (Site.Keeps.refl _).endLoading
  | headChange _ _ =>
    simp only [exec, execHeadChange]
    refine Fine.onSite ?_
    exact (Site.Keeps.refl _).headChange _ _
  | stuckTimerExpiry _ =>
    simp only [exec, execStuckTimerExpiry]
    refine Fine.onSite ?_
    refine (Site.Keeps.refl _).whenRunning _ ?_
    exact (Site.Keeps.refl _).stuckExpiry _
  | quietTimerExpiry _ =>
    simp only [exec, execQuietTimerExpiry]
    refine Fine.onSite ?_
    refine (Site.Keeps.refl _).whenRunning _ ?_
    exact (Site.Keeps.refl _).quietExpiry _
  | armTimerExpiry =>
    simp only [exec, execArmTimerExpiry]
    refine Fine.onSite ?_
    refine (Site.Keeps.refl _).whenRunning _ ?_
    exact (Site.Keeps.refl _).armTimerEvent
  | armTimeoutExpiry =>
    simp only [exec, execArmTimeoutExpiry]
    refine Fine.onSite ?_
    refine (Site.Keeps.refl _).whenRunning _ ?_
    exact (Site.Keeps.refl _).armTimeoutEvent
  | standstillTimerExpiry =>
    simp only [exec, execStandstillTimerExpiry]
    refine Fine.onSite ?_
    refine (Site.Keeps.refl _).whenRunning _ ?_
    exact (Site.Keeps.refl _).standstillEvent
  | clearTimerExpiry =>
    simp only [exec, execClearTimerExpiry]
    refine Fine.onSite ?_
    refine (Site.Keeps.refl _).whenRunning _ ?_
    exact (Site.Keeps.refl _).clearEvent
  | passageLimitExpiry =>
    simp only [exec, execPassageLimitExpiry]
    refine Fine.onSite ?_
    refine (Site.Keeps.refl _).whenRunning _ ?_
    exact (Site.Keeps.refl _).limitEvent
  | moduleByteGap _ _ =>
    simp only [exec, execModuleByteGap]
    refine Fine.onSite ?_
    refine (Site.Keeps.refl _).whenRunning _ ?_
    exact (Site.Keeps.refl _).moduleGap _ _
  | moduleReady l f => exact Fine.onWellFormed (f := fun t => t.readyFrame l f) ((Site.Keeps.refl _).readyFrame l f)
  | bayScannerReport l f => exact Fine.onWellFormed (f := fun t => t.reportFrame l f) ((Site.Keeps.refl _).reportFrame l f)
  | tagReport f => exact Fine.onWellFormed (f := fun t => t.tagFrame f) ((Site.Keeps.refl _).tagFrame f)
  | composeDerive =>
    simp only [exec, execComposeDerive]
    refine Fine.onSite ?_
    refine (Site.Keeps.refl _).whenRunning _ ?_
    exact (Site.Keeps.refl _).composeDerive
  | composeTestCriteria =>
    simp only [exec, execComposeTestCriteria]
    refine Fine.onSite ?_
    refine (Site.Keeps.refl _).whenRunning _ ?_
    exact (Site.Keeps.refl _).composeTest
  | composeWatchedVehicles =>
    simp only [exec, execComposeWatchedVehicles]
    refine Fine.onSite ?_
    refine (Site.Keeps.refl _).whenRunning _ ?_
    exact (Site.Keeps.refl _).composeWatched
  | composeSelect =>
    simp only [exec, execComposeSelect]
    refine Fine.onSite ?_
    refine (Site.Keeps.refl _).whenRunning _ ?_
    exact (Site.Keeps.refl _).composeSelect
  | composeVerdict =>
    simp only [exec, execComposeVerdict]
    refine Fine.onSite ?_
    refine (Site.Keeps.refl _).whenRunning _ ?_
    exact (Site.Keeps.refl _).composeVerdict
  | passageContribution =>
    simp only [exec, execPassageContribution]
    refine Fine.onSite ?_
    refine (Site.Keeps.refl _).whenRunning _ ?_
    exact (Site.Keeps.refl _).sendContribution
  | compositionEnd =>
    simp only [exec, execCompositionEnd]
    refine Fine.onSite ?_
    refine (Site.Keeps.refl _).whenRunning _ ?_
    exact (Site.Keeps.refl _).composeEnd
  | trainLeaseExpiry _ =>
    simp only [exec, execTrainLeaseExpiry]
    refine Fine.onSite ?_
    refine (Site.Keeps.refl _).whenRunning _ ?_
    exact (Site.Keeps.refl _).trainLeaseExpiry _
  | watchLeaseExpiry _ =>
    simp only [exec, execWatchLeaseExpiry]
    refine Fine.onSite ?_
    refine (Site.Keeps.refl _).whenRunning _ ?_
    exact (Site.Keeps.refl _).watchLeaseExpiry _
  | sweepVisit =>
    simp only [exec, execSweepVisit]
    refine Fine.onSite ?_
    refine (Site.Keeps.refl _).whenRunning _ ?_
    exact (Site.Keeps.refl _).sweepVisit
  | clockSecond =>
    simp only [exec, execClockSecond]
    refine Fine.onSite ?_
    exact (Site.Keeps.refl _).clockSecond
  | storeWriteStart =>
    simp only [exec, execStoreWriteStart]
    refine Fine.onSite ?_
    exact (Site.Keeps.refl _).startWrite
  | storeAckTimeout => exact Fine.write false
  | storeWriteEnd b => exact Fine.write b
  | portByteGap _ _ => exact Fine.discard
  | requestFrameDiscard _ _ => exact Fine.discardWellFormed
  | answerSent _ => exact Fine.sent
  | unknownRequest _ _ _ _ => exact Fine.unknown
  | identify _ _ _ => simp only [exec, execIdentify]; exact Fine.request (fun _ => Site.Keeps.identify _ _)
  | status _ _ _ => simp only [exec, execStatus]; exact Fine.request (fun _ => Site.Keeps.refl _)
  | flagsClear _ _ _ => simp only [exec, execFlagsClear]; exact Fine.request (fun _ => Site.Keeps.flagsClear _ _)
  | enablesSet _ _ _ => exact Fine.request (fun h => Site.Keeps.enablesSet _ _ (fun hl => by
      rcases h.1 with e | ⟨_, e⟩
      · exact absurd (hl.symm.trans e) (by decide)
      · exact absurd e (by decide)))
  | countersRead _ _ _ => simp only [exec, execCountersRead]; exact Fine.request (fun _ => Site.Keeps.refl _)
  | countersClear _ _ _ => exact Fine.request (fun _ => Site.Keeps.countersClear s.site)
  | siteReset _ _ _ =>
    simp only [exec, execSiteReset]
    refine Fine.request (fun _ => ?_)
    exact Site.Keeps.answerOk s.site.siteReset [] (Site.Keeps.refl _).siteReset
  | pointStatus _ _ _ => simp only [exec, execPointStatus]; exact Fine.request (fun _ => Site.Keeps.refl _)
  | headRestore _ _ _ => simp only [exec, execHeadRestore]; exact Fine.request (fun _ => Site.Keeps.headRestore _ _)
  | passageStatus _ _ _ => exact Fine.request (fun _ => Site.Keeps.passageStatus s.site)
  | rosterRead _ _ _ => simp only [exec, execRosterRead]; exact Fine.request (fun _ => Site.Keeps.rosterRead _ _)
  | vehicleRead _ _ _ => simp only [exec, execVehicleRead]; exact Fine.request (fun _ => Site.Keeps.vehicleRead _ _)
  | moduleStatus _ _ _ => simp only [exec, execModuleStatus]; exact Fine.request (fun _ => Site.Keeps.refl _)
  | criterionRead _ _ _ => simp only [exec, execCriterionRead]; exact Fine.request (fun _ => Site.Keeps.criterionRead _ _)
  | criterionWrite _ _ _ => simp only [exec, execCriterionWrite]; exact Fine.request (fun _ => Site.Keeps.criterionWrite _ _)
  | trainList _ _ _ => simp only [exec, execTrainList]; exact Fine.request (fun _ => Site.Keeps.refl _)
  | trainRead _ _ _ => simp only [exec, execTrainRead]; exact Fine.request (fun _ => Site.Keeps.trainRead _ _)
  | trainHold _ _ _ => simp only [exec, execTrainHold]; exact Fine.request (fun _ => Site.Keeps.trainHold _ _ _)
  | trainRelease _ _ _ => simp only [exec, execTrainRelease]; exact Fine.request (fun _ => Site.Keeps.trainRelease _ _ _)
  | trainResolve _ _ _ => simp only [exec, execTrainResolve]; exact Fine.request (fun _ => Site.Keeps.trainResolve _ _ _)
  | trainRetire _ _ _ => simp only [exec, execTrainRetire]; exact Fine.request (fun _ => Site.Keeps.trainRetire _ _ _)
  | watchFind _ _ _ => simp only [exec, execWatchFind]; exact Fine.request (fun _ => Site.Keeps.watchFind _ _)
  | watchScan _ _ _ => simp only [exec, execWatchScan]; exact Fine.request (fun _ => Site.Keeps.watchScan _ _)
  | watchEnrol _ _ _ => simp only [exec, execWatchEnrol]; exact Fine.request (fun _ => Site.Keeps.watchEnrol _ _)
  | watchAmend _ _ _ => simp only [exec, execWatchAmend]; exact Fine.request (fun _ => Site.Keeps.watchAmend _ _ _)
  | watchRetire _ _ _ => simp only [exec, execWatchRetire]; exact Fine.request (fun _ => Site.Keeps.watchRetire _ _ _)
  | watchHold _ _ _ => simp only [exec, execWatchHold]; exact Fine.request (fun _ => Site.Keeps.watchHold _ _ _)
  | watchRelease _ _ _ => simp only [exec, execWatchRelease]; exact Fine.request (fun _ => Site.Keeps.watchRelease _ _ _)
  | sweepNow _ _ _ => simp only [exec, execSweepNow]; exact Fine.request (fun _ => Site.Keeps.sweepNow _)
  | clockRead _ _ _ => simp only [exec, execClockRead]; exact Fine.request (fun _ => Site.Keeps.refl _)
  | clockSet _ _ _ => simp only [exec, execClockSet]; exact Fine.request (fun _ => Site.Keeps.clockSet _ _)
  | settingRead _ _ _ => simp only [exec, execSettingRead]; exact Fine.request (fun _ => Site.Keeps.settingRead _ _)
  | settingWrite _ _ _ => simp only [exec, execSettingWrite]; exact Fine.request (fun _ => Site.Keeps.settingWrite _ _)
  | storeSave _ _ _ => exact Fine.save
  | storeRetry _ _ _ => simp only [exec, execStoreRetry]; exact Fine.request (fun _ => Site.Keeps.storeRetry _)
  | rstnLowOrPowerLoss =>
    simp only [exec, execRstnLowOrPowerLoss]
    refine Fine.onSite ?_
    exact (Site.Keeps.refl _).hold
  | moduleFrameDiscard l w =>
    refine Fine.onWellFormed (f := fun t => t.whenRunning (·.discardModuleFrame l w)) ?_
    exact (Site.Keeps.refl _).whenRunning _ ((Site.Keeps.refl _).discardModuleFrame l w)

theorem exec_pending {c : Instr} {s t : State} (h : exec c s = .next t) : t.pending = s.pending := (exec_keeps s c t h).pending

/-- A step keeps every invariant of the site and the bound on the answer queues. -/
theorem step_keeps {s t : State} (h : step s = .next t) : s.site.KeepsAll t.site ∧ (s.AnswersSound → t.AnswersSound) := by
  unfold step at h
  split at h
  · have := Fine.onSite (s := s) (f := Site.tick) ((Site.Keeps.refl _).tick) t h
    exact ⟨this.site, this.answers⟩
  · next c rest _ =>
    have := exec_keeps (s.setPending rest) c t h
    exact ⟨this.site, this.answers⟩

end Sys2Proof.Machine
end

