-- ==== Sys2Proof/Laws/TablesSame.lean ====
section
/-! SUPPORT. The operations that change nothing of what the invariants of keys and holds read: site state, watch entries, hold counts,
held records. -/

namespace Sys2Proof

/-- Replacing one element changes a count by that element alone. -/
theorem countP_set {α : Type} (p : α → Bool) (l : List α) (i : Nat) (x : α) (h : i < l.length) :
    (l.set i x).countP p + (if p l[i] then 1 else 0) = l.countP p + (if p x then 1 else 0) := by
  induction l generalizing i with
  | nil => exact absurd h (Nat.not_lt_zero _)
  | cons a l ih =>
    cases i with
    | zero => simp only [List.set_cons_zero, List.countP_cons, List.getElem_cons_zero]; omega
    | succ i =>
      simp only [List.set_cons_succ, List.countP_cons, List.getElem_cons_succ]
      have := ih i (by simpa using h)
      omega

/-- Nothing that TablesSound reads differs. -/
structure Site.SameTables (s t : Site) : Prop where
  mode : t.mode = s.mode
  entry : ∀ i, t.watchEntry i = s.watchEntry i
  entriesHeld : ∀ p, t.entriesHeld p = s.entriesHeld p
  holds : t.holds = s.holds
  recordsHeld : ∀ p, t.recordsHeld p = s.recordsHeld p

namespace Site.SameTables

variable {s0 s t : Site}

theorem refl (s : Site) : s.SameTables s := ⟨rfl, fun _ => rfl, fun _ => rfl, rfl, fun _ => rfl⟩

theorem trans (h : s0.SameTables s) (k : s.SameTables t) : s0.SameTables t :=
  ⟨k.mode.trans h.mode, fun i => (k.entry i).trans (h.entry i), fun p => (k.entriesHeld p).trans (h.entriesHeld p),
    k.holds.trans h.holds, fun p => (k.recordsHeld p).trans (h.recordsHeld p)⟩

theorem same (h : s0.SameTables s) (h1 : t.mode = s.mode := by rfl) (h2 : t.watch.slots = s.watch.slots := by rfl)
    (h3 : t.holds = s.holds := by rfl) (h4 : t.train = s.train := by rfl) : s0.SameTables t :=
  h.trans ⟨h1, fun i => by unfold Site.watchEntry Site.watchSlot; rw [h2], fun p => by unfold Site.entriesHeld; rw [h2], h3,
    fun p => by unfold Site.recordsHeld; rw [h4]⟩

theorem sound (h : s.SameTables t) (k : s.TablesSound) : t.TablesSound := by
  refine ⟨fun p => ?_, fun hm p => ?_, fun i e c x he => ?_, fun hm i j e f he hf => ?_⟩
  · rw [h.holds, h.recordsHeld, h.entriesHeld]; exact k.counted p
  · rw [h.holds]; exact k.loading (h.mode ▸ hm) p
  · rw [h.entry] at he; exact k.keyed i e c x he
  · rw [h.entry] at he hf; exact k.keys (h.mode ▸ hm) i j e f he hf

theorem ite {c : Prop} [Decidable c] {a b : Site} (h : s0.SameTables a) (k : s0.SameTables b) :
    s0.SameTables (if c then a else b) := by split <;> assumption

theorem foldl {α : Type} (f : Site → α → Site) (hf : ∀ t a, s0.SameTables t → s0.SameTables (f t a)) :
    ∀ (l : List α) (t : Site), s0.SameTables t → s0.SameTables (l.foldl f t)
  | [], _, h => h
  | a :: l, t, h => foldl f hf l (f t a) (hf t a h)

/-! ### Setters -/

theorem setNow (h : s0.SameTables s) (v) : s0.SameTables (s.setNow v) := h.same
theorem setPins (h : s0.SameTables s) (v) : s0.SameTables (s.setPins v) := h.same
theorem setPoints (h : s0.SameTables s) (v) : s0.SameTables (s.setPoints v) := h.same
theorem setPassage (h : s0.SameTables s) (v) : s0.SameTables (s.setPassage v) := h.same
theorem setRoster (h : s0.SameTables s) (v) : s0.SameTables (s.setRoster v) := h.same
theorem setModules (h : s0.SameTables s) (v) : s0.SameTables (s.setModules v) := h.same
theorem setSettings (h : s0.SameTables s) (v) : s0.SameTables (s.setSettings v) := h.same
theorem setComposition (h : s0.SameTables s) (v) : s0.SameTables (s.setComposition v) := h.same
theorem setFlags (h : s0.SameTables s) (v) : s0.SameTables (s.setFlags v) := h.same
theorem setEnables (h : s0.SameTables s) (v) : s0.SameTables (s.setEnables v) := h.same
theorem setCounts (h : s0.SameTables s) (v) : s0.SameTables (s.setCounts v) := h.same
theorem setClock (h : s0.SameTables s) (v) : s0.SameTables (s.setClock v) := h.same
theorem setStore (h : s0.SameTables s) (v) : s0.SameTables (s.setStore v) := h.same
theorem setFreeDraws (h : s0.SameTables s) (v) : s0.SameTables (s.setFreeDraws v) := h.same
theorem setWatch (h : s0.SameTables s) (v : WatchTable) (hv : v.slots = s.watch.slots := by rfl) : s0.SameTables (s.setWatch v) :=
  h.same rfl hv rfl rfl
theorem enqueue (h : s0.SameTables s) (v) : s0.SameTables (s.enqueue v) := h.setStore _
theorem raise (h : s0.SameTables s) (f) : s0.SameTables (s.raise f) := h.setFlags _
theorem raiseIf (h : s0.SameTables s) (b f) : s0.SameTables (s.raiseIf b f) := ite (h.raise f) h
theorem updatePassage (h : s0.SameTables s) (f) : s0.SameTables (s.updatePassage f) := h.setPassage _
theorem setTimers (h : s0.SameTables s) (f) : s0.SameTables (s.setTimers f) := h.setPassage _
theorem addPending (h : s0.SameTables s) (c) : s0.SameTables (s.addPending c) := h.setPassage _
theorem putPoint (h : s0.SameTables s) (p v) : s0.SameTables (s.putPoint p v) := h.setPoints _
theorem putLine (h : s0.SameTables s) (n l) : s0.SameTables (s.putLine n l) := h.setModules _
theorem updateLine (h : s0.SameTables s) (n f) : s0.SameTables (s.updateLine n f) := h.setModules _
theorem mapLines (h : s0.SameTables s) (f) : s0.SameTables (s.mapLines f) := h.setModules _
theorem clearFlags (h : s0.SameTables s) (v) : s0.SameTables (s.clearFlags v) := (h.setFlags _).raiseIf _ _

/-- Every record changed by a function that keeps its hold. -/
theorem mapTrain (h : s0.SameTables s) (f : Option TrainRecord → Option TrainRecord)
    (hf : ∀ r, (f r).bind TrainRecord.hold = r.bind TrainRecord.hold) : s0.SameTables (s.setTrain (tableMap f s.train)) := by
  refine h.trans ⟨rfl, fun _ => rfl, fun _ => rfl, rfl, fun p => ?_⟩
  show (s.train.toList.map f).countP _ = s.train.toList.countP _
  rw [List.countP_map]
  congr 1
  funext r
  have e : ∀ q : Option TrainRecord, q.any (fun q => heldBy q.hold p) = heldBy (q.bind TrainRecord.hold) p := by
    intro q; cases q <;> rfl
  simp only [Function.comp, e, hf]

theorem addRecordCause (h : s0.SameTables s) (c) : s0.SameTables (s.addRecordCause c) :=
  h.mapTrain _ (fun r => by cases r with | none => rfl | some r => unfold addCauseWhenOpen; simp only; split <;> rfl)
theorem addCause (h : s0.SameTables s) (c) : s0.SameTables (s.addCause c) := ite (h.addRecordCause c) (h.addPending c)
theorem addRecordCauseIf (h : s0.SameTables s) (b c) : s0.SameTables (s.addRecordCauseIf b c) := ite (h.addRecordCause c) h
theorem updateRecord (h : s0.SameTables s) (p) (f : TrainRecord → TrainRecord)
    (hf : ∀ r, (f r).hold = r.hold := by intros; rfl) : s0.SameTables (s.updateRecord p f) :=
  h.mapTrain _ (fun r => by cases r with | none => rfl | some r => unfold updateInPhase; simp only; split <;> simp [hf])

/-! ### Points, roster, module lines -/

theorem setHealth (h : s0.SameTables s) (hd v) : s0.SameTables (s.setHealth hd v) := (h.putPoint _ _).raiseIf _ _
theorem cutOffStanding (h : s0.SameTables s) : s0.SameTables s.cutOffStanding := foldl _ (fun _ _ k => ite (k.setHealth _ _) k) _ _ h
theorem appendAxle (h : s0.SameTables s) (t v g) : s0.SameTables (s.appendAxle t v g) := by
  unfold Site.appendAxle
  exact ((((h.setRoster _).addRecordCauseIf _ _).addRecordCauseIf _ _).addRecordCauseIf _ _).setModules _
theorem rosterRise (h : s0.SameTables s) (m t v g) : s0.SameTables (s.rosterRise m t v g) :=
  ite (h.addRecordCause _) (ite (h.appendAxle _ _ _) (h.setRoster _))
theorem rosterFall (h : s0.SameTables s) (n) : s0.SameTables (s.rosterFall n) := ite (h.setRoster _) h
theorem fillAxles : ∀ (k : Nat) (t : Site), s0.SameTables t → s0.SameTables (Sys2Proof.fillAxles k t)
  | 0, _, h => h
  | k + 1, _, h => fillAxles k _ (h.appendAxle _ _ _)
theorem fillRoster (h : s0.SameTables s) (n) : s0.SameTables (s.fillRoster n) := (fillAxles _ _ h).addRecordCauseIf _ _
theorem assignTag (h : s0.SameTables s) (t e) : s0.SameTables (s.assignTag t e) := by
  unfold Site.assignTag Site.tagConflict
  repeat' split
  all_goals first | exact h | exact (h.setRoster _).addRecordCause _ | exact h.setRoster _
theorem takeTag (h : s0.SameTables s) (t) : s0.SameTables (s.takeTag t) := by
  unfold Site.takeTag
  dsimp only
  repeat' split
  all_goals first | exact h.setRoster _ | exact h.assignTag _ _
theorem sendStandDown (h : s0.SameTables s) : s0.SameTables s.sendStandDown := h.mapLines _
theorem standDownModules (h : s0.SameTables s) : s0.SameTables s.standDownModules := h.sendStandDown.mapLines _
theorem becomeArmed (h : s0.SameTables s) : s0.SameTables s.becomeArmed := ite (h.setPassage _) h
theorem stopArmTimer (h : s0.SameTables s) : s0.SameTables s.stopArmTimer := h.setTimers _
theorem startArmTimer (h : s0.SameTables s) : s0.SameTables s.startArmTimer := ite h (h.setTimers _)
theorem giveUpModules (h : s0.SameTables s) : s0.SameTables s.giveUpModules := h.mapLines _
theorem armTimerEvent (h : s0.SameTables s) : s0.SameTables s.armTimerEvent := ite h.giveUpModules.stopArmTimer.becomeArmed h
theorem armTimerAtClose (h : s0.SameTables s) : s0.SameTables s.armTimerAtClose := ite h.giveUpModules.stopArmTimer h
theorem completeModules (h : s0.SameTables s) : s0.SameTables s.completeModules :=
  (((h.addRecordCauseIf _ _).raiseIf _ _).raiseIf _ _).mapLines _
theorem discardModuleFrame (h : s0.SameTables s) (n d) : s0.SameTables (s.discardModuleFrame n d) := by
  unfold Site.discardModuleFrame
  split <;> exact h.updateLine _ _
theorem moduleReady (h : s0.SameTables s) (n p) : s0.SameTables (s.moduleReady n p) :=
  ite ((h.updateLine _ _).setModules _) (h.updateLine _ _)
theorem takeReady (h : s0.SameTables s) (n p) : s0.SameTables (s.takeReady n p) := by
  unfold Site.takeReady
  split
  all_goals first
    | exact ite (h.moduleReady _ _).stopArmTimer.becomeArmed (h.moduleReady _ _)
    | exact (h.moduleReady _ _).addCause _
    | exact h
theorem missingCrossings (n) : ∀ (k : Nat) (t : Site), s0.SameTables t → s0.SameTables (Site.missingCrossings n k t)
  | 0, _, h => h
  | k + 1, _, h => missingCrossings n k _ (ite (h.putLine _ _) (ite (h.putLine _ _) (h.putLine _ _)))
theorem placeReport (h : s0.SameTables s) (n p) : s0.SameTables (s.placeReport n p) :=
  ite (ite ((h.putLine _ _).setRoster _) (ite (h.putLine _ _) ((h.updateLine _ _).addCause _)))
    (ite (h.putLine _ _) (ite ((h.setRoster _).putLine _ _) h))
theorem takeReport (h : s0.SameTables s) (n f) : s0.SameTables (s.takeReport n f) :=
  ite (((missingCrossings n _ _ h).placeReport _ _).updateLine _ _) (h.updateLine _ _)
theorem moduleFrame (h : s0.SameTables s) (n f take) (ht : ∀ t, s0.SameTables t → s0.SameTables (take t)) :
    s0.SameTables (s.takeFrame n f take) := by
  unfold Site.takeFrame
  dsimp only
  repeat' split
  all_goals first
    | exact h
    | exact (h.updateLine _ _).updateLine _ _
    | exact ht _ (h.updateLine _ _)
theorem readyFrame (h : s0.SameTables s) (n f) : s0.SameTables (s.readyFrame n f) := h.moduleFrame _ _ _ (fun _ k => k.takeReady _ _)
theorem reportFrame (h : s0.SameTables s) (n f) : s0.SameTables (s.reportFrame n f) :=
  h.moduleFrame _ _ _ (fun _ k => (k.takeReady _ _).takeReport _ _)
theorem tagFrame (h : s0.SameTables s) (f) : s0.SameTables (s.tagFrame f) :=
  h.moduleFrame _ _ _ (fun _ k => (k.takeReady _ _).takeTag _)

/-! ### The sweep's state -/

theorem startSweep (h : s0.SameTables s) : s0.SameTables s.startSweep := h.setWatch _
theorem takeSweepStart (h : s0.SameTables s) : s0.SameTables s.takeSweepStart := ite (ite (h.setWatch _) h.startSweep) h
theorem suspendSweep (h : s0.SameTables s) : s0.SameTables s.suspendSweep := ite (h.setWatch _) h
theorem resumeSweep (h : s0.SameTables s) : s0.SameTables s.resumeSweep := ite (h.setWatch _) h
theorem startPendingSweep (h : s0.SameTables s) : s0.SameTables s.startPendingSweep := ite h.startSweep h
theorem advanceCursor (h : s0.SameTables s) : s0.SameTables s.advanceCursor := ite (h.setWatch _) ((h.setWatch _).raise _)

/-! ### Passage controller, without openings -/

theorem takeSerial (h : s0.SameTables s) : s0.SameTables s.takeSerial := by
  unfold Site.takeSerial
  exact (((h.updatePassage _).setModules _).setStore _).enqueue _
theorem callModules (h : s0.SameTables s) (d) : s0.SameTables (s.callModules d) := by
  unfold Site.callModules
  exact ((((h.updatePassage _).takeSerial).setPoints _).setModules _).startArmTimer
theorem armSite (h : s0.SameTables s) (d) : s0.SameTables (s.armSite d) :=
  ite ((h.updatePassage _).raise _)
    (ite ((h.callModules _).updatePassage _).becomeArmed ((h.callModules _).updatePassage _))
theorem fromArming (h : s0.SameTables s) (d) : s0.SameTables (s.fromArming d) := by
  unfold Site.fromArming Site.applyMismatch
  exact ite ((ite (h.addPending _) (h.setTimers _)).updatePassage _)
    (((((ite (h.addPending _) (h.setTimers _)).updatePassage _).addPending _).setPoints _).setModules _)
theorem holdOpening (h : s0.SameTables s) (d) : s0.SameTables (s.holdOpening d) := by
  unfold Site.holdOpening
  exact ((ite (((h.updatePassage _).callModules _).addPending _) (h.fromArming _)).addPending _).updatePassage _
theorem takeGateCrossing (h : s0.SameTables s) (p d i) : s0.SameTables (s.takeGateCrossing p d i).1 := by
  unfold Site.takeGateCrossing
  dsimp only
  repeat' split
  all_goals first | exact h | (dsimp only; exact h.updatePassage _)
theorem testClearing (h : s0.SameTables s) : s0.SameTables s.testClearing := ite (h.updatePassage _) h
theorem testWithdrawal (h : s0.SameTables s) : s0.SameTables s.testWithdrawal := ite (h.updatePassage _) h
theorem testGateCounts (h : s0.SameTables s) : s0.SameTables s.testGateCounts := h.addRecordCauseIf _ _
theorem clearUnchecked (h : s0.SameTables s) : s0.SameTables s.clearUnchecked := (h.updatePassage _).addRecordCause _
theorem testMembership (h : s0.SameTables s) : s0.SameTables s.testMembership := by
  have h1 := h.testGateCounts
  unfold Site.testMembership
  dsimp only
  repeat' split
  all_goals first | exact h1.testClearing | exact h1.clearUnchecked | exact h1.addRecordCause _ | exact h1
theorem changeHealth (h : s0.SameTables s) (hd v) : s0.SameTables (s.changeHealth hd v) :=
  ite (ite ((h.setHealth _ _).updatePassage _).testMembership (h.setHealth _ _)) (h.setHealth _ _)
theorem takeOpenCrossing (h : s0.SameTables s) (p) : s0.SameTables (s.takeOpenCrossing p) := by
  unfold Site.takeOpenCrossing
  repeat' split
  all_goals first | exact h.updatePassage _ | exact h
theorem testOpposing (h : s0.SameTables s) (p d) : s0.SameTables (s.testOpposing p d) := by
  unfold Site.testOpposing
  repeat' split
  all_goals first | exact (h.addPending _).raise _ | exact h
theorem takeApproach (h : s0.SameTables s) (p d) : s0.SameTables (s.takeApproach p d) :=
  ite (ite (h.armSite _) h) (h.testOpposing _ _)
theorem gateChanged (h : s0.SameTables s) (o n f) : s0.SameTables (s.gateChanged o n f) :=
  ite ((h.rosterRise _ _ _ _).updatePassage _) ((h.addRecordCause _).rosterFall _)
theorem netChanged (h : s0.SameTables s) (p o n f) : s0.SameTables (s.netChanged p o n f) := by
  unfold Site.netChanged
  dsimp only
  refine ite ?_ (ite (h.addPending _) h)
  have h1 : s0.SameTables (if (s.passage.gate.map Gate.point == some p) = true then s.gateChanged o n f else s) :=
    ite (h.gateChanged _ _ _) h
  generalize (if (s.passage.gate.map Gate.point == some p) = true then s.gateChanged o n f else s) = a at h1 ⊢
  have h2 : s0.SameTables (if p.gate.isSome = true then a.testGateCounts else a) := ite h1.testGateCounts h1
  generalize (if p.gate.isSome = true then a.testGateCounts else a) = b at h2 ⊢
  have h3 : s0.SameTables (if (s.passage.gate.map Gate.point == some p && decide (n < o)) = true then b.testWithdrawal else b) :=
    ite h2.testWithdrawal h2
  generalize (if (s.passage.gate.map Gate.point == some p && decide (n < o)) = true then b.testWithdrawal else b) = c at h3 ⊢
  exact ite h3.testClearing h3
theorem countCrossing (h : s0.SameTables s) (p d f) : s0.SameTables (s.countCrossing p d f) := by
  unfold Site.countCrossing
  split
  · exact h
  · split
    · exact (h.putPoint _ _).netChanged _ _ _ _
    · exact h.putPoint _ _
theorem close (h : s0.SameTables s) (o) : s0.SameTables (s.close o) := by
  unfold Site.close Site.closeRecord Site.clearDirection
  exact ((((((((h.sendStandDown.armTimerAtClose).cutOffStanding).completeModules).setRoster _).updateRecord _ _).setComposition
    _).setPoints _).updatePassage _).startPendingSweep
theorem armTimeoutEvent (h : s0.SameTables s) : s0.SameTables s.armTimeoutEvent := by
  refine ite ?_ h
  unfold Site.armTimeoutExpiry
  exact ((h.standDownModules.setPoints _).updatePassage _).updatePassage _
theorem standstillEvent (h : s0.SameTables s) : s0.SameTables s.standstillEvent :=
  ite (ite ((h.updatePassage _).addRecordCause _) h.clearUnchecked) h
theorem clearEvent (h : s0.SameTables s) : s0.SameTables s.clearEvent := ite (h.close _) h
theorem limitEvent (h : s0.SameTables s) : s0.SameTables s.limitEvent := ite (h.close _) h
theorem stuckExpiry (h : s0.SameTables s) (hd) : s0.SameTables (s.stuckExpiry hd) := ite (h.changeHealth _ _) h
theorem quietExpiry (h : s0.SameTables s) (hd) : s0.SameTables (s.quietExpiry hd) := ite (h.changeHealth _ _) h
theorem rescale (h : s0.SameTables s) (n) : s0.SameTables (s.rescale n) := by
  unfold Site.rescale
  split
  · exact foldl _ (fun _ _ k => k.stuckExpiry _) _ _ h
  · exact foldl _ (fun _ _ k => k.quietExpiry _) _ _ h
  · exact h

/-! ### Composition, clock, store, loading -/

theorem putComposition (h : s0.SameTables s) (c) : s0.SameTables (s.putComposition c) := h.setComposition _
theorem composeStep (h : s0.SameTables s) (k f) (hf : ∀ c, s0.SameTables (f c)) : s0.SameTables (s.composeStep k f) := by
  unfold Site.composeStep
  split
  · exact ite (hf _) h
  · exact h
theorem composeDerive (h : s0.SameTables s) : s0.SameTables s.composeDerive := h.composeStep _ _ (fun _ => h.putComposition _)
theorem composeTest (h : s0.SameTables s) : s0.SameTables s.composeTest := h.composeStep _ _ (fun _ => h.putComposition _)
theorem composeWatched (h : s0.SameTables s) : s0.SameTables s.composeWatched := h.composeStep _ _ (fun _ => h.putComposition _)
theorem addClosingCause (h : s0.SameTables s) (b c) : s0.SameTables (s.addClosingCause b c) := ite (h.updateRecord _ _) h
theorem composeSelect (h : s0.SameTables s) : s0.SameTables s.composeSelect :=
  h.composeStep _ _ (fun _ => (h.putComposition _).addClosingCause _ _)
theorem composeVerdict (h : s0.SameTables s) : s0.SameTables s.composeVerdict :=
  h.composeStep _ _ (fun _ => ((h.updateRecord _ _).addClosingCause _ _).putComposition _)
theorem closeComposition (h : s0.SameTables s) : s0.SameTables s.closeComposition := by
  have k : s0.SameTables ((s.updateRecord .closing (fun r => { r with phase := .closed })).setComposition none) :=
    (h.updateRecord _ _).setComposition _
  unfold Site.closeComposition
  dsimp only
  split
  · exact ((k.raise _).raiseIf _ _).raiseIf _ _
  · exact k
theorem clockSecond (h : s0.SameTables s) : s0.SameTables s.clockSecond := by
  have k := h.setClock { s.clock with
      spanSecond := nextSpanSecond s.clock.spanSecond
      secondLength := secondPeriods (nextSpanSecond s.clock.spanSecond) (s.settings.get .clockTrim) }
  refine ite h ?_
  show s0.SameTables (s.nextSpan.advanceReading)
  have k : s0.SameTables s.nextSpan := k
  unfold Site.advanceReading Site.clockWrap
  dsimp only
  repeat' split
  · exact ((k.setClock _).setWatch _).raise _
  · exact (k.setClock _).takeSweepStart
  · exact k.setClock _
theorem noteClockChange (h : s0.SameTables s) : s0.SameTables s.noteClockChange := ite (h.addRecordCause _) (ite (h.addPending _) h)
theorem startWrite (h : s0.SameTables s) : s0.SameTables s.startWrite := by
  unfold Site.startWrite
  repeat' split
  all_goals first | exact h | exact h.setStore _
theorem retryStore (h : s0.SameTables s) : s0.SameTables s.retryStore := ite (h.setStore _).startWrite h
theorem takeSettingsImage (h : s0.SameTables s) (i) : s0.SameTables (s.takeSettingsImage i) := by
  have k : s0.SameTables (s.loadSettings i) := by
    unfold Site.loadSettings
    repeat' split
    all_goals first | exact (h.setSettings _).setStore _ | exact h.raise _
  exact ite (k.setStore _) h
theorem takeSerialImage (h : s0.SameTables s) (i) : s0.SameTables (s.takeSerialImage i) := by
  have kb : s0.SameTables s.badSerial := (((h.setStore _).enqueue _).setStore _).raise _
  have k : s0.SameTables (s.loadSerial i) := by
    unfold Site.loadSerial
    repeat' split
    all_goals first | exact h.setStore _ | exact (h.setStore _).setStore _ | exact kb
  exact ite (k.setStore _) h
theorem clearCounters (h : s0.SameTables s) : s0.SameTables s.clearCounters := by
  unfold Site.clearCounters
  exact (((((h.setCounts _).setPoints _).setPassage _).setRoster _).mapLines _).setStore _
theorem tick (h : s0.SameTables s) : s0.SameTables s.tick := ite ((h.setNow _).mapLines _) h
theorem whenRunning (h : s0.SameTables s) (f : Site → Site) (hf : s0.SameTables (f s)) : s0.SameTables (s.whenRunning f) := ite hf h

end Site.SameTables

end Sys2Proof
end

