-- ==== Sys2Proof/Laws/TablesKept.lean ====
section
/-! SUPPORT. The operations of the watch table and of the holds keep each port's hold count equal to what it holds, and the keys of
the watch table apart (R157, R165). -/

namespace Sys2Proof

/-! ### The key of an entry -/

theorem WatchEntry.reconsider_key {e f : WatchEntry} {b : SettingsBlock} {g : Grade} {t : Bool}
    (h : (e.reconsider b g t).entry = some f) : f.key = e.key := by
  unfold WatchEntry.reconsider WatchEntry.raiseLevel at h
  repeat' split at h
  all_goals first
    | (simp only [Option.some.injEq] at h; subst h; rfl)
    | exact absurd h (by simp)

theorem WatchEntry.countGrade_key (e : WatchEntry) (g : Grade) (d : Bool) : (e.countGrade g d).key = e.key := by
  unfold WatchEntry.countGrade
  repeat' split
  all_goals rfl

/-- Applying a contribution leaves the key of an entry that stays (R168, R172, R186). -/
theorem WatchEntry.apply_key {e f : WatchEntry} {b : SettingsBlock} {w : Word16} {c : Contribution} {a : Applied}
    (h : e.apply b w c = some a) (hf : a.entry = some f) : f.key = e.key := by
  cases c with
  | passage k n d g x v =>
    simp only [WatchEntry.apply, Option.some.injEq] at h
    subst h
    refine (WatchEntry.reconsider_key hf).trans ?_
    show (e.takePassage w n d g x v).key = e.key
    unfold WatchEntry.takePassage
    exact WatchEntry.countGrade_key _ g x
  | resolution k g =>
    simp only [WatchEntry.apply, Option.some.injEq] at h
    subst h
    exact (WatchEntry.reconsider_key hf).trans (e.countGrade_key g false)
  | sweep n =>
    simp only [WatchEntry.apply] at h
    split at h
    · exact absurd h (by simp)
    · simp only [Option.some.injEq] at h
      subst h
      simp only [WatchEntry.takeSweep] at hf
      repeat' split at hf
      all_goals first
        | (simp only [Option.some.injEq] at hf; subst hf; rfl)
        | exact absurd hf (by simp)

/-! ### Counting holds -/

/-- How many holds of a port a hold is. -/
def holdsOf (h : Option Hold) (p : Port) : Nat := if heldBy h p then 1 else 0

theorem holdsOf_none (p : Port) : holdsOf none p = 0 := rfl

theorem holdsOf_some (h : Hold) (p : Port) : holdsOf (some h) p = if h.port = p then 1 else 0 := by
  unfold holdsOf heldBy
  by_cases e : h.port = p <;> simp [e]

theorem Site.entriesHeld_put (s : Site) (i : Fin 512) (w : WatchSlot) (p : Port) :
    (s.putWatchSlot i w).entriesHeld p + holdsOf ((s.watchEntry i).bind WatchEntry.hold) p =
      s.entriesHeld p + holdsOf (w.entry.bind WatchEntry.hold) p := by
  have h := countP_set (fun w : WatchSlot => w.entry.any (fun e => heldBy e.hold p)) s.watch.slots.toList i.val w (by simp)
  have e1 : ∀ o : Option WatchEntry, (if o.any (fun e => heldBy e.hold p) then 1 else 0) = holdsOf (o.bind WatchEntry.hold) p := by
    intro o; cases o <;> rfl
  rw [e1, e1] at h
  have e2 : (s.putWatchSlot i w).watch.slots.toList = s.watch.slots.toList.set i.val w := by
    show (s.watch.slots.set i.val w).toArray.toList = _
    rw [Vector.toArray_set, Array.toList_set]
    rfl
  have e3 : s.watch.slots.toList[i.val]'(by simp) = s.watchSlot i := by simp [Site.watchSlot]
  rw [e3] at h
  unfold Site.entriesHeld
  rw [e2]
  exact h

theorem Site.recordsHeld_put (s : Site) (i : Fin 4) (r : Option TrainRecord) (p : Port) :
    (s.putRecord i r).recordsHeld p + holdsOf ((s.recordAt i).bind TrainRecord.hold) p =
      s.recordsHeld p + holdsOf (r.bind TrainRecord.hold) p := by
  have h := countP_set (fun r : Option TrainRecord => r.any (fun r => heldBy r.hold p)) s.train.toList i.val r (by simp)
  have e1 : ∀ o : Option TrainRecord, (if o.any (fun e => heldBy e.hold p) then 1 else 0) = holdsOf (o.bind TrainRecord.hold) p := by
    intro o; cases o <;> rfl
  rw [e1, e1] at h
  have e2 : (s.putRecord i r).train.toList = s.train.toList.set i.val r := by
    show (s.train.set i.val r).toArray.toList = _
    rw [Vector.toArray_set, Array.toList_set]
    rfl
  have e3 : s.train.toList[i.val]'(by simp) = s.recordAt i := by simp [Site.recordAt]
  rw [e3] at h
  unfold Site.recordsHeld
  rw [e2]
  exact h

theorem HoldCounts.get_inc (h : HoldCounts) (p q : Port) : (h.inc p).get q = h.get q + (if p = q then 1 else 0) := by
  cases p <;> cases q <;> rfl

theorem HoldCounts.get_dec (h : HoldCounts) (p q : Port) : (h.dec p).get q = h.get q - (if p = q then 1 else 0) := by
  cases p <;> cases q <;> rfl

namespace Site

/-- Every LIVE entry of a key is without a holder. -/
def KeyFree (s : Site) (k : WatchKey) : Prop := ∀ i e, s.watchEntry i = some e → e.key = k → e.hold = none

/-- From one site to another by applying contributions to entries without a holder. -/
structure Applies (s t : Site) : Prop where
  sound : s.TablesSound → t.TablesSound
  free : ∀ k, s.KeyFree k → t.KeyFree k
  mode : t.mode = s.mode

namespace Applies

variable {s t u : Site}

theorem refl (s : Site) : s.Applies s := ⟨id, fun _ => id, rfl⟩
theorem trans (h : s.Applies t) (k : t.Applies u) : s.Applies u :=
  ⟨k.sound ∘ h.sound, fun x => k.free x ∘ h.free x, k.mode.trans h.mode⟩
theorem of_same (h : s.SameTables t) : s.Applies t :=
  ⟨h.sound, fun _ k i e he => k i e (by rw [← h.entry]; exact he), h.mode⟩

end Applies

namespace TablesSound

variable {s : Site}

/-- A slot replaced by one with the same hold, its pending contributions keyed and its key held by no other slot. -/
theorem putSlot (k : s.TablesSound) (i : Fin 512) (w : WatchSlot)
    (hh : w.entry.bind WatchEntry.hold = (s.watchEntry i).bind WatchEntry.hold)
    (hk : ∀ e c x, w.entry = some e → c ∈ e.pending → c.key = some x → x = e.key)
    (hu : s.mode = .running → ∀ e j f, w.entry = some e → j ≠ i → s.watchEntry j = some f → f.key ≠ e.key) :
    (s.putWatchSlot i w).TablesSound := by
  have he := Keeps.watchEntry_put s i
  refine ⟨fun p => ?_, k.loading, fun j e c x hj => ?_, fun hm a b e f ha hb hef => ?_⟩
  · have := s.entriesHeld_put i w p
    rw [hh] at this
    have := k.counted p
    show s.holds.get p = s.recordsHeld p + _
    omega
  · rw [he] at hj
    split at hj
    · exact hk e c x hj
    · exact k.keyed j e c x hj
  · rw [he] at ha hb
    split at ha
    · next ea =>
      split at hb
      · next eb => rw [ea, eb]
      · next eb => exact absurd hef.symm (hu hm e b f ha eb hb)
    · next ea =>
      split at hb
      · next eb => exact absurd hef (hu hm f a e hb ea ha)
      · exact k.keys hm a b e f ha hb hef

/-- A slot whose entry stands but for its notices and its stamp. -/
theorem putSameEntry (k : s.TablesSound) (i : Fin 512) (w : WatchSlot) (hw : w.entry = s.watchEntry i) :
    (s.putWatchSlot i w).TablesSound :=
  k.putSlot i w (by rw [hw]) (fun e c x h => k.keyed i e c x (hw ▸ h))
    (fun hm e j f h hj hf he => hj (k.keys hm j i f e hf (hw ▸ h) he))

/-- An entry replaced by one with the same key and hold, its pending contributions keyed. -/
theorem putSame (k : s.TablesSound) (i : Fin 512) (e e' : WatchEntry) (he : s.watchEntry i = some e) (h1 : e'.key = e.key)
    (h2 : e'.hold = e.hold) (h3 : ∀ c x, c ∈ e'.pending → c.key = some x → x = e.key) : (s.putEntry i e').TablesSound := by
  refine k.putSlot i _ (by rw [he]; exact h2) (fun f c x hf hc hx => ?_) (fun hm f j g hf hj hg e1 => ?_)
  · have hf : some e' = some f := hf
    injection hf with hf
    subst hf
    rw [h1]; exact h3 c x hc hx
  · have hf : some e' = some f := hf
    injection hf with hf
    subst hf
    exact hj (k.keys hm j i g e hg he (e1.trans h1))

/-- A slot freed whose entry has no holder. -/
theorem freeSlot (k : s.TablesSound) (i : Fin 512) (h : ∀ e, s.watchEntry i = some e → e.hold = none) : (s.freeSlot i).TablesSound := by
  refine ((SameTables.refl _).enqueue _).sound (k.putSlot i _ ?_ (fun e c x he => absurd he (by simp)) (fun _ e j f he => absurd he (by simp)))
  show none = _
  cases e : s.watchEntry i with
  | none => rfl
  | some e' => exact (h e' e).symm

/-- A new entry without a holder in a slot that is FREE, for a key that no entry has (R165). -/
theorem putNew (k : s.TablesSound) (i : Fin 512) (e : WatchEntry) (hi : s.watchEntry i = none) (h1 : e.hold = none)
    (h2 : e.pending = []) (h3 : s.findKey e.key = none) : (s.putEntry i e).TablesSound := by
  have hn : ∀ j f, s.watchEntry j = some f → f.key ≠ e.key := by
    intro j f hf hk
    have := List.find?_eq_none.mp h3 j (by simp [watchIds])
    apply this
    rw [hf]
    simp [hk]
  refine k.putSlot i _ (by rw [hi]; exact h1) (fun f c x hf hc => ?_) (fun hm f j g hf hj hg => ?_)
  · have hf : some e = some f := hf
    injection hf with hf
    subst hf
    rw [h2] at hc
    exact absurd hc (by simp)
  · have hf : some e = some f := hf
    injection hf with hf
    subst hf
    exact hn j g hg

theorem lowestFree_free {i : Fin 512} (h : s.lowestFree = some i) : s.watchEntry i = none := by
  have := List.find?_some h
  simpa using this

end TablesSound

/-! ### Applying contributions -/

/-- A contribution applied to an entry without a holder. -/
theorem applyAt_applies (s : Site) (i : Fin 512) (c : Contribution) (h : ∀ e, s.watchEntry i = some e → e.hold = none) :
    s.Applies (s.applyAt i c) ∧ ∀ e, (s.applyAt i c).watchEntry i = some e → e.hold = none := by
  unfold Site.applyAt
  split
  · next e he =>
    split
    · next a ha =>
      unfold Site.putApplied
      have hrest : ∀ (t : Site) (b : Bool), t.SameTables ((t.enqueue (.slot i)).raiseIf b .watchEscalated) :=
        fun t b => ((SameTables.refl t).enqueue _).raiseIf _ _
      split
      · next f hf =>
        have hh := (WatchEntry.apply_holds ha hf).1
        have hp := (WatchEntry.apply_holds ha hf).2
        have hk := WatchEntry.apply_key ha hf
        have hent : ∀ j, (s.putEntry i f).watchEntry j = if j = i then some f else s.watchEntry j := fun j =>
          Keeps.watchEntry_put s i j _
        refine ⟨Applies.trans ⟨fun k => k.putSame i e f he hk hh (fun c x hc hx => k.keyed i e c x he (hp ▸ hc) hx), fun x hx j g hg hgk => ?_, rfl⟩
          (.of_same (hrest _ _)), fun g hg => ?_⟩
        · rw [hent] at hg
          split at hg
          · injection hg with hg
            rw [← hg, hh]
            exact h e he
          · exact hx j g hg hgk
        · rw [(hrest _ _).entry, hent, if_pos rfl] at hg
          injection hg with hg
          rw [← hg, hh]
          exact h e he
      · have hent : ∀ j, (s.freeSlot i).watchEntry j = if j = i then none else s.watchEntry j := fun j =>
          Keeps.watchEntry_put s i j _
        refine ⟨⟨fun k => k.freeSlot i h, fun x hx j g hg hgk => ?_, rfl⟩, fun g hg => ?_⟩
        · rw [hent] at hg
          split at hg
          · exact absurd hg (by simp)
          · exact hx j g hg hgk
        · rw [hent, if_pos rfl] at hg
          exact absurd hg (by simp)
    · exact ⟨.refl s, h⟩
  · exact ⟨.refl s, h⟩

theorem findKey_entry {s : Site} {k : WatchKey} {i : Fin 512} (h : s.findKey k = some i) {e : WatchEntry} (he : s.watchEntry i = some e) :
    e.key = k := by
  have := List.find?_some h
  rw [he] at this
  simpa using this

/-- An entry raised for a key that no entry has (R171). -/
theorem raiseEntry_applies (s : Site) (k : WatchKey) (g : Grade) (c : Contribution) (hk : s.findKey k = none) :
    s.Applies (s.raiseEntry k g c) := by
  have hr : s.Applies s.refuseRaise := .of_same (((SameTables.refl s).setCounts _).raise _)
  unfold Site.raiseEntry
  split
  · split
    · next i hi =>
      split
      · have hfree := TablesSound.lowestFree_free hi
        have hent : ∀ j, (s.putEntry i (newRaised k s.watch.sweepSerial)).watchEntry j =
            if j = i then some (newRaised k s.watch.sweepSerial) else s.watchEntry j := fun j => Keeps.watchEntry_put s i j _
        have h1 : s.Applies (s.putEntry i (newRaised k s.watch.sweepSerial)) := by
          refine ⟨fun x => x.putNew i _ hfree rfl rfl hk, fun x hx j f hf hfk => ?_, rfl⟩
          rw [hent] at hf
          split at hf
          · rw [← Option.some.inj hf]; rfl
          · exact hx j f hf hfk
        have h2 := applyAt_applies (s.putEntry i (newRaised k s.watch.sweepSerial)) i c (fun e he => by
          rw [hent, if_pos rfl] at he
          rw [← Option.some.inj he]; rfl)
        exact (h1.trans h2.1).trans (.of_same ((SameTables.refl _).raise _))
      · exact hr
    · exact hr
  · exact .refl s

/-- A contribution for a key whose entries have no holder (R177). -/
theorem takeUnheld_applies (s : Site) (c : Contribution) (h : ∀ k, c.key = some k → s.KeyFree k) : s.Applies (s.takeUnheld c) := by
  cases c with
  | passage k n d g x v =>
    unfold Site.takeUnheld
    dsimp only
    split
    · next i hi => exact (applyAt_applies s i _ (fun e he => h k rfl i e he (findKey_entry hi he))).1
    · next hi => exact raiseEntry_applies s k g _ hi
  | resolution k g =>
    unfold Site.takeUnheld
    dsimp only
    split
    · next i hi => exact (applyAt_applies s i _ (fun e he => h k rfl i e he (findKey_entry hi he))).1
    · next hi => exact raiseEntry_applies s k g _ hi
  | sweep n => exact .refl s

/-- Pending contributions applied after the hold of their entry has ended (R177). -/
theorem applyPending_applies (i : Fin 512) : ∀ (cs : List Contribution) (b : Bool) (s : Site),
    (∀ c ∈ cs, ∀ k, c.key = some k → s.KeyFree k) → (b = true → ∀ e, s.watchEntry i = some e → e.hold = none) →
    s.Applies (Site.applyPending i cs b s).1
  | [], _, s, _, _ => .refl s
  | c :: cs, true, s, h, ha => by
    obtain ⟨h1, h2⟩ := applyAt_applies s i c (ha rfl)
    exact h1.trans (applyPending_applies i cs _ _ (fun d hd k hk => h1.free k (h d (by simp [hd]) k hk)) (fun _ => h2))
  | c :: cs, false, s, h, _ => by
    have h1 := takeUnheld_applies s c (h c (by simp))
    exact h1.trans (applyPending_applies i cs _ _ (fun d hd k hk => h1.free k (h d (by simp [hd]) k hk)) (fun e => absurd e (by decide)))

namespace TablesSound

variable {s : Site}

/-- A hold ended: the entry without holder and pending contributions, the holder's count one lower (R157, R174). -/
theorem endHold (k : s.TablesSound) (i : Fin 512) :
    (s.endHold i).TablesSound ∧ (∀ e, (s.endHold i).watchEntry i = some e → e.hold = none) ∧ (s.endHold i).mode = s.mode ∧
      (∀ e, s.watchEntry i = some e → ∃ f, (s.endHold i).watchEntry i = some f ∧ f.key = e.key) := by
  unfold Site.endHold
  split
  · next e he =>
    split
    · next h hh =>
      have hent : ∀ j, ((s.putEntry i { e with hold := none, pending := [] }).loseHold h.port).watchEntry j =
          if j = i then some { e with hold := none, pending := [] } else s.watchEntry j := fun j => Keeps.watchEntry_put s i j _
      refine ⟨⟨fun p => ?_, fun hm p => ?_, fun j f c x hf hc hx => ?_, fun hm a b f g ha hb hfg => ?_⟩, fun f hf => ?_, rfl, fun f hf => ?_⟩
      · have h1 := s.entriesHeld_put i { s.watchSlot i with entry := some { e with hold := none, pending := [] } } p
        have h2 := k.counted p
        rw [he] at h1
        have h1 : (s.putEntry i { e with hold := none, pending := [] }).entriesHeld p + holdsOf e.hold p = s.entriesHeld p + 0 := h1
        rw [hh, holdsOf_some] at h1
        show (s.holds.dec h.port).get p = s.recordsHeld p + (s.putEntry i { e with hold := none, pending := [] }).entriesHeld p
        rw [HoldCounts.get_dec]
        split
        · next e1 => rw [if_pos e1] at h1; omega
        · next e1 => rw [if_neg e1] at h1; omega
      · show (s.holds.dec h.port).get p = 0
        rw [HoldCounts.get_dec, k.loading hm p]
        omega
      · rw [hent] at hf
        split at hf
        · injection hf with hf
          rw [← hf] at hc
          exact absurd hc (by simp)
        · exact k.keyed j f c x hf hc hx
      · rw [hent] at ha hb
        split at ha
        · next ea =>
          split at hb
          · next eb => rw [ea, eb]
          · next eb =>
            injection ha with ha
            exact ea.trans (k.keys hm i b e g he hb (by rw [← hfg, ← ha]))
        · next ea =>
          split at hb
          · next eb =>
            injection hb with hb
            exact (k.keys hm a i f e ha he (by rw [hfg, ← hb])).trans eb.symm
          · exact k.keys hm a b f g ha hb hfg
      · rw [hent, if_pos rfl] at hf
        injection hf with hf
        rw [← hf]
      · rw [hent, if_pos rfl]
        rw [he] at hf
        injection hf with hf
        exact ⟨_, rfl, by rw [← hf]⟩
    · next hh => exact ⟨k, fun f hf => by rw [he] at hf; injection hf with hf; rw [← hf]; exact hh, rfl, fun f hf => ⟨f, hf, rfl⟩⟩
  · next he => exact ⟨k, fun f hf => by rw [he] at hf; exact absurd hf (by simp), rfl, fun f hf => by rw [he] at hf; exact absurd hf (by simp)⟩

/-- While RUNNING, the key of an entry without a holder is free of holds: no other entry has it (R165). -/
theorem keyFree (k : s.TablesSound) (hm : s.mode = .running) {i : Fin 512} {e : WatchEntry} (he : s.watchEntry i = some e)
    (hh : e.hold = none) : s.KeyFree e.key := by
  intro j f hf hk
  have := k.keys hm j i f e hf he hk
  subst this
  rw [he] at hf
  injection hf with hf
  rw [← hf]; exact hh

/-- A hold ended by release, expiry or break, and its contributions applied (R176, R177). -/
theorem endThenApply (k : s.TablesSound) (hm : s.mode = .running) (i : Fin 512) (e : WatchEntry) (he : s.watchEntry i = some e)
    (cs : List Contribution) (hc : ∀ c ∈ cs, ∀ x, c.key = some x → x = e.key) {t : Site} (ht : (s.endHold i).SameTables t) :
    (Site.applyPending i cs true t).1.TablesSound := by
  obtain ⟨h1, h2, h3, h4⟩ := k.endHold i
  have h1' := ht.sound h1
  obtain ⟨f, hf, hfk⟩ := h4 e he
  have hft : t.watchEntry i = some f := by rw [ht.entry]; exact hf
  have hfh : f.hold = none := h2 f hf
  refine (applyPending_applies i cs true t (fun c hcs x hx => ?_) (fun _ g hg => ?_)).sound h1'
  · rw [hc c hcs x hx, ← hfk]
    exact h1'.keyFree (ht.mode.trans (h3.trans hm)) hft hfh
  · rw [hft] at hg
    injection hg with hg
    rw [← hg]; exact hfh

/-- A contribution for the LIVE entry of a slot (R167, R175, R176). -/
theorem takeAt (k : s.TablesSound) (hm : s.mode = .running) (i : Fin 512) (c : Contribution)
    (hc : ∀ e x, s.watchEntry i = some e → c.key = some x → x = e.key) : (s.takeAt i c).TablesSound := by
  unfold Site.takeAt
  split
  · next e he =>
    split
    · next h hh =>
      have hall : ∀ d ∈ e.pending ++ [c], ∀ x, d.key = some x → x = e.key := by
        intro d hd x hx
        rw [List.mem_append] at hd
        rcases hd with hd | hd
        · exact k.keyed i e d x he hd hx
        · rw [List.mem_singleton.mp hd] at hx
          exact hc e x he hx
      unfold Site.pend
      split
      · exact k.putSame i e _ he rfl rfl (fun d x hd hx => hall d hd x hx)
      · unfold Site.breakHold
        refine k.endThenApply hm i e he _ hall ?_
        have a : (s.endHold i).SameTables ((s.endHold i).raise .leaseExpired) := (SameTables.refl _).raise _
        refine a.trans ?_
        generalize (s.endHold i).raise .leaseExpired = t
        have hw : ((t.watchSlot i).setNotice h.port true).entry = t.watchEntry i := by cases h.port <;> rfl
        refine ⟨rfl, fun j => ?_, fun p => ?_, rfl, fun _ => rfl⟩
        · rw [Keeps.watchEntry_put]
          split
          · next e1 => rw [e1]; exact hw
          · rfl
        · have := t.entriesHeld_put i ((t.watchSlot i).setNotice h.port true) p
          rw [hw] at this
          omega
    · next hh =>
      refine (applyAt_applies s i c (fun f hf => ?_)).1.sound k
      rw [he] at hf
      injection hf with hf
      rw [← hf]; exact hh
  · exact k

/-- A contribution handed to the watch table (R167). -/
theorem contribute (k : s.TablesSound) (hm : s.mode = .running) (c : Contribution) : (s.contribute c).TablesSound := by
  have h : ∀ x g d, Contribution.key d = some x → (s.takeKeyed x g d).TablesSound := by
    intro x g d hd
    unfold Site.takeKeyed
    split
    · next i hi =>
      exact k.takeAt hm i d (fun e y he hy => by
        rw [hd] at hy
        rw [← Option.some.inj hy]; exact (findKey_entry hi he).symm)
    · next hi => exact (raiseEntry_applies s x g d hi).sound k
  unfold Site.contribute
  split
  · exact h _ _ _ rfl
  · exact h _ _ _ rfl
  · exact k

theorem releaseEntry (k : s.TablesSound) (hm : s.mode = .running) (i : Fin 512) (e : WatchEntry) (he : s.watchEntry i = some e) :
    (s.releaseEntry i e).1.TablesSound :=
  k.endThenApply hm i e he e.pending (fun c hc x hx => k.keyed i e c x he hc hx) (SameTables.refl _)

theorem watchLeaseExpiry (k : s.TablesSound) (hm : s.mode = .running) (i : Fin 512) : (s.watchLeaseExpiry i).TablesSound := by
  unfold Site.watchLeaseExpiry
  split
  · next e he =>
    have he' : s.watchEntry i = some e := by
      unfold Site.watchLeaseDue at he
      split at he
      · split at he
        · injection he with he
          rw [← he]; assumption
        · exact absurd he (by simp)
      · exact absurd he (by simp)
    exact (((SameTables.refl s).raise _).sound k).releaseEntry hm i e he'
  · exact k

theorem sweepVisit (k : s.TablesSound) (hm : s.mode = .running) : s.sweepVisit.TablesSound := by
  have hv : ∀ i, (s.visit i).TablesSound := by
    intro i
    unfold Site.visit
    split
    · split
      · exact k
      · exact k.takeAt hm i _ (fun e x _ hx => absurd hx (by simp [Contribution.key]))
    · exact k
  unfold Site.sweepVisit
  repeat' split
  · exact (SameTables.refl _).advanceCursor.sound (hv _)
  · exact (SameTables.refl _).advanceCursor.sound k
  · exact k

theorem sendContribution (k : s.TablesSound) (hm : s.mode = .running) : s.sendContribution.TablesSound := by
  unfold Site.sendContribution Site.composeStep
  split
  · split
    · dsimp only
      split
      · exact (((SameTables.refl s).putComposition _).sound k).contribute hm _
      · exact k
    · exact k
  · exact k

/-! ### Holds taken and lost -/

/-- An entry's hold taken or renewed for a port (R173): the count rises by one where the port did not hold it. -/
theorem grantEntry (k : s.TablesSound) (hm : s.mode = .running) (i : Fin 512) (e : WatchEntry) (p : Port) (he : s.watchEntry i = some e)
    (b : Bool) (hb : holdsOf e.hold = fun q => if b then 0 else if p = q then 1 else 0) (h : Hold) (hp : h.port = p) :
    ((if b then s.gainHold p else s).putEntry i { e with hold := some h }).TablesSound := by
  have hent : ∀ j, ((if b then s.gainHold p else s).putEntry i { e with hold := some h }).watchEntry j =
      if j = i then some { e with hold := some h } else s.watchEntry j := by
    intro j
    cases b
    · exact Keeps.watchEntry_put s i j _
    · exact Keeps.watchEntry_put s i j _
  refine ⟨fun q => ?_, fun hm' => ?_, fun j f c x hf hc hx => ?_, fun _ a c f g ha hc hfg => ?_⟩
  · have h1 : ((if b then s.gainHold p else s).putEntry i { e with hold := some h }).entriesHeld q + holdsOf e.hold q =
        s.entriesHeld q + holdsOf (some h) q := by
      have := s.entriesHeld_put i { s.watchSlot i with entry := some { e with hold := some h } } q
      rw [he] at this
      cases b <;> exact this
    have h2 := k.counted q
    have h3 : ((if b then s.gainHold p else s).putEntry i { e with hold := some h }).holds.get q =
        s.holds.get q + (if b then (if p = q then 1 else 0) else 0) := by
      cases b
      · rfl
      · exact HoldCounts.get_inc _ _ _
    have h4 : ((if b then s.gainHold p else s).putEntry i { e with hold := some h }).recordsHeld q = s.recordsHeld q := by
      cases b <;> rfl
    rw [h3, h4]
    rw [hb, holdsOf_some, hp] at h1
    cases b <;> simp only [if_true, if_false, Bool.false_eq_true] at h1 ⊢ <;> omega
  · have : s.mode = .loading := by cases b <;> exact hm'
    rw [hm] at this
    exact absurd this (by decide)
  · rw [hent] at hf
    split at hf
    · rw [← Option.some.inj hf] at hc ⊢
      exact k.keyed i e c x he hc hx
    · exact k.keyed j f c x hf hc hx
  · rw [hent] at ha hc
    split at ha
    · next ea =>
      split at hc
      · next ec => rw [ea, ec]
      · exact ea.trans (k.keys hm i c e g he hc (by rw [← hfg, ← Option.some.inj ha]))
    · split at hc
      · next ec => exact (k.keys hm a i f e ha he (by rw [hfg, ← Option.some.inj hc])).trans ec.symm
      · exact k.keys hm a c f g ha hc hfg

/-- A record's hold replaced and the hold counts moved with it (R157). -/
theorem putRecordHold (k : s.TablesSound) (hm : s.mode = .running) (i : Fin 4) (q : Option TrainRecord) (v : HoldCounts)
    (hv : ∀ p, v.get p + holdsOf ((s.recordAt i).bind TrainRecord.hold) p = s.holds.get p + holdsOf (q.bind TrainRecord.hold) p) :
    ((s.putRecord i q).setHolds v).TablesSound := by
  refine ⟨fun p => ?_, fun hm' => absurd (hm.symm.trans hm') (by decide), k.keyed, k.keys⟩
  have h1 := s.recordsHeld_put i q p
  have h2 := k.counted p
  have h3 := hv p
  show v.get p = (s.putRecord i q).recordsHeld p + s.entriesHeld p
  omega

/-- A port that holds a record counts at least that hold (R157). -/
theorem counts_held (k : s.TablesSound) {i : Fin 4} {r : TrainRecord} (hr : s.recordAt i = some r) {h : Hold} (hh : r.hold = some h) :
    1 ≤ s.holds.get h.port := by
  have h1 := s.recordsHeld_put i none h.port
  have h2 := k.counted h.port
  rw [hr] at h1
  have h1 : (s.putRecord i none).recordsHeld h.port + holdsOf r.hold h.port = s.recordsHeld h.port + 0 := h1
  rw [hh, holdsOf_some, if_pos rfl] at h1
  omega

theorem dec_add (k : s.TablesSound) {i : Fin 4} {r : TrainRecord} (hr : s.recordAt i = some r) {h : Hold} (hh : r.hold = some h) (p : Port) :
    (s.holds.dec h.port).get p + holdsOf r.hold p = s.holds.get p := by
  have := k.counts_held hr hh
  rw [HoldCounts.get_dec, hh, holdsOf_some]
  split
  · next e => rw [← e]; omega
  · omega

/-- A record's hold ended (R157, R159). -/
theorem endTrainHold (k : s.TablesSound) (hm : s.mode = .running) (i : Fin 4) (r : TrainRecord) (h : Hold) (hr : s.recordAt i = some r)
    (hh : r.hold = some h) : (s.endTrainHold i r h.port).TablesSound := by
  refine k.putRecordHold hm i (some { r with hold := none }) (s.holds.dec h.port) (fun p => ?_)
  rw [hr]
  exact k.dec_add hr hh p

theorem trainLeaseExpiry (k : s.TablesSound) (hm : s.mode = .running) (i : Fin 4) : (s.trainLeaseExpiry i).TablesSound := by
  unfold Site.trainLeaseExpiry
  repeat' split
  · exact ((SameTables.refl _).raise _).sound (k.endTrainHold hm i _ _ ‹_› ‹_›)
  · exact k
  · exact k
  · exact k

theorem heldBy_some {h : Option Hold} {p : Port} (e : heldBy h p = true) : ∃ x, h = some x ∧ x.port = p := by
  cases h with
  | none => exact absurd e (by simp [heldBy])
  | some x => exact ⟨x, rfl, by simpa [heldBy] using e⟩

theorem hold_none {h : Option Hold} {p : Port} (a : heldBy h p = false) (b : heldByOther h p = false) : h = none := by
  cases h with
  | none => rfl
  | some x =>
    have a : (x.port == p) = false := a
    have b : (x.port != p) = false := b
    rw [bne, a] at b
    exact absurd b (by decide)

/-- A record retired (R163). -/
theorem retireRecord (k : s.TablesSound) (hm : s.mode = .running) (i : Fin 4) (r : TrainRecord) (p : Port) (hr : s.recordAt i = some r)
    (ho : heldByOther r.hold p = false) : (s.retireRecord i r p).TablesSound := by
  unfold Site.retireRecord
  dsimp only
  have k1 := ((SameTables.refl s).setCounts { s.counts with deferredAbandoned := bumpBy r.deferred s.counts.deferredAbandoned }).sound k
  split
  · next hb =>
    obtain ⟨h, hh, hp⟩ := heldBy_some hb
    have := k1.putRecordHold hm i none (s.holds.dec h.port) (fun q => by
      show _ + holdsOf ((s.recordAt i).bind TrainRecord.hold) q = s.holds.get q + 0
      rw [hr]
      exact k.dec_add hr hh q)
    rw [hp] at this
    exact this
  · next hb =>
    have hn := hold_none (by simpa using hb) ho
    have := k1.putRecordHold hm i none s.holds (fun q => by
      show _ + holdsOf ((s.recordAt i).bind TrainRecord.hold) q = s.holds.get q + 0
      rw [hr]
      show _ + holdsOf r.hold q = _
      rw [hn]; rfl)
    exact this

/-- A slot's record replaced by a new one at an opening, its hold broken (R148, R149). -/
theorem openRecord (k : s.TablesSound) (hm : s.mode = .running) (d : Dir) : (s.openRecord d).TablesSound := by
  unfold Site.openRecord
  dsimp only
  refine ((SameTables.refl _).setPassage _).sound ?_
  have hacc : ∀ (t : Site) (r : TrainRecord), t.SameTables (t.accountReclaim r) := fun t r =>
    (SameTables.ite (SameTables.refl t) (((SameTables.refl t).setCounts _).raise _)).setCounts _
  generalize s.chooseSlot = i
  unfold Site.reclaim
  split
  · next r hr =>
    have hrest : ∀ (t : Site) (v : HoldCounts), t.TablesSound → (∀ q, v.get q + holdsOf ((t.recordAt i).bind TrainRecord.hold) q =
        t.holds.get q) → t.mode = .running → ∀ u : Site, (t.setHolds v).SameTables u → u.train = t.train →
        (u.putRecord i (some (s.newRecord d))).TablesSound := by
      intro t v kt hv hmt u hu htr
      have := kt.putRecordHold hmt i (some (s.newRecord d)) v (fun q => by rw [hv q]; rfl)
      refine SameTables.sound (s := (t.putRecord i (some (s.newRecord d))).setHolds v)
        ⟨hu.mode, fun j => hu.entry j, fun q => hu.entriesHeld q, hu.holds, fun q => ?_⟩ this
      show ((u.train.set i (some (s.newRecord d))).toList).countP _ = ((t.train.set i (some (s.newRecord d))).toList).countP _
      rw [htr]
    unfold Site.breakTrainHold
    split
    · next h hh =>
      refine hrest s (s.holds.dec h.port) k (fun q => by rw [hr]; exact k.dec_add hr hh q) hm _ ?_ ?_
      · exact ((SameTables.refl _).raise _).trans (hacc _ r)
      · unfold Site.accountReclaim; dsimp only; split <;> rfl
    · next hh =>
      refine hrest s s.holds k (fun q => by rw [hr]; show _ + holdsOf r.hold q = _; rw [hh]; rfl) hm _ ?_ ?_
      · exact hacc s r
      · unfold Site.accountReclaim; dsimp only; split <;> rfl
  · next hr =>
    have := k.putRecordHold hm i (some (s.newRecord d)) s.holds (fun q => by rw [hr]; rfl)
    exact this

theorem openPassage (k : s.TablesSound) (hm : s.mode = .running) (d : Dir) (b : Bool) : (s.openPassage d b).TablesSound := by
  unfold Site.openPassage
  dsimp only
  exact ((((((SameTables.refl _).setRoster _).addRecordCauseIf _ _).updatePassage _).suspendSweep)).sound (k.openRecord hm d)

theorem takeCrossing (k : s.TablesSound) (hm : s.mode = .running) (p : PointId) (d : Dir) (i : Option Nat) :
    (s.takeCrossing p d i).1.TablesSound := by
  unfold Site.takeCrossing
  dsimp only
  refine ((SameTables.refl _).takeGateCrossing p d i).sound ?_
  split
  · exact ((SameTables.refl _).takeOpenCrossing _).sound k
  · split
    · exact ((SameTables.refl _).takeApproach _ _).sound k
    · split
      · exact k
      · unfold Site.takeFirstGate
        split
        · exact ((SameTables.refl _).holdOpening _).sound k
        · split
          · have e : s.SameTables (((s.headFor d).callModules d).addPending .unannounced) :=
              (((SameTables.refl s).updatePassage _).callModules _).addPending _
            exact (e.sound k).openPassage (e.mode.trans hm) _ _
          · have e := (SameTables.refl s).fromArming d
            exact (e.sound k).openPassage (e.mode.trans hm) _ _

theorem takeAndCount (k : s.TablesSound) (hm : s.mode = .running) (p : PointId) (d : Dir) (i : Option Nat) :
    (s.takeAndCount p d i).TablesSound := by
  have c := ((SameTables.refl _).countCrossing p d (s.takeCrossing p d i).2).sound (k.takeCrossing hm p d i)
  unfold Site.takeAndCount
  dsimp only
  split
  · exact (SameTables.refl _).testClearing.sound c
  · exact c

theorem headChange (k : s.TablesSound) (h : HeadId) (v : Level) : (s.headChange h v).TablesSound := by
  have e1 := (SameTables.refl s).setPins (s.pins.put h v)
  unfold Site.headChange
  dsimp only
  split
  · next hm =>
    have k1 := e1.sound k
    have hm1 : (s.setPins (s.pins.put h v)).mode = .running := hm.1
    generalize s.setPins (s.pins.put h v) = t at k1 hm1
    unfold Site.takeHeadChange
    dsimp only
    split
    · exact ((SameTables.refl _).putPoint _ _).sound k1
    · have e2 := (SameTables.refl t).putPoint h.point
        (t.crossStep h ((t.point h.point).putHead h.no (((t.point h.point).head h.no).change v t.now)) v).point
      split
      · unfold Site.handOn Site.recordCrossing Site.countSpurious
        dsimp only
        split
        · exact ((e2.putPoint _ _).putPoint _ _).sound k1
        · exact takeAndCount ((e2.putPoint _ _).sound k1) ((e2.putPoint _ _).mode.trans hm1) _ _ _
      · exact e2.sound k1
  · exact e1.sound k

theorem effectHeld (k : s.TablesSound) (hm : s.mode = .running) : s.effectHeld.TablesSound := by
  unfold Site.effectHeld
  split
  · have e := (SameTables.refl s).updatePassage (fun p => { p with held := false })
    have k1 := (e.sound k).openPassage (e.mode.trans hm) ‹Dir› true
    dsimp only
    refine (SameTables.ite (SameTables.updatePassage ?_ _) (SameTables.testClearing ?_)).sound k1
    · exact (SameTables.refl _).fillRoster _
    · exact (SameTables.refl _).fillRoster _
  · exact ((SameTables.refl s).updatePassage _).sound k

theorem composeEnd (k : s.TablesSound) (hm : s.mode = .running) : s.composeEnd.TablesSound := by
  unfold Site.composeEnd Site.composeStep
  split
  · split
    · dsimp only
      split
      · exact k
      · have e := (SameTables.refl s).closeComposition
        split
        · exact (e.sound k).effectHeld (e.mode.trans hm)
        · exact e.resumeSweep.sound k
    · exact k
  · exact k

/-! ### Requests of the tables -/

theorem withRecord (k : s.TablesSound) (n : Serial) (f : Fin 4 → TrainRecord → Handled)
    (hf : ∀ i r, s.recordAt i = some r → (f i r).site.TablesSound) : (s.withRecord n f).site.TablesSound := by
  unfold Site.withRecord
  repeat' split
  · exact hf _ _ ‹_›
  · exact k
  · exact k

/-- A record replaced by one with the same hold. -/
theorem putRecordSame (k : s.TablesSound) (hm : s.mode = .running) (i : Fin 4) (r q : TrainRecord) (hr : s.recordAt i = some r)
    (h : q.hold = r.hold) : (s.putRecord i (some q)).TablesSound :=
  k.putRecordHold hm i (some q) s.holds (fun p => by
    rw [hr]; show _ + holdsOf r.hold p = _ + holdsOf q.hold p; rw [h])

theorem trainRead (k : s.TablesSound) (hm : s.mode = .running) (body : List Byte) : (s.trainRead body).site.TablesSound := by
  unfold Site.trainRead
  dsimp only
  split
  · exact k
  · split
    · exact k
    · refine k.withRecord _ _ (fun i r hr => ?_)
      split
      · exact k
      · unfold Site.readPart
        split
        · refine k.putRecordSame hm i r _ hr ?_
          unfold TrainRecord.markRead; split <;> rfl
        all_goals exact k

theorem trainHold (k : s.TablesSound) (hm : s.mode = .running) (p : Port) (body : List Byte) : (s.trainHold p body).site.TablesSound := by
  unfold Site.trainHold
  refine k.withRecord _ _ (fun i r hr => ?_)
  split
  · exact k
  · split
    · exact k
    · next ho =>
      split
      · next hb =>
        obtain ⟨h, hh, hp⟩ := heldBy_some hb
        exact k.putRecordHold hm i _ s.holds (fun q => by
          rw [hr]
          show _ + holdsOf r.hold q = _ + holdsOf (some (s.newHold p)) q
          rw [hh, holdsOf_some, holdsOf_some, hp]; rfl)
      · next hb =>
        split
        · exact k
        · have hn := hold_none (by simpa using hb) (by simpa using ho)
          exact k.putRecordHold hm i _ (s.holds.inc p) (fun q => by
            rw [hr]
            show _ + holdsOf r.hold q = _ + holdsOf (some (s.newHold p)) q
            rw [hn, holdsOf_some, HoldCounts.get_inc]; rfl)

theorem trainRelease (k : s.TablesSound) (hm : s.mode = .running) (p : Port) (body : List Byte) :
    (s.trainRelease p body).site.TablesSound := by
  unfold Site.trainRelease
  refine k.withRecord _ _ (fun i r hr => ?_)
  split
  · exact k
  · split
    · next hb =>
      obtain ⟨h, hh, hp⟩ := heldBy_some hb
      have := k.endTrainHold hm i r h hr hh
      rw [hp] at this
      exact this
    · exact k

theorem resolveFinding (k : s.TablesSound) (hm : s.mode = .running) (i : Fin 4) (r : TrainRecord) (v : Verdict) (f : Finding)
    (g : Grade) (hr : s.recordAt i = some r) : (s.resolveFinding i r v f g).site.TablesSound := by
  unfold Site.resolveFinding
  dsimp only
  have k1 := k.putRecordSame hm i r { r with verdict := some (v.resolve f.number g) } hr rfl
  have m1 : (s.putRecord i (some { r with verdict := some (v.resolve f.number g) })).mode = .running := hm
  generalize s.putRecord i (some { r with verdict := some (v.resolve f.number g) }) = t at k1 m1
  generalize (!(v.grade.atLeast .alarm) && (v.resolve f.number g).grade.atLeast .alarm) = b
  have e := (SameTables.refl t).raiseIf b .gradeAlarm
  generalize t.raiseIf b .gradeAlarm = u at e
  generalize v.keyOf f = x
  show (u.sendResolution x g).TablesSound
  unfold Site.sendResolution
  split
  · exact (e.sound k1).contribute (e.mode.trans m1) _
  · exact e.sound k1

theorem trainResolve (k : s.TablesSound) (hm : s.mode = .running) (p : Port) (body : List Byte) :
    (s.trainResolve p body).site.TablesSound := by
  unfold Site.trainResolve
  dsimp only
  split
  · exact k
  · split
    · exact k
    · refine k.withRecord _ _ (fun i r hr => ?_)
      split
      · exact k
      · split
        · exact k
        · unfold Site.resolveNumber
          repeat' split
          · exact k.resolveFinding hm i r _ _ _ hr
          all_goals exact k

theorem trainRetire (k : s.TablesSound) (hm : s.mode = .running) (p : Port) (body : List Byte) :
    (s.trainRetire p body).site.TablesSound := by
  unfold Site.trainRetire
  refine k.withRecord _ _ (fun i r hr => ?_)
  split
  · exact k
  · split
    · exact k
    · next ho => exact k.retireRecord hm i r p hr (by simpa using ho)

theorem tellBroken (k : s.TablesSound) (i : Fin 512) (p : Port) : (s.tellBroken i p).site.TablesSound :=
  k.putSameEntry i _ (by cases p <;> rfl)

theorem watchHold (k : s.TablesSound) (hm : s.mode = .running) (p : Port) (body : List Byte) : (s.watchHold p body).site.TablesSound := by
  unfold Site.watchHold
  split
  · unfold Site.holdSlot
    split
    · exact k.tellBroken _ _
    · split
      · exact k
      · next e he =>
        split
        · next h hh =>
          split
          · next hp => exact k.grantEntry hm _ e p he false (by funext q; rw [hh, holdsOf_some, hp]; rfl) (s.newHold p) rfl
          · exact k
        · next hh =>
          split
          · exact k
          · exact k.grantEntry hm _ e p he true (by funext q; rw [hh]; rfl) (s.newHold p) rfl
  · exact k

theorem watchRelease (k : s.TablesSound) (hm : s.mode = .running) (p : Port) (body : List Byte) :
    (s.watchRelease p body).site.TablesSound := by
  unfold Site.watchRelease
  split
  · unfold Site.releaseSlot
    split
    · exact k.tellBroken _ _
    · split
      · next e he =>
        split
        · exact k.releaseEntry hm _ e he
        · exact k
      · exact k
  · exact k

theorem withRevision (k : s.TablesSound) (p : Port) (i : Fin 512) (n : Word16) (f : WatchEntry → Handled)
    (hf : ∀ e, s.watchEntry i = some e → heldByOther e.hold p = false → (f e).site.TablesSound) :
    (s.withRevision p i n f).site.TablesSound := by
  unfold Site.withRevision
  split
  · exact k.tellBroken _ _
  · split
    · exact k
    · next e he =>
      split
      · exact k
      · next ho =>
        split
        · exact k
        · exact hf e he (by simpa using ho)

theorem watchAmend (k : s.TablesSound) (p : Port) (body : List Byte) : (s.watchAmend p body).site.TablesSound := by
  unfold Site.watchAmend
  split
  · next i a _ _ =>
    refine k.withRevision _ _ _ _ (fun e he _ => ?_)
    unfold Site.amendEntry
    split
    · exact k
    · split
      · exact k
      · have h : (e.amend a).revise.key = e.key ∧ (e.amend a).revise.hold = e.hold ∧ (e.amend a).revise.pending = e.pending := by
          unfold WatchEntry.amend WatchEntry.revise
          dsimp only
          split <;> exact ⟨rfl, rfl, rfl⟩
        exact ((SameTables.refl _).enqueue _).sound (k.putSame i e _ he h.1 h.2.1 (fun c x hc hx => k.keyed i e c x he (h.2.2 ▸ hc) hx))
  · exact k

theorem watchRetire (k : s.TablesSound) (p : Port) (body : List Byte) : (s.watchRetire p body).site.TablesSound := by
  unfold Site.watchRetire
  split
  · next i _ =>
    refine k.withRevision _ _ _ _ (fun e he _ => ?_)
    have k1 := ((SameTables.refl s).setCounts
      { s.counts with contributionsDiscarded := bumpBy e.pending.length s.counts.contributionsDiscarded }).sound k
    obtain ⟨a, b, _, _⟩ := k1.endHold i
    exact a.freeSlot i b
  · exact k

theorem watchEnrol (k : s.TablesSound) (body : List Byte) : (s.watchEnrol body).site.TablesSound := by
  unfold Site.watchEnrol
  dsimp only
  split
  · split
    · exact k
    · unfold Site.enrol
      split
      · exact k
      · next hk =>
        split
        · next i hi =>
          exact ((SameTables.refl _).enqueue _).sound (k.putNew i _ (lowestFree_free hi) rfl rfl hk)
        · exact k
  · exact k

/-! ### Store and loading -/

theorem stampSlot (k : s.TablesSound) (w : Write) : (s.stampSlot w).TablesSound := by
  unfold Site.stampSlot
  split
  · exact k.putSameEntry _ _ rfl
  · exact k
  · exact k

theorem writeSucceeds (k : s.TablesSound) (w : Write) : (s.writeSucceeds w).TablesSound := by
  have k1 := (((SameTables.refl s).setStore { s.store with inFlight := none, waiting := s.store.waiting.map (fun v => v.pass w.item) }).sound k).stampSlot w
  exact (SameTables.ite (((SameTables.refl _).setStore _).enqueue _) ((SameTables.refl _).setStore _)).sound k1

theorem writeFails (h : s.TablesSound) (w : Write) : (s.writeFails w).TablesSound := by
  have e : s.SameTables (s.writeFails w) := ((((SameTables.refl s).setStore _).enqueue _).setStore _).raise _
  exact e.sound h

/-- In LOADING no entry has a holder (R165, R226). -/
theorem loading_free (k : s.TablesSound) (hm : s.mode = .loading) (i : Fin 512) (e : WatchEntry) (he : s.watchEntry i = some e) :
    e.hold = none := by
  cases h : e.hold with
  | none => rfl
  | some x =>
    have h1 := s.entriesHeld_put i { s.watchSlot i with entry := none } x.port
    rw [he] at h1
    have h1 : _ + holdsOf e.hold x.port = s.entriesHeld x.port + 0 := h1
    rw [h, holdsOf_some, if_pos rfl] at h1
    have h2 := k.counted x.port
    rw [k.loading hm] at h2
    omega

theorem loadSlot (k : s.TablesSound) (hm : s.mode = .loading) (i : Fin 512) (m : Image SlotContents) : (s.loadSlot i m).TablesSound := by
  have hl : (s.loseSlot i).TablesSound := by
    have e : s.SameTables (s.loseSlot i) := (((SameTables.refl s).enqueue _).setStore _).raise _
    exact e.sound k
  have hold : (s.watchEntry i).bind WatchEntry.hold = none := by
    cases e : s.watchEntry i with
    | none => rfl
    | some f => exact k.loading_free hm i f e
  unfold Site.loadSlot
  split
  · exact k
  · exact hl
  · refine ((SameTables.refl _).setStore _).sound (k.putSlot i _ ?_ (fun _ _ _ h => absurd h (by simp)) (fun a => ?_))
    · rw [hold]; rfl
    · rw [hm] at a; exact absurd a (by decide)
  · split
    · refine ((SameTables.refl _).setStore _).sound (k.putSlot i _ ?_ (fun f c x hf hc => ?_) (fun a => ?_))
      · rw [hold]; rfl
      · rw [← Option.some.inj hf] at hc
        exact absurd hc (by simp [WatchEntry.asLoaded])
      · rw [hm] at a; exact absurd a (by decide)
    · exact hl

theorem takeSlotImage (k : s.TablesSound) (m : Image SlotContents) : (s.takeSlotImage m).TablesSound := by
  unfold Site.takeSlotImage
  split
  · split
    · split
      · next hm => exact ((SameTables.refl _).setStore _).sound (k.loadSlot hm _ _)
      · exact k
    · exact k
  · exact k
  · exact k

/-- After the duplicates are freed no two entries have one key (R165, R226). -/
theorem freeDuplicates (k : s.TablesSound) (hm : s.mode = .loading) :
    s.freeDuplicates.TablesSound ∧ s.freeDuplicates.mode = .loading ∧
      ∀ i j e f, s.freeDuplicates.watchEntry i = some e → s.freeDuplicates.watchEntry j = some f → e.key = f.key → i = j := by
  have hfree : ∀ (t : Site) (i j : Fin 512), (t.freeSlot i).watchEntry j = if j = i then none else t.watchEntry j :=
    fun t i j => Keeps.watchEntry_put t i j _
  have hall : ∀ (l : List (Fin 512)) (t : Site), t.TablesSound → t.mode = .loading →
      (l.foldl Site.freeSlot t).TablesSound ∧ (l.foldl Site.freeSlot t).mode = .loading ∧
        ∀ j, (l.foldl Site.freeSlot t).watchEntry j = if j ∈ l then none else t.watchEntry j := by
    intro l
    induction l with
    | nil => intro t h1 h2; exact ⟨h1, h2, fun j => by simp⟩
    | cons a l ih =>
      intro t h1 h2
      obtain ⟨b1, b2, b3⟩ := ih (t.freeSlot a) (h1.freeSlot a (h1.loading_free h2 a)) h2
      refine ⟨b1, b2, fun j => ?_⟩
      rw [List.foldl_cons, b3, hfree]
      by_cases e1 : j ∈ l
      · simp [e1]
      · by_cases e2 : j = a
        · simp [e2]
        · simp [e1, e2]
  obtain ⟨h1, h2, h3⟩ := hall (watchIds.filter s.duplicate) s k hm
  refine ⟨h1, h2, fun i j e f hi hj hk => ?_⟩
  have hi : (List.foldl Site.freeSlot s (watchIds.filter s.duplicate)).watchEntry i = some e := hi
  have hj : (List.foldl Site.freeSlot s (watchIds.filter s.duplicate)).watchEntry j = some f := hj
  rw [h3] at hi hj
  split at hi
  · exact absurd hi (by simp)
  · next ni =>
    split at hj
    · exact absurd hj (by simp)
    · next nj =>
      by_contra hne
      have d1 : ¬ s.duplicate i = true := fun h => ni (by simp [watchIds, h])
      have d2 : ¬ s.duplicate j = true := fun h => nj (by simp [watchIds, h])
      have b1 : s.beatenBy i e j = false := by
        cases h : s.beatenBy i e j with
        | false => rfl
        | true =>
          refine absurd ?_ d1
          unfold Site.duplicate
          rw [hi]
          exact List.any_eq_true.mpr ⟨j, by simp [watchIds], h⟩
      have b2 : s.beatenBy j f i = false := by
        cases h : s.beatenBy j f i with
        | false => rfl
        | true =>
          refine absurd ?_ d2
          unfold Site.duplicate
          rw [hj]
          exact List.any_eq_true.mpr ⟨i, by simp [watchIds], h⟩
      unfold Site.beatenBy at b1 b2
      rw [hj] at b1
      rw [hi] at b2
      simp only [Option.any_some, hk, BEq.rfl, Bool.true_and, Bool.or_eq_false_iff, decide_eq_false_iff_not, Bool.and_eq_false_iff,
        beq_eq_false_iff_ne] at b1 b2
      have hst : (s.watchSlot i).stamp = (s.watchSlot j).stamp := BitVec.eq_of_toNat_eq (by omega)
      have hv : i.val ≠ j.val := fun h => hne (Fin.ext h)
      rcases b1.2 with c | c
      · exact c hst
      · rcases b2.2 with c' | c'
        · exact c' hst.symm
        · omega

theorem endLoading (k : s.TablesSound) : s.endLoading.TablesSound := by
  unfold Site.endLoading
  split
  · next h =>
    obtain ⟨h1, _, h3⟩ := k.freeDuplicates h.1
    dsimp only
    generalize s.freeDuplicates = t at h1 h3
    exact ⟨h1.counted, fun a => absurd a (by show ¬ (SiteMode.running = .loading); decide), h1.keyed, fun _ => h3⟩
  · exact k

theorem hold (k : s.TablesSound) : s.hold.TablesSound :=
  ⟨k.counted, fun a => absurd a (by show ¬ (SiteMode.held = .loading); decide), k.keyed,
    fun a => absurd a (by show ¬ (SiteMode.held = .running); decide)⟩

/-! ### Cold start and site reset -/

theorem coldStart (pins : HeadLines) (n : Nat) : (Site.coldStart pins n).TablesSound := by
  have he : ∀ i, (Site.coldStart pins n).watchEntry i = none := fun i => by
    show ((Vector.replicate 512 WatchSlot.coldStart : Vector WatchSlot 512)[i]).entry = none
    rw [Fin.getElem_fin, Vector.getElem_replicate]; rfl
  refine ⟨fun p => ?_, fun _ p => by cases p <;> rfl, fun i e c x h => by rw [he] at h; exact absurd h (by simp),
    fun a => absurd a (by show ¬ (SiteMode.loading = .running); decide)⟩
  have h1 : (Site.coldStart pins n).recordsHeld p = 0 := by
    show ((Vector.replicate 4 none : Vector (Option TrainRecord) 4).toList).countP _ = 0
    rw [Vector.toList_replicate, List.countP_replicate]; rfl
  have h2 : (Site.coldStart pins n).entriesHeld p = 0 := by
    show ((Vector.replicate 512 WatchSlot.coldStart : Vector WatchSlot 512).toList).countP _ = 0
    rw [Vector.toList_replicate, List.countP_replicate]; rfl
  rw [h1, h2]
  cases p <;> rfl

/-- A site reset of a running site: every hold ended, then the pending contributions applied (R179, R210). -/
theorem siteReset (k : s.TablesSound) (hm : s.mode = .running) : s.siteReset.TablesSound := by
  unfold Site.siteReset
  have e0 : ∀ t : Site, t.SameTables t.resetIndications := fun t => by
    unfold Site.resetIndications
    exact (((SameTables.refl t).setFlags _).setEnables _).clearCounters.raiseIf _ _
  refine (e0 _).sound ?_
  have e1 : (s.resetPassage.stopComposition.resetTrain.resetRoster.resetPoints).watch = s.watch := rfl
  have e2 : (s.resetPassage.stopComposition.resetTrain.resetRoster.resetPoints).mode = s.mode := rfl
  have e3 : (s.resetPassage.stopComposition.resetTrain.resetRoster.resetPoints).train = Vector.replicate 4 none := rfl
  generalize s.resetPassage.stopComposition.resetTrain.resetRoster.resetPoints = t at e1 e2 e3
  unfold Site.resetWatch
  dsimp only
  have hent : ∀ i, ((t.setWatch { t.watch with
      slots := tableMap WatchSlot.atReset t.watch.slots, sweepState := .idle, cursor := 0, startPending := false }).setHolds
        { link := 0, service := 0 }).watchEntry i = (s.watchEntry i).map (fun e => { e with hold := none, pending := [] }) := by
    intro i
    show ((tableMap WatchSlot.atReset t.watch.slots)[i]).entry = _
    rw [tableMap_getElem, e1]
    rfl
  have hrec : ∀ p, ((t.setWatch { t.watch with
      slots := tableMap WatchSlot.atReset t.watch.slots, sweepState := .idle, cursor := 0, startPending := false }).setHolds
        { link := 0, service := 0 }).recordsHeld p = 0 := by
    intro p
    show t.train.toList.countP _ = 0
    rw [e3, Vector.toList_replicate, List.countP_replicate]; rfl
  have hheld : ∀ p, ((t.setWatch { t.watch with
      slots := tableMap WatchSlot.atReset t.watch.slots, sweepState := .idle, cursor := 0, startPending := false }).setHolds
        { link := 0, service := 0 }).entriesHeld p = 0 := by
    intro p
    show (t.watch.slots.toList.map WatchSlot.atReset).countP _ = 0
    rw [List.countP_map, List.countP_eq_zero]
    intro w _
    simp only [Function.comp, WatchSlot.atReset]
    cases w.entry <;> simp [heldBy]
  have hmode : ((t.setWatch { t.watch with
      slots := tableMap WatchSlot.atReset t.watch.slots, sweepState := .idle, cursor := 0, startPending := false }).setHolds
        { link := 0, service := 0 }).mode = .running := e2.trans hm
  have hholds : ((t.setWatch { t.watch with
      slots := tableMap WatchSlot.atReset t.watch.slots, sweepState := .idle, cursor := 0, startPending := false }).setHolds
        { link := 0, service := 0 }).holds = { link := 0, service := 0 } := rfl
  generalize (t.setWatch { t.watch with
      slots := tableMap WatchSlot.atReset t.watch.slots, sweepState := .idle, cursor := 0, startPending := false }).setHolds
        { link := 0, service := 0 } = u at hent hrec hheld hmode hholds
  have hu : u.TablesSound := by
    refine ⟨fun p => by rw [hrec, hheld, hholds]; cases p <;> rfl, fun a => absurd (hmode.symm.trans a) (by decide),
      fun i e c x he hc => ?_, fun _ i j e f he hf hk => ?_⟩
    · rw [hent] at he
      obtain ⟨g, _, hg⟩ := Option.map_eq_some_iff.mp he
      rw [← hg] at hc
      exact absurd hc (by simp)
    · rw [hent] at he hf
      obtain ⟨g, hg1, hg2⟩ := Option.map_eq_some_iff.mp he
      obtain ⟨h, hh1, hh2⟩ := Option.map_eq_some_iff.mp hf
      exact k.keys hm i j g h hg1 hh1 (by rw [← hg2, ← hh2] at hk; exact hk)
  have hno : ∀ x, u.KeyFree x := by
    intro x i e he _
    rw [hent] at he
    obtain ⟨g, _, hg⟩ := Option.map_eq_some_iff.mp he
    rw [← hg]
  have hloop : ∀ (l : List (Fin 512)) (v : Site), v.TablesSound → (∀ x, v.KeyFree x) →
      (l.foldl (fun w i => (Site.applyPending i (t.watch.slots[i].pendings) true w).1) v).TablesSound := by
    intro l
    induction l with
    | nil => intro v h1 _; exact h1
    | cons a l ih =>
      intro v h1 h2
      have h := applyPending_applies a (t.watch.slots[a].pendings) true v (fun _ _ x _ => h2 x) (fun _ e he => h2 e.key a e he rfl)
      exact ih _ (h.sound h1) (fun x => h.free x (h2 x))
  exact hloop watchIds u hu hno

end TablesSound

end Site

end Sys2Proof
end

