-- ==== Sys2Proof/Laws/Whole.lean ====
section
/-! SUPPORT. Every command and every step keeps the invariants of the passage, the records, the roster, the module places, the keys
and the holds. -/

namespace Sys2Proof

/-- The invariants of the tables, the passage and what goes with it, together. -/
structure Site.Whole (s : Site) : Prop where
  passage : s.PassageSound
  tables : s.TablesSound

namespace Site.Whole

variable {s t : Site}

/-- An operation that changes nothing these invariants read. -/
theorem of_same (k : s.Whole) (h : s.SamePassage t) (g : s.SameTables t) : t.Whole := ⟨k.passage.of_same h, g.sound k.tables⟩

/-- An event of a running site. -/
theorem whenRunning (k : s.Whole) (f : Site → Site) (h : s.mode = .running → (f s).Whole) : (s.whenRunning f).Whole := by
  unfold Site.whenRunning
  split
  · next hm => exact h hm
  · exact k

/-! ### Requests that read or write no table -/

theorem identify (k : s.Whole) (b) : (s.identify b).site.Whole := by
  unfold Site.identify
  repeat' split
  all_goals exact k

theorem flagsClear (k : s.Whole) (b) : (s.flagsClear b).site.Whole := by
  unfold Site.flagsClear
  split
  · exact k.of_same ((SamePassage.refl s).clearFlags _) ((SameTables.refl s).clearFlags _)
  · exact k

theorem enablesSet (k : s.Whole) (b) : (s.enablesSet b).site.Whole := by
  unfold Site.enablesSet
  split
  · exact k.of_same ((SamePassage.refl s).setEnables _) ((SameTables.refl s).setEnables _)
  · exact k

theorem headRestore (k : s.Whole) (b) : (s.headRestore b).site.Whole := by
  unfold Site.headRestore Site.restoreHead
  dsimp only
  repeat' split
  all_goals first | exact k | exact k.of_same ((SamePassage.refl s).changeHealth _ _) ((SameTables.refl s).changeHealth _ _)

theorem rosterRead (k : s.Whole) (b) : (s.rosterRead b).site.Whole := by
  unfold Site.rosterRead
  dsimp only
  repeat' split
  all_goals exact k

theorem vehicleRead (k : s.Whole) (b) : (s.vehicleRead b).site.Whole := by
  unfold Site.vehicleRead
  dsimp only
  repeat' split
  all_goals exact k

theorem criterionRead (k : s.Whole) (b) : (s.criterionRead b).site.Whole := by
  unfold Site.criterionRead
  split <;> exact k

theorem criterionWrite (k : s.Whole) (b) : (s.criterionWrite b).site.Whole := by
  unfold Site.criterionWrite
  repeat' split
  all_goals first | exact k | exact k.of_same ((SamePassage.refl s).setSettings _) ((SameTables.refl s).setSettings _)

theorem watchFind (k : s.Whole) (b) : (s.watchFind b).site.Whole := by
  unfold Site.watchFind Site.findAll Site.findOne
  dsimp only
  repeat' split
  all_goals exact k

theorem watchScan (k : s.Whole) (b) : (s.watchScan b).site.Whole := by
  unfold Site.watchScan
  dsimp only
  repeat' split
  all_goals exact k

theorem sweepNow (k : s.Whole) : s.sweepNow.site.Whole := by
  unfold Site.sweepNow
  split
  · exact k
  · exact k.of_same (SamePassage.refl s).takeSweepStart (SameTables.refl s).takeSweepStart

theorem clockSet (k : s.Whole) (b) : (s.clockSet b).site.Whole := by
  unfold Site.clockSet
  dsimp only
  split
  · exact k.of_same ((SamePassage.refl s).setReading _).noteClockChange ((SameTables.refl s).setClock _).noteClockChange
  · exact k

theorem settingRead (k : s.Whole) (b) : (s.settingRead b).site.Whole := by
  unfold Site.settingRead
  split <;> exact k

theorem settingWrite (k : s.Whole) (b) : (s.settingWrite b).site.Whole := by
  unfold Site.settingWrite
  dsimp only
  repeat' split
  all_goals first | exact k | exact k.of_same (((SamePassage.refl s).setSettings _).rescale _) (((SameTables.refl s).setSettings _).rescale _)

/-! ### Train and watch requests -/

theorem withRecord (k : s.Whole) (n : Serial) (f : Fin 4 → TrainRecord → Handled)
    (hf : ∀ i r, s.recordAt i = some r → (f i r).site.PassageSound) : (s.withRecord n f).site.PassageSound := by
  unfold Site.withRecord
  repeat' split
  · next hr => exact hf _ _ hr
  all_goals exact k.passage

theorem trainRead (k : s.Whole) (hm : s.mode = .running) (b) : (s.trainRead b).site.Whole := by
  refine ⟨?_, k.tables.trainRead hm b⟩
  unfold Site.trainRead
  dsimp only
  repeat' split
  all_goals try exact k.passage
  refine k.withRecord _ _ (fun i r hr => ?_)
  split
  · exact k.passage
  · unfold Site.readPart
    split
    · exact k.passage.of_same ((SamePassage.refl s).putRecord i r _ hr (by unfold TrainRecord.markRead; split <;> rfl)
        (by unfold TrainRecord.markRead; split <;> exact fun _ h => Or.inl h))
    all_goals exact k.passage

theorem trainHold (k : s.Whole) (hm : s.mode = .running) (p b) : (s.trainHold p b).site.Whole := by
  refine ⟨?_, k.tables.trainHold hm p b⟩
  refine k.withRecord _ _ (fun i r hr => ?_)
  repeat' split
  all_goals first
    | exact k.passage
    | exact k.passage.of_same ((SamePassage.refl s).putRecord i r _ hr rfl (fun _ h => Or.inl h))
    | exact k.passage.of_same (((SamePassage.refl s).gainHold p).putRecord i r _ hr rfl (fun _ h => Or.inl h))

theorem trainRelease (k : s.Whole) (hm : s.mode = .running) (p b) : (s.trainRelease p b).site.Whole := by
  refine ⟨?_, k.tables.trainRelease hm p b⟩
  refine k.withRecord _ _ (fun i r hr => ?_)
  repeat' split
  all_goals first | exact k.passage | exact k.passage.of_same ((SamePassage.refl s).endTrainHold i r p hr)

theorem trainResolve (k : s.Whole) (hm : s.mode = .running) (p b) : (s.trainResolve p b).site.Whole := by
  refine ⟨?_, k.tables.trainResolve hm p b⟩
  unfold Site.trainResolve
  dsimp only
  repeat' split
  all_goals try exact k.passage
  refine k.withRecord _ _ (fun i r hr => ?_)
  unfold Site.resolveNumber
  repeat' split
  all_goals first | exact k.passage | exact k.passage.resolveFinding i r _ _ _ hr

theorem trainRetire (k : s.Whole) (hm : s.mode = .running) (p b) : (s.trainRetire p b).site.Whole := by
  refine ⟨?_, k.tables.trainRetire hm p b⟩
  refine k.withRecord _ _ (fun i r hr => ?_)
  split
  · exact k.passage
  · next hp =>
    split
    · exact k.passage
    · exact k.passage.retireRecord i r p hr (Decidable.not_not.mp hp)

theorem watchEnrol (k : s.Whole) (b) : (s.watchEnrol b).site.Whole := by
  refine ⟨?_, k.tables.watchEnrol b⟩
  unfold Site.watchEnrol Site.enrol
  dsimp only
  repeat' split
  all_goals first | exact k.passage | exact k.passage.of_same (((SamePassage.refl s).putEntry _ _).enqueue _)

theorem withRevision (k : s.Whole) (p : Port) (i : Fin 512) (n : Word16) (f : WatchEntry → Handled)
    (hf : ∀ e, (f e).site.PassageSound) : (s.withRevision p i n f).site.PassageSound := by
  unfold Site.withRevision
  repeat' split
  all_goals first | exact k.passage | exact hf _ | exact k.passage.of_same ((SamePassage.refl s).putWatchSlot _ _)

theorem watchAmend (k : s.Whole) (p b) : (s.watchAmend p b).site.Whole := by
  refine ⟨?_, k.tables.watchAmend p b⟩
  unfold Site.watchAmend
  split
  · refine withRevision k _ _ _ _ (fun e => ?_)
    unfold Site.amendEntry
    repeat' split
    all_goals first | exact k.passage | exact k.passage.of_same (((SamePassage.refl s).putEntry _ _).enqueue _)
  · exact k.passage

theorem watchRetire (k : s.Whole) (p b) : (s.watchRetire p b).site.Whole := by
  refine ⟨?_, k.tables.watchRetire p b⟩
  unfold Site.watchRetire
  split
  · refine withRevision k _ _ _ _ (fun e => ?_)
    exact k.passage.of_same ((((SamePassage.refl s).setCounts _).endHold _).freeSlot _)
  · exact k.passage

theorem watchHold (k : s.Whole) (hm : s.mode = .running) (p b) : (s.watchHold p b).site.Whole := by
  refine ⟨?_, k.tables.watchHold hm p b⟩
  unfold Site.watchHold Site.holdSlot
  repeat' split
  all_goals first
    | exact k.passage
    | exact k.passage.of_same ((SamePassage.refl s).putWatchSlot _ _)
    | exact k.passage.of_same (((SamePassage.refl s).gainHold p).putEntry _ _)

theorem watchRelease (k : s.Whole) (hm : s.mode = .running) (p b) : (s.watchRelease p b).site.Whole := by
  refine ⟨?_, k.tables.watchRelease hm p b⟩
  unfold Site.watchRelease Site.releaseSlot
  repeat' split
  all_goals first
    | exact k.passage
    | exact k.passage.of_same ((SamePassage.refl s).putWatchSlot _ _)
    | exact k.passage.of_same ((SamePassage.refl s).releaseEntry _ _)

end Site.Whole

namespace Machine

/-- An outcome that, when it is a next state, keeps the invariants of the site. -/
def Safe (s : State) (o : Host.Outcome State Fault Refusal) : Prop := ∀ t, o = .next t → s.site.Whole → t.site.Whole

namespace Safe

variable {s : State}

theorem next {t : State} (h : s.site.Whole → t.site.Whole) : Safe s (.next t) := fun u hu => by
  simp only [Host.Outcome.next.injEq] at hu
  exact hu ▸ h

theorem fault {r : Fault} : Safe s (.fault r) := fun _ hu => by simp at hu

theorem onSite {f : Site → Site} (h : s.site.Whole → (f s.site).Whole) : Safe s (Machine.onSite f s) := next h

theorem onRunning {f : Site → Site} (h : s.site.Whole → s.site.mode = .running → (f s.site).Whole) :
    Safe s (Machine.onSite (fun t => t.whenRunning f) s) := next (fun k => k.whenRunning f (h k))

theorem onWellFormed {wf : Bool} {f : Site → Site} (h : s.site.Whole → (f s.site).Whole) :
    Safe s (Machine.onWellFormed wf (fun s => s.setSite (f s.site)) s) := by
  unfold Machine.onWellFormed
  split
  · exact next h
  · exact fault

theorem setCounts (s : Site) (v : Counts) (k : s.Whole) : (s.setCounts v).Whole :=
  k.of_same ((Site.SamePassage.refl s).setCounts v) ((Site.SameTables.refl s).setCounts v)

theorem takeFrame (p : Port) (tag kind : Byte) (take : Site → Handled) (k : s.site.Whole)
    (h : s.site.mode ≠ .held → (take s.site).site.Whole) : (s.takeFrame p tag kind take).site.Whole := by
  unfold State.takeFrame
  split
  · exact k
  · next hm =>
    dsimp only
    split
    · unfold State.dropAnswer
      rw [State.setSite_site, State.receive_site]
      exact setCounts _ _ k
    · split
      · simpa using k
      · simpa using h hm

/-- A request's command, from what its owner does to a site that it passes. -/
theorem request {k : RequestKind} {p : Port} {tag : Byte} {body : List Byte} {owner : Site → Handled}
    (h : s.site.Whole → (k.anyState = false → s.site.mode = .running) → (owner s.site).site.Whole) :
    Safe s (Machine.request k p tag body owner s) := by
  unfold Machine.request
  split
  · refine next (fun w => takeFrame p _ _ _ w (fun hm => ?_))
    unfold checked
    split
    · exact w
    · next hc =>
      refine h w (fun hk => ?_)
      rcases ((Site.portCheck_eq_none _ _ _ _ hm).1 hc).1 with e | ⟨_, e⟩
      · exact e
      · rw [← RequestKind.anyState_iff, hk] at e; exact absurd e (by decide)
  · exact fault

theorem write (b : Bool) : Safe s (.next (s.endWrite b)) := by
  refine next (fun k => ?_)
  have hend : ∀ (t : State) (w : WaitingSave) (r : Reply), t.site.Whole → (t.endSave w r).site.Whole := fun t w r h => by
    have e : (t.endSave w r).site = t.site.setStore t.site.endWaiting.store := by simp [State.endSave]; rfl
    rw [e]
    exact h.of_same ((Site.SamePassage.refl t.site).setStore _) ((Site.SameTables.refl t.site).setStore _)
  unfold State.endWrite
  repeat' split
  all_goals try exact k
  · next w hw _ _ =>
    have h1 : (s.site.writeSucceeds w).Whole := ⟨k.passage.of_same ((Site.SamePassage.refl _).writeSucceeds w), k.tables.writeSucceeds w⟩
    unfold State.writeDone
    dsimp only
    split
    · exact hend _ _ _ h1
    · exact h1
  · next w hw _ _ =>
    have h1 : (s.site.writeFails w).Whole := ⟨k.passage.of_same ((Site.SamePassage.refl _).writeFails w), k.tables.writeFails w⟩
    unfold State.writeLost State.failSave
    split
    · exact hend _ _ _ h1
    · exact h1

theorem discardFrame (p : Port) (r : Receiver) (k : s.site.Whole) : (s.discardFrame p r).site.Whole := by
  unfold State.discardFrame State.frameError
  split
  · exact k
  · simpa using setCounts _ _ k

theorem sent (p : Port) : Safe s (execAnswerSent p s) := by
  refine next (fun k => ?_)
  unfold State.answerSent
  split <;> simpa using k

theorem unknown {p : Port} {tag kind : Byte} {body : List Byte} : Safe s (execUnknownRequest p tag kind body s) := by
  unfold execUnknownRequest Machine.onWellFormed
  split
  · exact next (fun k => takeFrame p _ _ _ k (fun _ => k))
  · exact fault

theorem save {p : Port} {tag : Byte} {body : List Byte} : Safe s (execStoreSave p tag body s) := by
  refine request (fun k _ => ?_)
  unfold Site.storeSave
  split
  · exact k
  · exact k.of_same (((Site.SamePassage.refl _).enqueue _).setStore _) (((Site.SameTables.refl _).enqueue _).setStore _)

end Safe

/-- Every command keeps the invariants. -/
theorem exec_safe (s : State) (c : Instr) : Safe s (exec c s) := by
  have both : ∀ {t : Site}, s.site.SamePassage t → s.site.SameTables t → s.site.Whole → t.Whole := fun a b k => k.of_same a b
  cases c with
  | coldStart _ _ => exact Safe.next (fun _ => ⟨Site.PassageSound.coldStart _ _, Site.TablesSound.coldStart _ _⟩)
  | loadSettingsImage _ => simp only [exec, execLoadSettingsImage]; exact Safe.onSite (both ((Site.SamePassage.refl _).takeSettingsImage _) ((Site.SameTables.refl _).takeSettingsImage _))
  | loadSerialImage _ => simp only [exec, execLoadSerialImage]; exact Safe.onSite (both ((Site.SamePassage.refl _).takeSerialImage _) ((Site.SameTables.refl _).takeSerialImage _))
  | loadSlotImage _ => simp only [exec, execLoadSlotImage]; exact Safe.onSite (fun k => ⟨k.passage.of_same ((Site.SamePassage.refl _).takeSlotImage _), k.tables.takeSlotImage _⟩)
  | loadingEnd => simp only [exec, execLoadingEnd]; exact Safe.onSite (fun k => ⟨k.passage.of_same (Site.SamePassage.refl _).endLoading, k.tables.endLoading⟩)
  | headChange _ _ => simp only [exec, execHeadChange]; exact Safe.onSite (fun k => ⟨k.passage.headChange _ _, k.tables.headChange _ _⟩)
  | stuckTimerExpiry _ => simp only [exec, execStuckTimerExpiry]; exact Safe.onRunning (fun k _ => both ((Site.SamePassage.refl _).stuckExpiry _) ((Site.SameTables.refl _).stuckExpiry _) k)
  | quietTimerExpiry _ => simp only [exec, execQuietTimerExpiry]; exact Safe.onRunning (fun k _ => both ((Site.SamePassage.refl _).quietExpiry _) ((Site.SameTables.refl _).quietExpiry _) k)
  | armTimerExpiry => simp only [exec, execArmTimerExpiry]; exact Safe.onRunning (fun k _ => both ((Site.SamePassage.refl _).armTimerEvent) ((Site.SameTables.refl _).armTimerEvent) k)
  | standstillTimerExpiry => simp only [exec, execStandstillTimerExpiry]; exact Safe.onRunning (fun k _ => both ((Site.SamePassage.refl _).standstillEvent) ((Site.SameTables.refl _).standstillEvent) k)
  | composeDerive => simp only [exec, execComposeDerive]; exact Safe.onRunning (fun k _ => both ((Site.SamePassage.refl _).composeDerive) ((Site.SameTables.refl _).composeDerive) k)
  | composeTestCriteria => simp only [exec, execComposeTestCriteria]; exact Safe.onRunning (fun k _ => both ((Site.SamePassage.refl _).composeTest) ((Site.SameTables.refl _).composeTest) k)
  | composeWatchedVehicles => simp only [exec, execComposeWatchedVehicles]; exact Safe.onRunning (fun k _ => both ((Site.SamePassage.refl _).composeWatched) ((Site.SameTables.refl _).composeWatched) k)
  | composeSelect => simp only [exec, execComposeSelect]; exact Safe.onRunning (fun k _ => both ((Site.SamePassage.refl _).composeSelect) ((Site.SameTables.refl _).composeSelect) k)
  | composeVerdict => simp only [exec, execComposeVerdict]; exact Safe.onRunning (fun k _ => both ((Site.SamePassage.refl _).composeVerdict) ((Site.SameTables.refl _).composeVerdict) k)
  | moduleByteGap _ _ => simp only [exec, execModuleByteGap]; exact Safe.onRunning (fun k _ => both ((Site.SamePassage.refl _).moduleGap _ _) ((Site.SameTables.refl _).updateLine _ _) k)
  | armTimeoutExpiry => simp only [exec, execArmTimeoutExpiry]; exact Safe.onRunning (fun k _ => ⟨k.passage.armTimeoutEvent, (Site.SameTables.refl _).armTimeoutEvent.sound k.tables⟩)
  | clearTimerExpiry => simp only [exec, execClearTimerExpiry]; exact Safe.onRunning (fun k _ => ⟨k.passage.clearEvent, (Site.SameTables.refl _).clearEvent.sound k.tables⟩)
  | passageLimitExpiry => simp only [exec, execPassageLimitExpiry]; exact Safe.onRunning (fun k _ => ⟨k.passage.limitEvent, (Site.SameTables.refl _).limitEvent.sound k.tables⟩)
  | moduleReady l f => exact Safe.onWellFormed (f := fun t => t.readyFrame l f) (both ((Site.SamePassage.refl _).readyFrame l f) ((Site.SameTables.refl _).readyFrame l f))
  | bayScannerReport l f => exact Safe.onWellFormed (f := fun t => t.reportFrame l f) (fun k => ⟨k.passage.reportFrame l f, ((Site.SameTables.refl _).reportFrame l f).sound k.tables⟩)
  | tagReport f => exact Safe.onWellFormed (f := fun t => t.tagFrame f) (both ((Site.SamePassage.refl _).tagFrame f) ((Site.SameTables.refl _).tagFrame f))
  | passageContribution => simp only [exec, execPassageContribution]; exact Safe.onRunning (fun k hm => ⟨k.passage.of_same (Site.SamePassage.refl _).sendContribution, k.tables.sendContribution hm⟩)
  | compositionEnd => simp only [exec, execCompositionEnd]; exact Safe.onRunning (fun k hm => ⟨k.passage.composeEnd, k.tables.composeEnd hm⟩)
  | trainLeaseExpiry _ => simp only [exec, execTrainLeaseExpiry]; exact Safe.onRunning (fun k hm => ⟨k.passage.of_same ((Site.SamePassage.refl _).trainLeaseExpiry _), k.tables.trainLeaseExpiry hm _⟩)
  | watchLeaseExpiry _ => simp only [exec, execWatchLeaseExpiry]; exact Safe.onRunning (fun k hm => ⟨k.passage.of_same ((Site.SamePassage.refl _).watchLeaseExpiry _), k.tables.watchLeaseExpiry hm _⟩)
  | sweepVisit => simp only [exec, execSweepVisit]; exact Safe.onRunning (fun k hm => ⟨k.passage.of_same ((Site.SamePassage.refl _).sweepVisit), k.tables.sweepVisit hm⟩)
  | clockSecond => simp only [exec, execClockSecond]; exact Safe.onSite (both (Site.SamePassage.refl _).clockSecond (Site.SameTables.refl _).clockSecond)
  | storeWriteStart => simp only [exec, execStoreWriteStart]; exact Safe.onSite (both (Site.SamePassage.refl _).startWrite (Site.SameTables.refl _).startWrite)
  | storeAckTimeout => exact Safe.write false
  | storeWriteEnd b => exact Safe.write b
  | portByteGap _ _ => exact Safe.next (Safe.discardFrame _ _)
  | requestFrameDiscard p w =>
    simp only [exec, execRequestFrameDiscard, Machine.onWellFormed]
    split
    · exact Safe.next (Safe.discardFrame _ _)
    · exact Safe.fault
  | answerSent p => exact Safe.sent p
  | unknownRequest _ _ _ _ => exact Safe.unknown
  | status _ _ _ => simp only [exec, execStatus]; exact Safe.request (fun k _ => k)
  | countersRead _ _ _ => simp only [exec, execCountersRead]; exact Safe.request (fun k _ => k)
  | pointStatus _ _ _ => simp only [exec, execPointStatus]; exact Safe.request (fun k _ => k)
  | moduleStatus _ _ _ => simp only [exec, execModuleStatus]; exact Safe.request (fun k _ => k)
  | trainList _ _ _ => simp only [exec, execTrainList]; exact Safe.request (fun k _ => k)
  | clockRead _ _ _ => simp only [exec, execClockRead]; exact Safe.request (fun k _ => k)
  | identify _ _ _ => simp only [exec, execIdentify]; exact Safe.request (fun k _ => k.identify _)
  | flagsClear _ _ _ => simp only [exec, execFlagsClear]; exact Safe.request (fun k _ => k.flagsClear _)
  | enablesSet _ _ _ => simp only [exec, execEnablesSet]; exact Safe.request (fun k _ => k.enablesSet _)
  | headRestore _ _ _ => simp only [exec, execHeadRestore]; exact Safe.request (fun k _ => k.headRestore _)
  | rosterRead _ _ _ => simp only [exec, execRosterRead]; exact Safe.request (fun k _ => k.rosterRead _)
  | vehicleRead _ _ _ => simp only [exec, execVehicleRead]; exact Safe.request (fun k _ => k.vehicleRead _)
  | criterionRead _ _ _ => simp only [exec, execCriterionRead]; exact Safe.request (fun k _ => k.criterionRead _)
  | criterionWrite _ _ _ => simp only [exec, execCriterionWrite]; exact Safe.request (fun k _ => k.criterionWrite _)
  | watchFind _ _ _ => simp only [exec, execWatchFind]; exact Safe.request (fun k _ => k.watchFind _)
  | watchScan _ _ _ => simp only [exec, execWatchScan]; exact Safe.request (fun k _ => k.watchScan _)
  | clockSet _ _ _ => simp only [exec, execClockSet]; exact Safe.request (fun k _ => k.clockSet _)
  | settingRead _ _ _ => simp only [exec, execSettingRead]; exact Safe.request (fun k _ => k.settingRead _)
  | settingWrite _ _ _ => simp only [exec, execSettingWrite]; exact Safe.request (fun k _ => k.settingWrite _)
  | watchEnrol _ _ _ => simp only [exec, execWatchEnrol]; exact Safe.request (fun k _ => k.watchEnrol _)
  | watchAmend _ _ _ => simp only [exec, execWatchAmend]; exact Safe.request (fun k _ => k.watchAmend _ _)
  | watchRetire _ _ _ => simp only [exec, execWatchRetire]; exact Safe.request (fun k _ => k.watchRetire _ _)
  | sweepNow _ _ _ => simp only [exec, execSweepNow]; exact Safe.request (fun k _ => k.sweepNow)
  | storeRetry _ _ _ => simp only [exec, execStoreRetry]; exact Safe.request (fun k _ => both (Site.SamePassage.refl _).retryStore (Site.SameTables.refl _).retryStore k)
  | countersClear _ _ _ => simp only [exec, execCountersClear]; exact Safe.request (fun k _ => both (Site.SamePassage.refl _).clearCounters (Site.SameTables.refl _).clearCounters k)
  | passageStatus _ _ _ => simp only [exec, execPassageStatus]; exact Safe.request (fun k _ => both ((Site.SamePassage.refl _).setFreeDraws _) ((Site.SameTables.refl _).setFreeDraws _) k)
  | siteReset _ _ _ =>
    simp only [exec, execSiteReset]
    refine Safe.request (fun k hm => ?_)
    have h : s.site.siteReset.Whole := ⟨Site.PassageSound.siteReset _, k.tables.siteReset (hm rfl)⟩
    generalize s.site.siteReset = u at h
    exact h
  | trainRead _ _ _ => simp only [exec, execTrainRead]; exact Safe.request (fun k hm => k.trainRead (hm rfl) _)
  | trainHold _ _ _ => simp only [exec, execTrainHold]; exact Safe.request (fun k hm => k.trainHold (hm rfl) _ _)
  | trainRelease _ _ _ => simp only [exec, execTrainRelease]; exact Safe.request (fun k hm => k.trainRelease (hm rfl) _ _)
  | trainResolve _ _ _ => simp only [exec, execTrainResolve]; exact Safe.request (fun k hm => k.trainResolve (hm rfl) _ _)
  | trainRetire _ _ _ => simp only [exec, execTrainRetire]; exact Safe.request (fun k hm => k.trainRetire (hm rfl) _ _)
  | watchHold _ _ _ => simp only [exec, execWatchHold]; exact Safe.request (fun k hm => k.watchHold (hm rfl) _ _)
  | watchRelease _ _ _ => simp only [exec, execWatchRelease]; exact Safe.request (fun k hm => k.watchRelease (hm rfl) _ _)
  | storeSave _ _ _ => exact Safe.save
  | rstnLowOrPowerLoss => simp only [exec, execRstnLowOrPowerLoss]; exact Safe.onSite (fun k => ⟨k.passage.of_same (Site.SamePassage.refl _).hold, k.tables.hold⟩)
  | moduleFrameDiscard l w =>
    exact Safe.onWellFormed (f := fun t => t.whenRunning (·.discardModuleFrame l w))
      (fun k => k.whenRunning _ (fun _ => both ((Site.SamePassage.refl _).discardModuleFrame l w) ((Site.SameTables.refl _).discardModuleFrame l w) k))

/-- A step keeps the invariants of the site. -/
theorem step_safe {s t : State} (h : step s = .next t) (k : s.site.Whole) : t.site.Whole := by
  unfold step at h
  split at h
  · exact Safe.onSite (s := s) (f := Site.tick) (fun k => k.of_same (Site.SamePassage.refl _).tick (Site.SameTables.refl _).tick) t h k
  · next c rest _ => exact exec_safe (s.setPending rest) c t h k

end Machine

end Sys2Proof
end

