-- ==== Sys2Proof/Tests/Slice0.lean ====
section
/-! SUPPORT. The author's own tests: ill-formed terms refused, small steps, and for every statement with premises a state and
operands that meet them, clause by clause. -/

namespace Sys2Proof.Machine.Tests

/-! ### Small states -/

/-- The site of the reset, RUNNING. -/
def site0 : Site := { Site.coldStart HeadLines.allClear 0 with mode := .running }

/-- A state with a site. -/
def on (t : Site) : State := State.reset.setSite t

/-- The running state. -/
def run : State := on site0

/-- A passage controller in a phase, its timers started at 0. -/
def phased (f : PassagePhase) : Passage :=
  { site0.passage with
    phase := f, expected := some .ab, direction := some .ab, gate := some .ga, serial := some 7#32
    timers := { arm := some 0, armTimeout := some 0, standstill := some 0, clear := some 0, limit := some 0 } }

/-- The running site at a time in a phase of a passage. -/
def inPhase (f : PassagePhase) (now : Nat) : Site := { site0 with now := now, passage := phased f }

/-- A record in a phase. -/
def record (f : RecordPhase) : TrainRecord :=
  { site0.newRecord .ab with serial := 7#32, phase := f }

/-- A finding with number 1, DEFERRED. -/
def finding : Finding :=
  { number := 1, kind := .criterion 3, vehicle := some 1, ordinal := some 1, rail := some .one, side := none, index := none,
    measure := some (.unmeasured .noAmbient), threshold := .normal, grade := .stop, state := .deferred, resolvedGrade := none }

/-- A verdict with one DEFERRED finding. -/
def verdict : Verdict :=
  { grade := .clear, findings := [finding], overflow := 0, deferred := 1, trainLoad := .value 0, mean1 := none, mean2 := none,
    rosterLength := 1, retracted := 0, vehicleCount := 1, vehicles := [] }

/-- The running site with a record in slot 1. -/
def withRecord (r : TrainRecord) : Site := site0.putRecord 0 (some r)

/-- A CLOSED record with a verdict, held or not. -/
def closedBy (h : Option Hold) : TrainRecord := { record .closed with verdict := some verdict, hold := h }

/-- A hold of a port that runs to 0.1 ms number 5. -/
def holdOf (p : Port) : Hold := { port := p, expiry := 5 }

/-- A RAISED watch entry, held or not. -/
def entry (h : Option Hold) : WatchEntry := { newRaised { tag := 9#64, index := 1 } 0#16 with hold := h }

/-- The running site with an entry in slot 0. -/
def withEntry (e : WatchEntry) : Site := site0.putEntry 0 e

/-- The running site with a point PA. -/
def withPoint (p : Point) : Site := { site0 with points := { site0.points with pa := p } }

/-- A point with levels, health of head 2 and a crossing machine. -/
def point (l1 l2 : Level) (h2 : HeadHealth) (m : CrossState) : Point :=
  { Point.coldStart with
    head1 := { Head.coldStart with level := l1 }, head2 := { level := l2, health := h2, lastChange := 0 }, machine := m }

/-- A READY of a line, as it should be: an empty payload. -/
def readyFrame (n : Fin 8) (payload : List Byte) : ModuleFrame :=
  ModuleFrame.make (BitVec.ofNat 8 (lineKind n).frameByte) 7#16 1#16 3#8 payload

/-- A REPORT of a line. -/
def reportFrame (n : Fin 8) (payload : List Byte) : ModuleFrame :=
  ModuleFrame.make (BitVec.ofNat 8 (lineKind n).frameByte) 7#16 1#16 4#8 payload

/-- The running site with passage number 7 and every module in an arming state. -/
def armedAs (a : Arming) : Site :=
  { site0 with
    modules := { site0.modules with passageNumber := some 7#16, lines := Vector.replicate 8 (ModuleLine.coldStart a) } }

/-- An axle entry of the roster. -/
def axle : AxleEntry := site0.newEntry 1 0#32 none none .unknown 1 1

/-- A roster with a standing, `n` axles and a vehicle. -/
def roster (st : RosterStanding) (n : Nat) : RosterUnit :=
  { RosterUnit.coldStart with
    standing := st, serial := some 7#32, entries := List.replicate n axle, vehicles := [newVehicle 1 1] }

/-- A composition at a step with its contributions. -/
def composition (k : CompStep) (cs : List Contribution) : Composition :=
  { step := k, latched := factoryBlock, suspect := 0#8, ambient := none, derived := .empty, made := [], kept := [],
    overflow := 0, contributions := cs }

/-- The running site with a composition. -/
def composing (k : CompStep) (cs : List Contribution) : Site := { site0 with composition := some (composition k cs) }

/-- The running site with a store controller. -/
def withStore (u : StoreUnit) : Site := { site0 with store := u }

/-- A write of an item in flight. -/
def write (i : StoreItem) : Write := 
  { item := i, changed := true, contents := .serial 1#32, stamp := 3#32, crc := imageCrc (.serial 1#32) 3#32 }

/-- A point with both heads CUT_OFF, which is OUT. -/
def outPoint : Point :=
  { Point.coldStart with head1 := ⟨.clear, .cutOff, 0⟩, head2 := ⟨.clear, .cutOff, 0⟩ }

/-- A point with a net count. -/
def counted (n : Nat) : Point := { Point.coldStart with net := n }

/-- The running site with four records, each in a slot of its own. -/
def trains (r0 r1 r2 r3 : TrainRecord) : Site := { site0 with train := #v[some r0, some r1, some r2, some r3] }

/-- The running site with every watch slot LIVE, each under a tag code of its own. -/
def fullTable : Site :=
  { site0 with
    watch := { site0.watch with
      slots := Vector.ofFn (fun i : Fin 512 =>
        { WatchSlot.coldStart with entry := some (newRaised { tag := BitVec.ofNat 64 i.val, index := 0 } 0#16) }) } }

/-- A watch key. -/
def keyOne : WatchKey := { tag := 9#64, index := 1 }

/-- The site in LOADING with a next image. -/
def loadingAt (l : LoadStep) : Site := { site0 with mode := .loading, store := { StoreUnit.coldStart with loading := l } }

/-- The running site with its clock at a reading, set or unset. -/
def clockAt (d : DateTime) (set : Bool) : Site := { site0 with clock := { Clock.coldStart with reading := d, isSet := set } }

/-! ### Well-formed terms: every check refuses an ill-formed term -/

theorem test_readyOfAReport_refused : (Instr.moduleReady 0 (reportFrame 0 [])).wf = false := by decide
theorem test_readyTooLong_refused : (Instr.moduleReady 0 (readyFrame 0 (List.replicate 12 0#8))).wf = false := by decide
theorem test_reportOnTheTagLine_refused : (Instr.bayScannerReport 6 (reportFrame 6 [])).wf = false := by decide
theorem test_reportOfAReady_refused : (Instr.bayScannerReport 0 (readyFrame 0 [])).wf = false := by decide
theorem test_tagReportOfAReady_refused : (Instr.tagReport (readyFrame 6 [])).wf = false := by decide
theorem test_discardOfASoundFrame_refused : (Instr.moduleFrameDiscard 0 (.frame (readyFrame 0 []))).wf = false := by
  decide +kernel
theorem test_discardOfASoundLength_refused : (Instr.moduleFrameDiscard 0 (.length 6#8)).wf = false := by decide
theorem test_requestDiscardOfASoundLength_refused : (Instr.requestFrameDiscard .siteLink (.length 1000#16)).wf = false := by
  decide
theorem test_requestDiscardOfASoundCrc_refused :
    (Instr.requestFrameDiscard .siteLink (.frame 1#8 2#8 [] (requestCrc 1#8 2#8 []))).wf = false := by decide +kernel
theorem test_unknownRequestOfAKnownKind_refused :
    (Instr.unknownRequest .siteLink 1#8 RequestKind.status.code []).wf = false := by decide
theorem test_bodyTooLong_refused : (Instr.status .siteLink 1#8 (List.replicate 1001 0#8)).wf = false := by decide +kernel
theorem test_malformedTerm_faults (body : List Byte) (h : bodyFits body = false) :
    exec (.status .siteLink 1#8 body) run = .fault .malformedCommand := by simp [exec, execStatus, request, h]

/-! ### Figures the spec's text gives -/

theorem test_speed_workedFigures : speedOf 450 124 = some 1306 ∧ speedOf 450 2025 = some 80 ∧ speedOf 450 40 = none := by decide
theorem test_wheelLoad_halvesUp : wheelLoad [3, 4] 2 = .value 4 ∧ wheelLoad [3] 2 = .unmeasured .tooFew := by decide
theorem test_trend_threeRises : risingTrend 50 [150, 100, 50] = true ∧ risingTrend 51 [150, 100, 50] = false := by decide
theorem test_crc_ofTheTwoPolynomials :
    crc16 portPoly [0x31#8, 0x32#8, 0x33#8, 0x34#8, 0x35#8, 0x36#8, 0x37#8, 0x38#8, 0x39#8] = 0x29B1#16 := by decide +kernel
theorem test_leapDay : ({ clockOrigin with month := 2, day := 28, hour := 23, minute := 59, second := 59 }).nextSecond =
    { clockOrigin with month := 2, day := 29, weekday := 0 } := by decide
theorem test_endOf2099 : ((clockAt ⟨2099, 12, 31, 23, 59, 59, 4⟩ true).clockSecond).clock.reading = clockOrigin := by decide

/-! ### Witnesses: the machine and its ports -/

theorem witness_StepRunsTheFrontCommand : (run.setPending [.clockSecond]).pending = .clockSecond :: [] := by decide
theorem witness_IdleStepTicks : run.pending = [] ∧ run.site.mode = .running ∧ State.reset.site.mode ≠ .running := by decide
theorem witness_EveryWellFormedCommandCompletes :
    Instr.clockSecond.wf = true ∧ (Instr.moduleReady 0 (reportFrame 0 [])).wf = false := by decide
theorem witness_HeldPartTakesNothing : (site0.setMode .held).mode = .held ∧ Instr.sweepVisit.wf = true ∧
    (∀ a b, Instr.sweepVisit ≠ .coldStart a b) ∧ (∀ h v, Instr.sweepVisit ≠ .headChange h v) ∧
    Instr.sweepVisit ≠ .rstnLowOrPowerLoss := ⟨rfl, rfl, nofun, nofun, nofun⟩
theorem witness_PortChecksInOrder :
    requestOf (.siteReset .servicePort 1#8 []) = some ⟨.siteReset, .servicePort, 1#8, []⟩ ∧ bodyFits ([] : List Byte) = true ∧
      run.Open .servicePort ∧ State.reset.Open .servicePort ∧ State.reset.site.mode ≠ .running ∧
      privilegeOf .siteReset [] = .site ∧ privilegeOf .clockSet [] = .write ∧ run.site.setting .serviceWrites ≠ 1 ∧
      ¬((RequestKind.clockSet).bodyBytes.1 ≤ [0#8].length) ∧ natAt [27#8, 1#8, 0#8, 0#8, 0#8] 0 1 = 27 ∧
      natAt [26#8, 1#8, 0#8, 0#8, 0#8] 0 1 ≠ 27 ∧ RequestKind.status ≠ .settingWrite := by decide
theorem witness_BusyAndFullQueue :
    let full : PortLine := { PortLine.coldStart false with answers := List.replicate 4 ⟨0#8, 0#8, .ok, []⟩ }
    let s (p : Port) : State := run.putLine p full
    let three : PortLine := { full with answers := full.answers.take 3 }
    let saving (l : PortLine) : State := (on (withStore { StoreUnit.coldStart with waiting := some ⟨1#8, false⟩ })).putLine .siteLink l
    let taken (s : State) (p : Port) : Nat := (s.line p).answers.length + (if p = .siteLink ∧ s.site.store.waiting.isSome then 1 else 0)
    run.site.mode ≠ .held ∧ 4 ≤ taken (s .siteLink) .siteLink ∧ 4 ≤ taken (s .servicePort) .servicePort ∧
      4 ≤ taken (saving three) .siteLink ∧ taken (saving (PortLine.coldStart false)) .siteLink < 4 ∧
      (saving three).site.store.waiting.isSome = true ∧ requestOf (.status .siteLink 1#8 []) = some ⟨.status, .siteLink, 1#8, []⟩ ∧
      bodyFits ([] : List Byte) = true ∧ inCatalogue 0xFF#8 = false := by decide
theorem test_unknownRequestAtAFullQueue_dropped :
    let full : PortLine := { PortLine.coldStart false with answers := List.replicate 4 ⟨0#8, 0#8, .ok, []⟩ }
    exec (.unknownRequest .siteLink 1#8 0xFF#8 []) (run.putLine .siteLink full) =
      .next ((run.putLine .siteLink full).setSite (run.site.setCounts { run.site.counts with linkDropped := 1#16 })) := rfl
theorem witness_PortLineEvents :
    let starts (n : Word16) : Prop := n.toNat % 256 = 0xA5 ∨ n.toNat / 256 = 0xA5
    run.site.mode ≠ .held ∧ (0x00#8 : Byte) ≠ 0xA5#8 ∧ starts 0xA5FF#16 ∧ starts 0xFFA5#16 ∧
      1000 < (0xA5FF#16 : Word16).toNat ∧ ¬starts 1001#16 ∧ 1000 < (1001#16 : Word16).toNat ∧
      (RequestDiscard.length 1001#16).wf = true ∧ RequestDiscard.stopBit.wf = true ∧ inCatalogue 0xFF#8 = false ∧
      bodyFits ([] : List Byte) = true ∧ run.Open .siteLink := by
  decide

/-! ### Witnesses: the requests of the ports block -/

theorem witness_StatusAndIdentifyRead :
    run.Takes .servicePort .status [] ∧ State.reset.Takes .siteLink .status [] ∧ run.Takes .siteLink .identify [0#8] ∧
      run.Takes .siteLink .identify [1#8] ∧ run.Takes .siteLink .identify [2#8] ∧ run.Takes .siteLink .identify [3#8] ∧
      natAt [0#8] 0 1 = 0 ∧ natAt [1#8] 0 1 = 1 ∧ natAt [2#8] 0 1 = 2 ∧ 2 < natAt [3#8] 0 1 := by
  and_intros <;> decide
theorem witness_CountersReadAndClear : run.Takes .servicePort .countersRead [] ∧ run.Takes .siteLink .countersClear [] := by decide
theorem witness_FlagsClearNamed : run.site.ClockFlagSound ∧ run.Takes .siteLink .flagsClear [0#8, 0#8, 4#8, 0#8] ∧
    2 ^ 18 ≤ natAt [0#8, 0#8, 4#8, 0#8] 0 4 ∧ run.Takes .siteLink .flagsClear [0xFF#8, 0xFF#8, 3#8, 0#8] ∧
    natAt [0xFF#8, 0xFF#8, 3#8, 0#8] 0 4 < 2 ^ 18 := by decide
theorem witness_EnablesSetReplaced : run.Takes .siteLink .enablesSet [0#8, 0#8, 4#8, 0#8] ∧
    2 ^ 18 ≤ natAt [0#8, 0#8, 4#8, 0#8] 0 4 ∧ run.Takes .siteLink .enablesSet [0xFF#8, 0xFF#8, 3#8, 0#8] ∧
    natAt [0xFF#8, 0xFF#8, 3#8, 0#8] 0 4 < 2 ^ 18 ∧ run.Takes .siteLink .siteReset [] := by decide
theorem witness_AttentionLine : State.reset.site.mode = .loading ∧ State.reset.site.enables = 0#18 ∧
    ({ site0 with enables := 0x20000#18 } : Site).attention = true := by decide
theorem witness_SiteResetClears :
    let s : State := on (armedAs .arming)
    s.Takes .siteLink .siteReset [] ∧ s.site.modules.passageNumber.isSome = true ∧ (s.site.line 0).arming = .arming ∧
      ((armedAs .idle).line 0).arming = .idle ∧ (withEntry (entry none)).watchEntry 0 = some (entry none) ∧
      site0.watchEntry 0 = none := by decide +kernel
theorem test_siteReset_remembersTheSetting :
    let after (t : Site) : Site := t.resetPoints.recordCrossing .pa .ab none
    ((after (site0.setDirection .ab)).point .pa).last.map LastCrossing.sinceSet = some true ∧
      ((after site0).point .pa).last.map LastCrossing.sinceSet = some false := by decide

/-! ### Witnesses: heads, points and net counts -/

/-- A head change that a point's crossing machine takes, at a condition and a state of the machine. -/
abbrev Row (p : Point) (n : HeadNo) (v : Level) (c : Condition) (m : CrossState) : Prop :=
  (on (withPoint p)).Running ∧ ((withPoint p).head ⟨.pa, n⟩).level ≠ v ∧ ((withPoint p).head ⟨.pa, n⟩).health ≠ .cutOff ∧
    ((withPoint p).changedPoint ⟨.pa, n⟩ v).condition = c ∧ ((withPoint p).changedPoint ⟨.pa, n⟩ v).machine = m
theorem witness_CrossingMachineRows :
    Row (point .clear .clear .inService .idle) .one .occupied .normal .idle ∧
      Row (point .clear .clear .inService .idle) .two .occupied .normal .idle ∧
      Row (point .occupied .clear .inService .lead1) .two .occupied .normal .lead1 ∧
      Row (point .occupied .clear .inService .lead1) .one .clear .normal .lead1 ∧
      Row (point .occupied .occupied .inService .over1) .one .clear .normal .over1 ∧
      Row (point .occupied .occupied .inService .over1) .two .clear .normal .over1 ∧
      Row (point .clear .occupied .inService .trail1) .one .occupied .normal .trail1 ∧
      Row (point .clear .occupied .inService .lead2) .one .occupied .normal .lead2 ∧
      Row (point .clear .occupied .inService .lead2) .two .clear .normal .lead2 ∧
      Row (point .occupied .occupied .inService .over2) .two .clear .normal .over2 ∧
      Row (point .occupied .occupied .inService .over2) .one .clear .normal .over2 ∧
      Row (point .occupied .clear .inService .trail2) .two .occupied .normal .trail2 ∧
      Row (point .occupied .clear .inService .settling) .one .clear .normal .settling ∧
      Row (point .occupied .occupied .inService .settling) .one .clear .normal .settling := by
  and_intros <;> decide
theorem witness_CrossingMachineRows_heldPoint :
    Row (point .occupied .clear .cutOff .settling) .one .clear .degraded .settling ∧
      Row (point .clear .clear .cutOff .idle) .one .occupied .degraded .idle ∧
      ((withPoint outPoint).changedPoint ⟨.pa, .one⟩ .occupied).condition = .out := by decide
theorem witness_CrossingsMade :
    Row (point .clear .occupied .inService .trail1) .two .clear .normal .trail1 ∧
      Row (point .occupied .clear .inService .trail2) .one .clear .normal .trail2 ∧
      Row (point .clear .clear .cutOff .idle) .one .occupied .degraded .idle ∧
      Row (point .occupied .clear .cutOff .lead1) .one .clear .degraded .lead1 := by decide
theorem witness_CrossingsMade_direction :
    let c : LastCrossing := { dir := .ba, interval := none, degraded := false, sinceSet := true }
    let t : Site := { site0 with points := { site0.points with gb := { Point.coldStart with last := some c },
                                                                ga := { Point.coldStart with last := some c } } }
    (t.point .gb).condition ≠ .out ∧ (t.point .gb).last = some c ∧ (t.point .ga).condition ≠ .out ∧
      (t.point .ga).last = some c ∧ (∀ c, (site0.point .gb).last = some c → c.sinceSet = false) ∧
      (∀ c, (site0.point .ga).last = some c → c.sinceSet = false) := by
  refine ⟨by decide, rfl, by decide, rfl, ?_, ?_⟩ <;> intro c h <;> exact absurd h (by decide +revert)
theorem witness_HeadChangesFollowed :
    State.reset.site.mode ≠ .running ∧ (site0.head ⟨.pa, .one⟩).level = .clear ∧
      (site0.head ⟨.pa, .one⟩).level ≠ .occupied ∧
      ((withPoint (point .clear .clear .cutOff .idle)).head ⟨.pa, .two⟩).health = .cutOff ∧
      ((withPoint (point .clear .clear .cutOff .idle)).head ⟨.pa, .two⟩).level ≠ .occupied ∧
      ((withPoint (point .clear .occupied .standing .idle)).head ⟨.pa, .two⟩).health = .standing := by decide
theorem witness_HeadHealthFollowed_restore :
    run.Takes .siteLink .headRestore [0#8] ∧ natAt [0#8] 0 1 < 1 ∧ run.Takes .siteLink .headRestore [9#8] ∧
      8 < natAt [9#8] 0 1 ∧ HeadId.ofNumber 1 = some ⟨.pa, .one⟩ ∧ HeadId.ofNumber 2 = some ⟨.pa, .two⟩ ∧
      HeadId.ofNumber 8 = some ⟨.pb, .two⟩ ∧ run.Takes .siteLink .headRestore [2#8] ∧
      (run.site.head ⟨.pa, .one⟩).health = .inService ∧
      ((withPoint (point .clear .clear .cutOff .idle)).head ⟨.pa, .two⟩).health = .cutOff ∧
      ((withPoint (point .clear .occupied .cutOff .idle)).head ⟨.pa, .two⟩).level = .occupied ∧
      ((withPoint (point .clear .occupied .standing .idle)).head ⟨.pa, .two⟩).health = .standing ∧
      (on (withPoint (point .clear .clear .cutOff .idle))).Takes .siteLink .headRestore [2#8] := by
  and_intros <;> decide
theorem witness_HeadHealthFollowed_timers :
    let occ : Site := { withPoint (point .occupied .clear .inService .lead1) with now := 1200000 }
    let cut : Site := { withPoint (point .clear .clear .cutOff .idle) with now := 3000000 }
    let opened : Site := { occ with passage := phased .inPassage }
    (occ.head ⟨.pa, .one⟩).lastChange + 10000 * occ.setting .stuckLimit = occ.now ∧
      (occ.head ⟨.pa, .one⟩).level = .occupied ∧ occ.passageOpen = false ∧ opened.passageOpen = true ∧
      (cut.head ⟨.pa, .two⟩).health = .cutOff ∧ (cut.head ⟨.pa, .two⟩).level = .clear ∧
      (cut.head ⟨.pa, .two⟩).lastChange + 10000 * cut.setting .quietPeriod = cut.now ∧
      (site0.head ⟨.pa, .one⟩).level ≠ .occupied ∧ (site0.head ⟨.pa, .one⟩).health ≠ .cutOff := by decide
theorem witness_HeadHealthFollowed_conditions :
    let set (p : Point) (v : HeadHealth) : Point := p.putHead .one { p.head .one with health := v }
    (set (point .clear .clear .inService .idle) .standing).condition = (point .clear .clear .inService .idle).condition ∧
      (set (point .clear .clear .inService .idle) .cutOff).condition = .degraded ∧
      (set (point .clear .clear .cutOff .idle) .cutOff).condition = .out ∧
      (set { point .clear .clear .inService .idle with head1 := ⟨.clear, .cutOff, 0⟩ } .inService).condition = .normal := by
  decide
theorem witness_CrossingTakenAndCounted :
    let back : Site := { inPhase .inPassage 0 with points := { site0.points with direction := some .ba } }
    back.passageOpen = true ∧ back.points.direction = some (Dir.ab).flip ∧ (back.point .ga).net = 0 ∧
      site0.passageOpen = false := by decide
theorem witness_CrossingTakenAndCounted_rows :
    let at' (n : Nat) (d : Dir) : Site :=
      { site0 with points := { site0.points with ga := { Point.coldStart with net := n }, direction := some d } }
    site0.points.direction = none ∧ ((at' 4094 .ab).point .ga).net < 4095 ∧ 4095 ≤ ((at' 4095 .ab).point .ga).net ∧
      (at' 1 .ba).points.direction = some (Dir.ab).flip ∧ 0 < ((at' 1 .ba).point .ga).net ∧
      ((at' 0 .ba).point .ga).net = 0 := by decide
theorem witness_CrossingTakenAndCounted_clearing :
    let t (a b : Nat) : Site :=
      { inPhase .clearing 9 with
        passage := { phased .clearing with checkSet := 6#4, outcomeToBe := some .complete }
        points := { site0.points with ga := counted a, gb := counted b, direction := some .ab } }
    let u (t : Site) : Site := (t.takeCrossing .gb .ab none).1.countCrossing .gb .ab (t.takeCrossing .gb .ab none).2
    ((t 4095 4095).passage.phase = .clearing ∧ (u (t 4095 4095)).passage.phase = .inPassage ∧
      2 ≤ (u (t 4095 4095)).passage.members ∧
      ∀ q, (u (t 4095 4095)).passage.watches q = true → ((u (t 4095 4095)).point q).net = 4095) ∧
      ((t 2 2).passage.phase = .clearing ∧ (u (t 2 2)).passage.phase = .inPassage ∧
        (u (t 2 2)).clearingCondition = false) ∧ (inPhase .inPassage 0).passage.phase ≠ .clearing := by
  and_intros <;> first | decide | (intro q; cases q <;> decide)
theorem test_crossingAtTheGreatestCount_clearsAgain :
    let t : Site :=
      { inPhase .clearing 9 with
        passage := { phased .clearing with checkSet := 6#4, outcomeToBe := some .complete }
        points := { site0.points with ga := counted 4095, gb := counted 4095, direction := some .ab } }
    let r := t.handOn .gb .ab none
    r.passage.phase = .clearing ∧ r.passage.timers.clear = some 9 ∧ r.passage.outcomeToBe = some .complete := by decide

/-! ### Witnesses: the status reads, and the passage controller -/

theorem witness_TracksideStatusReads : run.Takes .servicePort .pointStatus [] ∧ run.Takes .servicePort .passageStatus [] ∧
    run.Takes .servicePort .moduleStatus [] := by decide
theorem witness_ApproachCrossings :
    let out : Point := { Point.coldStart with head1 := ⟨.clear, .cutOff, 0⟩, head2 := ⟨.clear, .cutOff, 0⟩ }
    let gatesOut : Site := { site0 with points := { site0.points with ga := out, gb := out } }
    site0.passage.held = false ∧ site0.passage.phase = .idle ∧ Dir.ba ≠ (PointId.pa).inward ∧ Dir.ab = (PointId.pa).inward ∧
      site0.isOut .ga = false ∧ gatesOut.isOut .ga = true ∧ gatesOut.isOut .gb = true ∧ gatesOut.passage.phase = .idle ∧
      (inPhase .arming 0).passage.phase = .arming ∧ (inPhase .armed 0).passage.phase = .armed ∧
      (inPhase .armed 0).passage.held = false ∧ (inPhase .armed 0).passage.expected = some .ab ∧
      (Dir.ab).farApproach = .pb ∧ Dir.ba = (PointId.pb).inward := by decide
theorem witness_ApproachCrossings_fitted :
    let none8 : Site := { site0 with settings := factoryBlock.put .modulesFitted 0 }
    (BitVec.ofNat 8 (site0.setting .modulesFitted)).getLsbD 7 = true ∧ none8.passage.phase = .idle ∧
      ∀ n : Fin 8, (BitVec.ofNat 8 (none8.setting .modulesFitted)).getLsbD n.val = false := by decide
theorem witness_GateCrossingsOpen :
    site0.passage.held = false ∧ site0.passage.phase = .idle ∧ site0.composition = none ∧
      (inPhase .arming 0).passage.held = false ∧ (inPhase .arming 0).passage.phase = .arming ∧
      (inPhase .armed 0).composition = none ∧ (composing .derive []).composition ≠ none ∧
      (composing .derive []).passage.held = false ∧ (composing .derive []).passage.phase = .idle := by decide
theorem witness_GateCrossingsOpen_gates : site0.isOut (Dir.ab).entryGate.point = false ∧
    (Dir.ab).entryGate.point = .ga ∧ (Dir.ab).entryGate.point ≠ .gb ∧ site0.passage.phase = .idle := by decide
theorem test_heldUnannounced_callsTheModules :
    let r := ((composing .derive []).takeCrossing .ga .ab (some 124)).1
    r.store.nextSerial = site0.store.nextSerial + 1#32 ∧ (r.line 7).arming = .arming ∧ r.passage.timers.arm = some 0 ∧
      r.passage.lastGate = some { time := 0, dir := .ab, speed := some 1306 } := by decide
theorem witness_GateCrossingsOpen_mismatch :
    let t : Site := inPhase .armed 0
    let r := (t.takeCrossing .gb .ba none).1
    t.passage.held = false ∧ t.passage.phase ≠ .idle ∧ t.passage.expected ≠ some .ba ∧ t.composition = none ∧
      (r.recordAt 0).any (fun c => c.causes.getLsbD Cause.directionMismatch.bit) = true ∧ r.modules.reversed = true := by decide
theorem witness_GateCrossingsOpen_substituted :
    let t : Site := { inPhase .armed 0 with points := { site0.points with ga := outPoint } }
    let r := (t.takeCrossing .gb .ab none).1
    t.passage.held = false ∧ t.passage.phase = .armed ∧ t.composition = none ∧ t.isOut (Dir.ab).entryGate.point = true ∧
      (Dir.ab).exitGate ≠ (Dir.ab).entryGate ∧
      (r.recordAt 0).any (fun c => c.causes.getLsbD Cause.gateSubstituted.bit) = true ∧ r.passage.gate = some .gb := by decide
theorem witness_OpeningOfPassage :
    let settled (n : Nat) : TrainRecord := { closedBy none with readMark := true, verdict := none, rank := n }
    let loose (n : Nat) : TrainRecord := { closedBy none with rank := n }
    let kept (n : Nat) : TrainRecord := { closedBy (some (holdOf .siteLink)) with rank := n }
    let t1 : Site := trains (kept 1) (settled 3) (settled 2) (loose 4)
    let t2 : Site := trains (kept 1) (kept 2) (loose 3) (loose 4)
    let t3 : Site := trains (kept 2) (kept 1) (kept 3) (kept 4)
    site0.recordAt 0 = none ∧ (∀ j, t1.recordAt j ≠ none) ∧ t1.recordAt 2 = some (settled 2) ∧
      (∀ j, t2.recordAt j ≠ none) ∧ t2.recordAt 2 = some (loose 3) ∧ (∀ j, t3.recordAt j ≠ none) ∧
      t3.recordAt 1 = some (kept 1) ∧ (kept 1).hold = some (holdOf .siteLink) ∧ (kept 1).readMark = false := by decide
theorem test_opening_breaksTheOldestHold :
    let kept (n : Nat) : TrainRecord := { closedBy (some (holdOf .siteLink)) with rank := n }
    let r := { trains (kept 2) (kept 1) (kept 3) (kept 4) with holds := { link := 4, service := 0 } }.openPassage .ab false
    (r.recordAt 1).any (fun k => k.phase == .opened) = true ∧ r.holds.link = 3 ∧ r.counts.reclaimedUnread = 1#16 ∧
      r.counts.deferredAbandoned = 1#16 ∧ r.hasFlag .recordLost = true ∧ r.hasFlag .leaseExpired = true := by decide
theorem witness_HeldOpening :
    let held (a b : Nat) : Site :=
      { inPhase .armed 0 with
        passage := { phased .armed with held := true }
        points := { site0.points with pa := counted a, ga := counted a, gb := counted b, direction := some .ab } }
    let opened (t : Site) : Site := (t.setPassage { t.passage with held := false }).openPassage .ab true
    (held 2 2).passage.held = true ∧ (held 2 2).passageOpen = false ∧ (held 2 2).passage.direction = some .ab ∧
      (held 2 2).passage.expected = some .ab ∧ PointId.pb = (Dir.ab).farApproach ∧ Dir.ba = (PointId.pb).inward ∧
      PointId.pa ≠ (Dir.ab).farApproach ∧ (opened (held 0 0)).gateNet = 0 ∧ (opened (held 2 2)).gateNet = 2 ∧
      2 ≤ (opened (held 2 2)).passage.members ∧
      (∀ q, (opened (held 2 2)).passage.watches q = true → ((held 2 2).point q).net = 2) ∧
      (opened (held 2 1)).gateNet = 2 ∧ (opened (held 2 1)).passage.watches .ga = true ∧
      (opened (held 2 1)).passage.watches .gb = true ∧ ((held 2 1).point .ga).net ≠ ((held 2 1).point .gb).net := by
  and_intros <;> first | decide | (intro q; cases q <;> decide)
theorem test_heldOpening_fillsAndClears :
    let t : Site :=
      { inPhase .armed 0 with
        passage := { phased .armed with held := true }
        points := { site0.points with pa := counted 2, ga := counted 2, gb := counted 2, direction := some .ab } }
    t.effectHeld.roster.entries.length = 2 ∧ t.effectHeld.passage.outcomeToBe = some .complete := by decide
theorem witness_CrossingsInPassage :
    (inPhase .inPassage 0).passage.phase = .inPassage ∧ (inPhase .standstill 0).passage.phase = .standstill ∧
      (inPhase .clearing 0).passage.phase = .clearing ∧ (inPhase .clearing 0).passage.gate.map Gate.point = some .ga ∧
      ¬((inPhase .clearing 0).passage.watches .pb = true ∨ (inPhase .clearing 0).passage.gate.map Gate.point = some .pb) := by
  decide
theorem witness_CrossingsInPassage_gap :
    let t : Site := { inPhase .inPassage 612 with
      passage := { phased .inPassage with lastGate := some { time := 0, dir := .ab, speed := none } }
      points := { site0.points with direction := some .ab } }
    t.passage.gate = some .ga ∧ (t.takeGateCrossing .ga .ab (some 124)).2.speed = some 1306 ∧
      t.passage.lastGate = some { time := 0, dir := .ab, speed := none } ∧ t.points.direction = some .ab ∧
      (t.takeGateCrossing .ga .ab (some 124)).2.gap = some 2220 ∧ site0.passage.lastGate = none := by decide
theorem witness_SpeedOfCrossing : (inPhase .inPassage 0).passage.gate = some .ga ∧
    (inPhase .inPassage 0).passage.gate.map Gate.point ≠ some .gb ∧ 2 * 124 * 1306 ≤ 720 * 450 + 124 ∧
    720 * 450 + 124 < 2 * 124 * (1306 + 1) := by decide
theorem witness_CountedCrossings :
    let t (check : BitVec 4) (a b : Nat) : Site :=
      { inPhase .inPassage 0 with
        passage := { phased .inPassage with checkSet := check }
        points := { site0.points with ga := counted a, gb := counted b, direction := some .ab }
        roster := roster .live 1 }
    let held : Site := { inPhase .armed 0 with passage := { phased .armed with held := true } }
    ((t 6#4 0 0).passageOpen = true ∧ (t 6#4 0 0).passage.gate.map Gate.point = some .ga ∧ (t 6#4 0 0).gateNet = 0 ∧
      ((t 6#4 0 0).rosterFall 1).roster.entries ≠ []) ∧
      ((t 6#4 1 1).passage.watches .ga = true ∧ (t 6#4 1 1).passage.watches .gb = true ∧ 2 ≤ (t 6#4 1 1).passage.members ∧
        ∀ q, (t 6#4 1 1).passage.watches q = true → ((t 6#4 1 1).point q).net = 1) ∧
      ((t 6#4 1 2).passage.direction = some .ab ∧ ((t 6#4 1 2).point (Dir.ab).entryGate.point).net <
        ((t 6#4 1 2).point (Dir.ab).exitGate.point).net) ∧
      (held.passageOpen = false ∧ held.passage.held = true ∧ held.passage.gate.map Gate.point = some .ga) ∧
      site0.passageOpen = false ∧ site0.passage.held = false := by
  and_intros <;> first | decide | (intro q; cases q <;> decide)
theorem witness_CountedCrossings_records :
    let t : Site := { inPhase .inPassage 0 with
      train := #v[some (record .opened), some (record .closing), none, none], passage := phased .inPassage }
    t.passageOpen = true ∧ t.recordAt 0 = some (record .opened) ∧ (record .opened).phase = .opened ∧
      t.recordAt 1 = some (record .closing) ∧ (record .closing).phase ≠ .opened ∧ t.recordAt 2 = none := by decide
theorem witness_CheckSetLeft :
    let t (f : PassagePhase) (check : BitVec 4) (a b : Nat) : Site :=
      { inPhase f 0 with
        passage := { phased f with checkSet := check }
        points := { site0.points with ga := counted a, gb := counted b, direction := some .ab } }
    let u (f : PassagePhase) (check : BitVec 4) (a b : Nat) : Site := t f check a b
    (t .inPassage 7#4 1 1).passageOpen = true ∧ (t .inPassage 7#4 1 1).passage.watches .pa = true ∧
      (t .inPassage 7#4 1 1).passage.watches .pb = false ∧ site0.passageOpen = false ∧
      2 ≤ (u .inPassage 6#4 1 1).passage.members ∧
      (∀ q, (u .inPassage 6#4 1 1).passage.watches q = true → ((t .inPassage 7#4 1 1).point q).net = 1) ∧
      ((t .standstill 7#4 2 1).point .ga).net ≠ ((t .standstill 7#4 2 1).point .gb).net ∧
      ((t .clearing 7#4 1 2).point (Dir.ab).entryGate.point).net < ((t .clearing 7#4 1 2).point (Dir.ab).exitGate.point).net ∧
      (u .clearing 2#4 1 2).passage.members < 2 ∧ (u .clearing 6#4 1 2).passage.members = 2 ∧
      (u .standstill 2#4 1 2).passage.members < 2 := by
  and_intros <;> first | decide | (intro q; cases q <;> decide)
theorem test_checkSetLeft_standstill :
    let t : Site := { inPhase .standstill 0 with
      passage := { phased .standstill with checkSet := 3#4 }, points := { site0.points with ga := counted 1 } }
    (t.leaveCheckSet .pa).passage.phase = .clearing ∧ (t.leaveCheckSet .pa).passage.outcomeToBe = some .complete := by decide
theorem witness_PassageTimersExpire_fitted :
    let t : Site := { site0 with passage := { phased .armed with latched := factoryBlock.put .modulesFitted 0x7F } }
    t.passage.phase = .armed ∧ t.passage.held = false ∧ t.fitted (6 : Fin 8).val = true ∧ t.fitted (7 : Fin 8).val = false := by
  decide
theorem witness_PassageTimersExpire :
    (∃ x, (inPhase .arming 150000).passage.timers.arm = some x ∧
      x + 10000 * (inPhase .arming 150000).latchedSetting .armLimit ≤ 150000) ∧
      (inPhase .arming 150000).passage.phase = .arming ∧ (inPhase .inPassage 150000).passage.phase ≠ .arming ∧
      site0.passage.timers.arm = none ∧ (inPhase .armed 6000000).passage.phase = .armed ∧
      10000 * (inPhase .armed 6000000).latchedSetting .armTimeout = 6000000 := by
  refine ⟨⟨0, rfl, by decide⟩, ?_⟩
  decide
theorem witness_PassageTimersExpire_open :
    10000 * (inPhase .inPassage 300000).latchedSetting .standstillTime = 300000 ∧
      (inPhase .inPassage 300000).passage.members < 2 ∧ 2 ≤ { phased .inPassage with checkSet := 0xF#4 }.members ∧
      10000 * (inPhase .clearing 100000).latchedSetting .clearTime = 100000 ∧
      10000 * (60 * (inPhase .clearing 54000000).latchedSetting .passageLimit) = 54000000 ∧
      (inPhase .clearing 54000000).passageOpen = true ∧ site0.passage.phase ≠ .clearing ∧ site0.passageOpen = false := by decide
theorem witness_CloseOfPassage_fitted :
    let t : Site := { site0 with passage := { phased .inPassage with latched := factoryBlock.put .modulesFitted 1 } }
    t.fitted (0 : Fin 8).val = true ∧ t.fitted (1 : Fin 8).val = false ∧
      ((t.close .complete).line 1).sending = (t.line 1).sending := by decide
theorem witness_CloseOfPassage :
    let t : Site :=
      { inPhase .clearing 0 with
        train := (withRecord (record .opened)).train
        watch := { site0.watch with startPending := true }
        points := { site0.points with pa := point .clear .occupied .standing .settling } }
    t.recordAt 0 = some (record .opened) ∧ (record .opened).phase = .opened ∧ t.fitted 7 = true ∧
      t.passage.tally.count = 0 ∧ (SpeedTally.mk 2 10 4 6).count ≠ 0 ∧ (t.head ⟨.pa, .two⟩).health = .standing ∧
      (t.head ⟨.pa, .one⟩).health ≠ .standing ∧ ((t.close .complete).point .pa).condition ≠ (t.point .pa).condition ∧
      ((t.close .complete).point .pb).condition = (t.point .pb).condition ∧ t.watch.startPending = true := by decide
theorem witness_CloseOfPassage_vehicle :
    let tagged : Vehicle :=
      { newVehicle 1 1 with tagState := .single, tagCode := some 9#64, taggedEnd := some .one, readPosition := some 1 }
    let t (v : Vehicle) : Site :=
      { inPhase .clearing 0 with
        passage := { phased .clearing with tally := ⟨2, 10, 4, 6⟩ }
        roster := { roster .live 1 with vehicles := [v] } }
    let closed : Vehicle := { tagged with state := .closed }
    (t tagged).roster.vehicles.getLast? = some tagged ∧ tagged.state = .opened ∧ (t tagged).passage.tally.count ≠ 0 ∧
      (t closed).roster.vehicles.getLast? = some closed ∧ closed.state = .closed ∧
      ((t tagged).close .complete).roster.vehicles = [{ closed with orientation := .end2Leading }] ∧
      ((t tagged).close .complete).roster.entries.map AxleEntry.axleIndex = [some 1] := by decide
theorem test_close_missingAndSuspect :
    let t : Site :=
      { inPhase .clearing 0 with
        modules := (((armedAs .ready).putLine 0 (ModuleLine.coldStart .missing)).putLine 1
          { ModuleLine.coldStart .ready with orphanTally := 1#16 }).modules }
    let r := t.close .complete
    (r.line 0).lastClose = some .missing ∧ (r.line 0).health = .inService ∧ (r.line 1).health = .suspect ∧
      r.hasFlag .moduleMissing = true ∧ r.hasFlag .moduleSuspect = true := by decide

/-! ### Witnesses: the roster -/

theorem witness_RosterFollowsGateCount :
    1024 < 1025 ∧ (roster .live 1).entries[1 - 1]? = some axle ∧ (roster .live 1).entries.length < 2 ∧
      (roster .live 0).entries.length < 1 := by decide
theorem witness_AppendedAxleGrouped :
    let closed : Vehicle := { newVehicle 1 1 with state := .closed }
    let last : Vehicle := { newVehicle 256 1 with axleCount := 12 }
    site0.roster.vehicles = [] ∧ (roster .live 1).vehicles.getLast? = some (newVehicle 1 1) ∧
      gapClassOf factoryBlock (some 4200) = .coupling ∧ gapClassOf factoryBlock (some 2100) = .bogie ∧
      gapClassOf factoryBlock (some 4201) = .body ∧ gapClassOf factoryBlock none = .unknown ∧ closed.state = .closed ∧
      last.position = 256 ∧ 12 ≤ last.axleCount := by decide
theorem witness_AppendedAxleGrouped_closed :
    let t (n : Nat) : Site :=
      { site0 with
        roster := { roster .live 1 with
          vehicles := [{ newVehicle 1 1 with
            axleCount := n, tagState := .confirmed, tagCode := some 9#64, taggedEnd := some .one, readPosition := some 1 }] } }
    let bogie := (t 11).appendAxle 0#32 none (some 2000)
    let coupling := (t 2).appendAxle 0#32 none (some 4000)
    (bogie.roster.vehicles.map Vehicle.state = [.closed] ∧ bogie.roster.vehicles.map Vehicle.orientation = [.end1Leading] ∧
      bogie.roster.entries.map AxleEntry.axleIndex = [some 1, some 2]) ∧
      (coupling.roster.vehicles.map Vehicle.state = [.closed, .opened] ∧
        coupling.roster.vehicles.map Vehicle.orientation = [.end1Leading, .unknown] ∧
        coupling.roster.entries.map AxleEntry.axleIndex = [some 1, none]) := by decide
theorem witness_RosterAndVehicleReads :
    let body (p f c : Byte) : List Byte := [p, 7#8, 0#8, 0#8, 0#8, f, 0#8, c]
    let s : State := on { site0 with roster := roster .final 1 }
    s.Takes .siteLink .rosterRead (body 2#8 1#8 1#8) ∧ s.Takes .siteLink .rosterRead (body 1#8 1#8 8#8) ∧
      s.Takes .siteLink .vehicleRead (body 0#8 1#8 17#8) ∧ s.Takes .siteLink .vehicleRead (body 1#8 1#8 16#8) ∧
      (1 < natAt (body 2#8 1#8 1#8) 0 1) ∧ 16 < natAt (body 0#8 1#8 17#8) 7 1 ∧
      s.site.roster.serial = some (BitVec.ofNat 32 (natAt (body 1#8 1#8 8#8) 1 4)) ∧ site0.roster.standing = .none ∧
      s.site.roster.standing ≠ .none := by
  intros; and_intros <;> decide

/-! ### Witnesses: the module lines -/

theorem witness_ModuleFramesChecked_loading :
    State.reset.site.mode ≠ .running ∧ (5#8 : Byte).toNat < 6 ∧ 17 < (18#8 : Byte).toNat ∧ (readyFrame 0 [1#8]).payload.length ≤ 11 ∧
      ¬WellMade 0 (readyFrame 0 [1#8]) := by decide +kernel
theorem witness_ModuleFramesChecked :
    let bad : ModuleFrame := { readyFrame 0 [] with crc := (readyFrame 0 []).crc + 1#16 }
    (readyFrame 0 []).payload.length ≤ 11 ∧ (readyFrame 0 []).code = 3#8 ∧ (reportFrame 0 []).code = 4#8 ∧
      bad.crc ≠ bad.rightCrc ∧ (readyFrame 0 []).crc = (readyFrame 0 []).rightCrc ∧ WellMade 0 (readyFrame 0 []) ∧
      ¬WellMade 0 (readyFrame 0 [1#8]) ∧ ¬site0.Current 0 (readyFrame 0 []) ∧ (5#8 : Byte).toNat < 6 ∧
      17 < (18#8 : Byte).toNat ∧ 17 < (0xC3#8 : Byte).toNat ∧ (0x00#8 : Byte) ≠ 0xC3#8 := by decide +kernel
theorem test_moduleLengthThatIsASync_startsAFrame :
    ((site0.discardModuleFrame 0 (.length 0xC3#8)).line 0).receiver = .inFrame ∧
      ((site0.discardModuleFrame 0 (.length 18#8)).line 0).receiver = .hunting := by decide
theorem witness_ReadyTaken :
    (armedAs .arming).Hears 0 (readyFrame 0 []) ∧ (armedAs .missing).Hears 7 (readyFrame 7 [0#8, 0#8]) ∧
      (armedAs .ready).Hears 0 (readyFrame 0 []) := by decide +kernel
theorem witness_ReadyTaken_record : (withRecord (record .opened)).HasOpenRecord ∧ ¬(armedAs .missing).HasOpenRecord := by
  refine ⟨⟨0, record .opened, by decide, rfl⟩, ?_⟩
  rintro ⟨i, k, h, _⟩
  have none : ∀ i, (armedAs .missing).recordAt i = none := by decide
  cases (none i).symm.trans h
theorem witness_ReadyTaken_all :
    let t : Site := { (armedAs .ready).putLine 0 (ModuleLine.coldStart .arming) with passage := phased .arming }
    t.Hears 0 (readyFrame 0 []) ∧ t.passage.timers.arm.isSome = true ∧
      (∀ k : Fin 8, ((t.putLine 0 (ModuleLine.coldStart .ready)).line k).arming = .ready) ∧
      { t with passage := phased .armed }.passage.phase ≠ .arming := by decide +kernel
theorem witness_ReportsPlaced :
    let fwd : List Byte := 1#8 :: List.replicate 10 0#8
    (armedAs .ready).Hears 0 (reportFrame 0 fwd) ∧ ((armedAs .ready).line 0).arming = .ready ∧
      ((reportFrame 0 fwd).sequence - ((armedAs .ready).line 0).expected).toNat = 0 ∧
      4096 < ((1#16 : Word16) - 2#16).toNat ∧ natAt fwd 0 1 = 1 ∧ (armedAs .ready).modules.reversed = false ∧
      (armedAs .ready).rosterLen = 0 ∧ (armedAs .ready).netAxles = 0 ∧
      { inPhase .inPassage 0 with roster := roster .live 1 }.rosterLen = 1 ∧
      { inPhase .inPassage 0 with points := { site0.points with ga := { Point.coldStart with net := 1 } } }.netAxles = 1 := by
  decide +kernel
theorem witness_ReportsPlaced_shownUp :
    let fwd : List Byte := 1#8 :: List.replicate 10 0#8
    (armedAs .arming).Hears 0 (reportFrame 0 fwd) ∧ (armedAs .missing).Hears 0 (reportFrame 0 fwd) ∧
      ((armedAs .arming).line 0).arming = .arming ∧ ((armedAs .missing).line 0).arming = .missing := by decide +kernel
theorem witness_ReportsPlaced_values :
    natAt [0x10#8, 0x27#8, 0x10#8, 0x27#8, 3#8] 4 1 = 3 ∧ natAt [0x10#8, 0x27#8, 0x10#8, 0x27#8, 3#8] 0 2 = 10000 ∧
      10000 < natAt [0x11#8, 0x27#8] 0 2 ∧ intAt [1#8, 0xA8#8, 0xFD#8, 1#8] 1 2 = -600 ∧
      intAt [1#8, 0xC4#8, 0x09#8, 2#8] 1 2 = 2500 ∧ 2500 < intAt [1#8, 0xC5#8, 0x09#8, 2#8] 1 2 ∧
      axle.bays[(0 : Fin 4)].rail1 = .unmeasured .missing ∧ axle.bearings[(0 : Fin 2)] = .unmeasured .missing ∧
      Reason.notFitted ≠ .missing := by decide
theorem test_secondReportCountsARecrossing :
    let e := axle.take 0 (.bay (.forces 20 10 .good) .failed)
    e.bays[0].rail1 = .forces 20 10 .good ∧ (e.take 0 (.bay .failed .failed)).recross[0] = 1 ∧
      (e.take 0 (.bay .failed .failed)).bays = e.bays := by decide
theorem witness_TagReportsTaken :
    let good : List Byte := [9#8, 0#8, 0#8, 0#8, 0#8, 0#8, 0#8, 0#8, 1#8, 1#8]
    let deep : Site := { inPhase .inPassage 0 with
      roster := roster .live 1, points := { site0.points with ga := { Point.coldStart with net := 7 } } }
    (armedAs .ready).Hears 6 (reportFrame 6 good) ∧ (armedAs .idle).Hears 6 (reportFrame 6 good) ∧
      natAt good 8 1 = 1 ∧ natAt good 9 1 = 1 ∧ natAt [0#8, 0#8, 0#8, 0#8, 0#8, 0#8, 0#8, 0#8, 3#8, 1#8] 8 1 = 3 ∧
      (armedAs .ready).roster.standing ≠ .live ∧ (roster .live 1).standing = .live ∧ site0.gateNet < site0.latchedSetting .readerLag + 1 ∧
      deep.latchedSetting .readerLag + 1 = deep.gateNet ∧ deep.roster.entries[deep.gateNet - 6 - 1]? = some axle ∧
      ({ deep with roster := roster .live 0 } : Site).roster.entries.length < deep.gateNet - 6 := by decide +kernel
theorem witness_TagReportsTaken_vehicle :
    let v (s : TagState) : Vehicle := { newVehicle 1 1 with tagState := s, tagCode := some 9#64 }
    let u (s : TagState) : RosterUnit := { roster .live 1 with vehicles := [v s] }
    (roster .live 1).vehicleAt 1 = some (newVehicle 1 1) ∧ (u .single).vehicleAt 1 = some (v .single) ∧
      (u .confirmed).vehicleAt 1 = some (v .confirmed) ∧ (u .conflict).vehicleAt 1 = some (v .conflict) ∧
      (v .single).tagCode ≠ some 8#64 ∧ { newVehicle 1 1 with state := .closed }.axleCount ≤ 12 := by decide

/-! ### Witnesses: the composition -/

theorem witness_CompositionSteps : (on (composing .derive [])).Running ∧
    (composing .derive []).composition = some (composition .derive []) ∧
    (composing .verdict []).composition = some (composition .verdict []) ∧
    ¬((List.replicate 97 finding).length ≤ 96) ∧ (List.replicate 96 finding).length ≤ 96 ∧
    (makeVerdict (roster .final 1) .empty [finding] 0).deferred = 1 := by decide
theorem witness_CriteriaTested :
    let c : Criterion :=
      { enabled := true, quantity := .wheelLoad, predicate := .ge, normal := 10, watched := 5, grade := .stop, treatment := .defer }
    let v (l : WatchLevel) : Vehicle := { newVehicle 1 1 with snapshot := emptySnapshot.set 3 (some l) }
    let e : AxleEntry := { axle with axleIndex := some 3 }
    c.predicate.met 10 c.normal = true ∧ c.predicate.met 9 c.normal = false ∧ axleThreshold (v .restrict) e = .watched ∧
      axleThreshold (v .observe) e = .normal ∧ axleThreshold (v .withdraw) axle = .normal ∧
      vehicleThreshold (v .withdraw) = .watched ∧ c.treatment = .defer ∧ { c with treatment := .meet }.treatment = .meet ∧
      { c with treatment := .ignore }.treatment = .ignore := by decide
theorem test_watchedThresholdDefers :
    let c : Criterion :=
      { enabled := true, quantity := .wheelLoad, predicate := .ge, normal := 10, watched := 5, grade := .stop, treatment := .defer }
    ((testItem 0 c { trainItem with threshold := .watched } (.value 5)).map Finding.state = some .final) ∧
      (testItem 0 c trainItem (.value 9) = none) ∧
      ((testItem 0 c trainItem (.unmeasured .tooFew)).map Finding.state = some .deferred) := by decide
theorem witness_SelectionAndWorstGrade : (selectFindings [finding])[0]? = some finding ∧ finding.state ≠ .resolved ∧
    ({ finding with state := .resolved, resolvedGrade := some .note } : Finding).resolvedGrade = some .note := by decide
theorem test_selectionRanks :
    let f (k : FindingKind) (g : Grade) (o : Option Nat) : Finding := { finding with kind := k, grade := g, ordinal := o, rail := none }
    (selectFindings [f (.criterion 4) .alarm (some 2), f (.criterion 3) .alarm (some 2), f (.criterion 0) .stop (some 9),
      f .watchedVehicle .alarm none]).map (fun x => (x.number, x.kind)) =
      [(1, .criterion 0), (2, .watchedVehicle), (3, .criterion 3), (4, .criterion 4)] := by decide
theorem witness_VerdictAndContributions :
    let q := derive factoryBlock 0#8 none (roster .final 1)
    let figures : CloseFigures :=
      { closed := clockOrigin, outcome := .complete, net := 1, speedMin := none, speedMax := none, speedMean := none, ambient := none }
    let t : Site := withRecord { record .closing with close := some figures }
    (roster .final 1).vehicles[0]? = some (newVehicle 1 1) ∧ (q.vehicles[0]?).isSome = true ∧
      t.recordIn .closing = some { record .closing with close := some figures } ∧
      sideOver .ab .end1Leading .one = some .s1 ∧ sideOver .ab .end2Leading .one = some .s2 ∧ finding.state = .deferred ∧
      { finding with state := .final }.state = .final := by decide
theorem witness_CompositionEnds :
    let k : Contribution := .resolution keyOne .clear
    let held : Site := { composing .contribute [] with passage := { phased .armed with held := true } }
    (on (composing .contribute [k])).Running ∧
      (composing .contribute [k]).composition = some (composition .contribute [k]) ∧
      (composition .contribute []).contributions = [] ∧ (composing .contribute []).passage.held = false ∧
      held.composition = some (composition .contribute []) ∧ held.passage.held = true ∧
      (composing .contribute []).watch.sweepState ≠ .suspended ∧
      ((composing .contribute []).setSweep .suspended).watch.sweepState = .suspended ∧
      ((composing .contribute []).setSweep .suspended).passage.held = false ∧
      (composing .derive []).composition = some (composition .derive []) ∧ (composition .derive []).step ≠ .contribute := by
  decide
theorem witness_WheelAndAxleQuantities :
    let i : DeriveInputs := { latched := factoryBlock, suspect := 0#8, ambient := some 100, mean1 := none, mean2 := none }
    let hot : AxleEntry := { axle with speed := some 80, bearings := #v[.temp 450 .good, .temp 400 .good] }
    { axle with state := .retracted }.state = .retracted ∧ axle.state = .present ∧ inLoadBand factoryBlock axle = false ∧
      inHeatBand factoryBlock axle = false ∧ inHeatBand factoryBlock hot = true ∧ (deriveWheel i hot .one).temp = .value 450 ∧
      bearingTemp factoryBlock hot .two = .value 400 ∧
      bearingTemp factoryBlock { hot with bearings := #v[.temp 450 .good, .failed] } .two = .unmeasured .missing ∧
      bearingTemp factoryBlock { hot with bearings := #v[.failed, .failed] } .one = .unmeasured .missing ∧ [3].length < 2 ∧ 2 ≤ [3, 4].length ∧
      (2 * (4 : Int) - 1) * 2 ≤ 2 * 7 ∧ 2 * (7 : Int) < (2 * 4 + 1) * 2 := by decide
theorem witness_WheelAndAxleQuantities_bands :
    let b := ((factoryBlock.put .loadSpeedMin 300).put .loadSpeedMax 600).put .heatSpeedMin 601
    let at' (v : Nat) : AxleEntry := { axle with speed := some v }
    axle.speed = none ∧ (at' 300).speed = some 300 ∧ (at' 600).speed = some 600 ∧
      inLoadBand b (at' 299) = false ∧ inLoadBand b (at' 300) = true ∧ inLoadBand b (at' 600) = true ∧
      inLoadBand b (at' 601) = false ∧ inHeatBand b (at' 600) = false ∧ inHeatBand b (at' 601) = true := by decide
theorem witness_WheelAndAxleQuantities_bays :
    let good (m : Nat) : BayPair := ⟨.forces (m + 5) m .good, .unmeasured .notFitted⟩
    let e : AxleEntry := { axle with speed := some 300, bays := #v[good 10, good 11, good 12, good 13] }
    let i : DeriveInputs := { latched := factoryBlock, suspect := 0#8, ambient := none, mean1 := none, mean2 := none }
    e.state = .present ∧ inLoadBand i.latched e = true ∧ (deriveWheel i e .one).impact = .value 18 ∧
      (deriveWheel i e .two).impact = .unmeasured .notFitted ∧
      axleLoad (deriveWheel i e .one).load (deriveWheel i e .two).load = .unmeasured .tooFew := by decide
theorem witness_VehicleAndTrainQuantities :
    let nearest (x part whole : Int) : Prop := (2 * x - 1) * whole ≤ 2 * part ∧ 2 * part < (2 * x + 1) * whole
    axle.state = .present ∧ { axle with state := .retracted }.state ≠ .present ∧ [Measure.value 3] = [3].map Measure.value ∧
      nearest 200 (1000 * 1) 5 ∧ nearest 4 7 2 ∧ [axle].length < 2 ∧ { axle with speed := some 80 }.speed = some 80 ∧
      axle.speed = none ∧ bearingTemp factoryBlock { axle with speed := some 80, bearings := #v[.temp 450 .good, .failed] } .one =
        .value 450 ∧ ([450] : List Int).length < factoryBlock.nat .trainMeanMin ∧
      factoryBlock.nat .trainMeanMin ≤ (List.replicate 1024 (450 : Int)).length := by decide +kernel

/-! ### Witnesses: the train table -/

theorem witness_TrainReads :
    let body (part f c : Byte) : List Byte := [7#8, 0#8, 0#8, 0#8, part, f, 0#8, c]
    let s : State := on (withRecord (closedBy none))
    run.Takes .siteLink .trainList [] ∧ s.Takes .siteLink .trainRead (body 0#8 0#8 0#8) ∧
      s.Takes .siteLink .trainRead (body 3#8 1#8 1#8) ∧ 2 < natAt (body 3#8 1#8 1#8) 4 1 ∧
      32 < natAt (body 1#8 1#8 33#8) 7 1 ∧ natAt (body 1#8 1#8 32#8) 7 1 = 32 ∧ natAt (body 2#8 96#8 24#8) 5 2 = 96 ∧
      s.site.findRecord (BitVec.ofNat 32 (natAt (body 0#8 0#8 0#8) 0 4)) = some 0 ∧
      s.site.recordAt 0 = some (closedBy none) ∧ (closedBy none).verdict = some verdict ∧ site0.findRecord 7#32 = none ∧
      (record .closing).phase = .closing ∧ (record .opened).phase = .opened := by
  intros; and_intros <;> decide
theorem witness_TrainHolds :
    let body : List Byte := [7#8, 0#8, 0#8, 0#8]
    let s (h : Option Hold) (n : Nat) : State := on { withRecord (closedBy h) with holds := { link := n, service := 0 }, now := 5 }
    let held (p : Port) : Option Hold := some (holdOf p)
    ((s none 3).Takes .siteLink .trainHold body ∧ (s none 3).site.findRecord 7#32 = some 0 ∧
      (s none 3).site.recordAt 0 = some (closedBy none) ∧ (closedBy none).phase = .closed ∧ (s none 3).site.holds.get .siteLink < 4) ∧
      ((s none 4).Takes .siteLink .trainHold body ∧ 4 ≤ (s none 4).site.holds.get .siteLink) ∧
      ((s (held .siteLink) 1).Takes .siteLink .trainRelease body ∧ (s (held .siteLink) 1).Takes .siteLink .trainHold body ∧
        (s (held .siteLink) 1).site.recordAt 0 = some (closedBy (held .siteLink)) ∧ (holdOf .siteLink).port = .siteLink) ∧
      ((s (held .servicePort) 0).Takes .siteLink .trainHold body ∧
        (s (held .servicePort) 0).site.recordAt 0 = some (closedBy (held .servicePort)) ∧ (holdOf .servicePort).port ≠ .siteLink) ∧
      ((s (held .siteLink) 1).Running ∧ (holdOf .siteLink).expiry ≤ (s (held .siteLink) 1).site.now) ∧
      (withRecord (closedBy (held .siteLink))).now < (holdOf .siteLink).expiry ∧ site0.findRecord 7#32 = none ∧
      (withRecord (record .opened)).findRecord 7#32 = some 0 ∧ (record .opened).phase ≠ .closed := by
  intros; and_intros <;> decide
theorem witness_TrainSettling :
    let body (k g : Byte) : List Byte := [7#8, 0#8, 0#8, 0#8, k, g]
    let s : State := on (withRecord (closedBy none))
    s.Takes .siteLink .trainResolve (body 1#8 4#8) ∧ s.Takes .siteLink .trainResolve (body 97#8 0#8) ∧
      s.Takes .siteLink .trainResolve (body 1#8 5#8) ∧ s.Takes .siteLink .trainRetire [7#8, 0#8, 0#8, 0#8] ∧
      s.site.findRecord 7#32 = some 0 ∧ s.site.recordAt 0 = some (closedBy none) ∧ (closedBy none).phase = .closed ∧
      verdict.findings[1 - 1]? = some finding ∧ finding.state = .deferred ∧ Grade.stop.code = natAt (body 1#8 4#8) 5 1 ∧
      verdict.findings.length < 2 ∧ ({ finding with state := .final } : Finding).state ≠ .deferred := by
  intros; and_intros <;> decide
theorem witness_TrainSettling_copies :
    let copy : VehicleCopy :=
      { position := 1, firstOrdinal := 1, axleCount := 1, tagCode := some 9#64, tagState := .single, orientation := .end1Leading
        load := .value 0, worst := .stop, highest := none }
    let v : Verdict := { verdict with vehicles := [copy, { copy with position := 2, tagState := .untagged }] }
    let f : Finding := { finding with index := some { index := 1, basis := .fromEnd1 } }
    v.vehicles[0]? = some copy ∧ (finding.number = 1 ∧ finding.vehicle = some copy.position) ∧
      v.keyOf f = some { tag := 9#64, index := 1 } ∧
      v.keyOf { f with index := some { index := 1, basis := .fromLeading } } = none ∧
      v.keyOf { f with ordinal := none } = some { tag := 9#64, index := 0 } ∧ v.keyOf { f with vehicle := some 2 } = none ∧
      ((v.resolve 1 .clear).vehicles.map VehicleCopy.worst) = [.clear, .stop] := by decide

/-! ### Witnesses: the watch table -/

/-- Every slot of the running site is FREE. -/
theorem site0_entry (i : Fin 512) : site0.watchEntry i = none := by
  show (Vector.replicate 512 WatchSlot.coldStart)[i].entry = none
  simp [WatchSlot.coldStart]

/-- No key has an entry in the running site. -/
theorem site0_findKey (k : WatchKey) : site0.findKey k = none := by
  unfold Site.findKey
  rw [List.find?_eq_none]
  intro i _
  rw [site0_entry]
  exact Bool.false_ne_true
/-- The slots of the full table. -/
theorem fullTable_entry (i : Fin 512) :
    fullTable.watchEntry i = some (newRaised { tag := BitVec.ofNat 64 i.val, index := 0 } 0#16) := by
  have h : fullTable.watch.slots[i] =
      { WatchSlot.coldStart with entry := some (newRaised { tag := BitVec.ofNat 64 i.val, index := 0 } 0#16) } :=
    Vector.getElem_ofFn i.isLt
  exact congrArg WatchSlot.entry h

/-- No slot of the full table is FREE. -/
theorem fullTable_lowestFree : fullTable.lowestFree = none := by
  unfold Site.lowestFree
  rw [List.find?_eq_none]
  intro i _
  rw [fullTable_entry]
  exact Bool.false_ne_true

/-- The free count of the full table. -/
theorem fullTable_freeCount : fullTable.freeCount = 0 := by
  unfold Site.freeCount
  rw [List.countP_eq_zero]
  intro w h
  obtain ⟨i, hi, rfl⟩ := List.getElem_of_mem h
  have := fullTable_entry ⟨i, by simpa using hi⟩
  have e : (fullTable.watch.slots.toList[i]).entry = _ := this
  rw [e]
  exact Bool.false_ne_true

/-- No entry of the full table has the key. -/
theorem fullTable_findKey : fullTable.findKey keyOne = none := by
  unfold Site.findKey
  rw [List.find?_eq_none]
  intro i _
  rw [fullTable_entry]
  simp [newRaised, keyOne]
theorem witness_WatchReads :
    let key (i : Byte) : List Byte := [9#8, 0#8, 0#8, 0#8, 0#8, 0#8, 0#8, 0#8, i]
    let s : State := on (withEntry (entry none))
    s.Takes .siteLink .watchFind (key 1#8) ∧ s.Takes .siteLink .watchFind (key 13#8) ∧ 12 < natAt (key 13#8) 8 1 ∧
      natAt (key 255#8) 8 1 = 255 ∧ s.site.KeyAt { tag := 9#64, index := 1 } 0 (entry none) ∧
      s.Takes .siteLink .watchScan [0xFF#8, 1#8, 8#8, 2#8] ∧ natAt [0xFF#8, 1#8, 8#8, 2#8] 0 2 = 511 ∧
      8 < natAt [0#8, 0#8, 9#8, 0#8] 2 1 ∧ WatchLevel.withdraw.code = natAt [0xFF#8, 1#8, 8#8, 2#8] 3 1 := by decide +kernel
theorem witness_WatchReads_absent : ∀ i e, site0.watchEntry i = some e → e.key ≠ { tag := 9#64, index := 1 } :=
  fun i _ h => nomatch (site0_entry i).symm.trans h
theorem witness_WatchEdits_enrolAbsent : site0.findKey { tag := 9#64, index := 12 } = none := site0_findKey _
theorem witness_WatchEdits_enrol :
    let body (i l n : Byte) : List Byte := [9#8, 0#8, 0#8, 0#8, 0#8, 0#8, 0#8, 0#8, i, l, n]
    run.Takes .siteLink .watchEnrol (body 12#8 2#8 0#8) ∧ run.Takes .siteLink .watchEnrol (body 13#8 0#8 0#8) ∧
      12 < natAt (body 13#8 0#8 0#8) 8 1 ∧ (body 12#8 2#8 0#8).length = 11 + natAt (body 12#8 2#8 0#8) 10 1 ∧
      site0.lowestFree = some 0 ∧
      WatchLevel.withdraw.code = natAt (body 12#8 2#8 0#8) 9 1 := by decide +kernel
theorem witness_WatchEdits_full :
    let body : List Byte := [9#8, 0#8, 0#8, 0#8, 0#8, 0#8, 0#8, 0#8, 1#8, 2#8, 0#8]
    (on fullTable).Takes .siteLink .watchEnrol body ∧ natAt body 8 1 = 1 ∧ natAt body 9 1 = 2 ∧ natAt body 10 1 = 0 ∧
      body.length = 11 + natAt body 10 1 ∧ fullTable.findKey keyOne = none ∧ fullTable.lowestFree = none := by
  refine ⟨?_, ?_, ?_, ?_, ?_, fullTable_findKey, fullTable_lowestFree⟩ <;> decide
theorem witness_WatchEdits_exists :
    let body : List Byte := [9#8, 0#8, 0#8, 0#8, 0#8, 0#8, 0#8, 0#8, 1#8, 2#8, 0#8]
    (on (withEntry (entry none))).Takes .siteLink .watchEnrol body ∧ (withEntry (entry none)).KeyAt keyOne 0 (entry none) := by
  decide +kernel
theorem witness_WatchEdits_change :
    let amend (c l f : Byte) : List Byte := [0#8, 0#8, 0#8, 0#8, c, l, f, 0#8]
    let s (h : Option Hold) : State := on (withEntry (entry h))
    (s none).Takes .siteLink .watchAmend (amend 1#8 1#8 0#8) ∧ (s none).Takes .siteLink .watchRetire [0#8, 0#8, 0#8, 0#8] ∧
      readAmendment (amend 1#8 1#8 0#8) = some { level := some .restrict, floor := none, note := none, clear := false } ∧
      readAmendment (amend 0#8 0#8 0#8) = none ∧ readAmendment (amend 16#8 0#8 0#8) = none ∧
      readAmendment (amend 1#8 3#8 0#8) = none ∧ readAmendment (amend 2#8 0#8 3#8) = none ∧
      readAmendment [0#8, 0#8, 0#8, 0#8, 4#8, 0#8, 0#8, 1#8] = none ∧
      readAmendment [0#8, 0#8, 0#8, 0#8, 12#8, 9#8, 9#8, 1#8, 65#8] =
        some { level := none, floor := none, note := some [65#8], clear := true } ∧
      (s none).Takes .siteLink .watchAmend (amend 0#8 0#8 0#8) ∧ (s none).site.watchEntry 0 = some (entry none) ∧
      ((s none).site.watchSlot 0).notice .siteLink = false ∧ site0.watchEntry 0 = none ∧
      (entry none).revision = BitVec.ofNat 16 (natAt (amend 1#8 1#8 0#8) 2 2) ∧ (entry none).revision ≠ 1#16 ∧
      (entry (some (holdOf .servicePort))).hold = some (holdOf .servicePort) ∧
      ((WatchSlot.coldStart).setNotice .siteLink true).notice .siteLink = true ∧ (entry none).origin = .raised := by decide +kernel
theorem witness_WatchHolds :
    let s (h : Option Hold) (n : Nat) : State := on { withEntry (entry h) with holds := { link := n, service := 0 }, now := 5 }
    let held (p : Port) : Option Hold := some (holdOf p)
    ((s none 3).Takes .siteLink .watchHold [0#8, 0#8] ∧ (0 : Fin 512).val = natAt [0#8, 0#8] 0 2 ∧
      ((s none 3).site.watchSlot 0).notice .siteLink = false ∧ (s none 3).site.watchEntry 0 = some (entry none) ∧
      (s none 3).site.holds.get .siteLink < 4) ∧
      ((s none 4).Takes .siteLink .watchHold [0#8, 0#8] ∧ 4 ≤ (s none 4).site.holds.get .siteLink) ∧
      ((s (held .siteLink) 1).Takes .siteLink .watchHold [0#8, 0#8] ∧ (s (held .siteLink) 1).Takes .siteLink .watchRelease [0#8, 0#8] ∧
        ((s (held .siteLink) 1).site.watchSlot 0).notice .siteLink = false ∧
        (s (held .siteLink) 1).site.watchEntry 0 = some (entry (held .siteLink)) ∧ (holdOf .siteLink).port = .siteLink) ∧
      ((s (held .servicePort) 1).Takes .siteLink .watchHold [0#8, 0#8] ∧
        (s (held .servicePort) 1).site.watchEntry 0 = some (entry (held .servicePort)) ∧ (holdOf .servicePort).port ≠ .siteLink) ∧
      ((s (held .siteLink) 1).Running ∧ (holdOf .siteLink).expiry ≤ (s (held .siteLink) 1).site.now) ∧
      (withEntry (entry (held .siteLink))).now < (holdOf .siteLink).expiry ∧ run.Takes .siteLink .watchHold [0#8, 2#8] ∧
      511 < natAt [0#8, 2#8] 0 2 ∧ site0.watchEntry 0 = none := by
  intros; and_intros <;> decide +kernel
theorem witness_WatchHolds_broken :
    let t := withEntry (entry none)
    let told : State := on (t.putWatchSlot 0 ((t.watchSlot 0).setNotice .siteLink true))
    told.Takes .siteLink .watchHold [0#8, 0#8] ∧ told.Takes .siteLink .watchRelease [0#8, 0#8] ∧
      (told.site.watchSlot 0).notice .siteLink = true := by decide +kernel
theorem witness_WatchHolds_released :
    let t := withEntry (entry (some (holdOf .siteLink)))
    (Site.applyPending 0 (entry (some (holdOf .siteLink))).pending true (t.endHold 0)).2 = true ∧
      (Site.applyPending 0 [.resolution keyOne .clear] true
        (withEntry { entry none with cleanRun := 3 })).2 = true ∧
      (Site.applyPending 0 [.resolution keyOne .clear] true
        (withEntry { entry none with cleanRun := 4 })).2 = false ∧
      (Site.applyPending 0 [.sweep 1#16] true (withEntry { entry none with unseen := 998 })).2 = false := by decide +kernel
theorem witness_SweepRows :
    let set (f : PassagePhase) : Site := { clockAt clockOrigin true with passage := phased f }
    (run.Takes .siteLink .sweepNow [] ∧ site0.clock.isSet = false) ∧
      ((on (set .idle)).Takes .siteLink .sweepNow [] ∧ (set .idle).clock.isSet = true ∧ (set .idle).watch.sweepState = .idle ∧
        (set .idle).passageOpen = false) ∧
      ((on (set .inPassage)).Takes .siteLink .sweepNow [] ∧ (set .inPassage).watch.sweepState = .idle ∧
        (set .inPassage).passageOpen = true) ∧
      ((on ((set .idle).setSweep .running)).Takes .siteLink .sweepNow [] ∧ ((set .idle).setSweep .running).watch.sweepState ≠ .idle) ∧
      ((on (site0.setSweep .running)).Running ∧ (site0.setSweep .running).watch.sweepState = .running ∧
        (0 : Fin 512).val = (site0.setSweep .running).watch.cursor) ∧
      (511 : Fin 512).val = ({ site0.watch with cursor := 511, sweepState := .running } : WatchTable).cursor := by
  intros; and_intros <;> decide
theorem witness_ContributionsTaken :
    let held (cs : List Contribution) : WatchEntry := { entry (some (holdOf .siteLink)) with pending := cs }
    let four := held (List.replicate 4 (.resolution keyOne .caution))
    ((withEntry (entry none)).watchEntry 0 = some (entry none) ∧ (entry none).hold = none ∧
      (withEntry (entry none)).findKey keyOne = some 0) ∧
      ((withEntry (held [])).watchEntry 0 = some (held []) ∧ (held []).hold = some (holdOf .siteLink) ∧ (held []).pending.length < 4) ∧
      ((withEntry four).watchEntry 0 = some four ∧ four.hold = some (holdOf .siteLink) ∧ 4 ≤ four.pending.length) ∧
      Grade.note.code < 2 ∧ 2 ≤ Grade.caution.code ∧ site0.lowestFree = some 0 ∧
      site0.setting .admissionReserve < site0.freeCount := by decide +kernel
theorem witness_ContributionsTaken_absent : site0.findKey keyOne = none := site0_findKey _
theorem witness_ContributionsTaken_refused :
    fullTable.findKey keyOne = none ∧ 2 ≤ Grade.stop.code ∧
      ¬(fullTable.setting .admissionReserve < fullTable.freeCount ∨ (3 ≤ Grade.stop.code ∧ 1 ≤ fullTable.freeCount)) := by
  refine ⟨fullTable_findKey, by decide, ?_⟩
  rw [fullTable_freeCount]
  decide
theorem test_fifthContributionBreaksTheHold :
    let e : WatchEntry :=
      { entry (some (holdOf .siteLink)) with pending := List.replicate 4 (.resolution keyOne .caution) }
    let r := { withEntry e with holds := { link := 1, service := 0 } }.takeAt 0 (.resolution keyOne .caution)
    (r.watchSlot 0).notice .siteLink = true ∧ r.holds.link = 0 ∧ r.hasFlag .leaseExpired = true ∧
      (r.watchEntry 0).any (fun x => x.hold.isNone && x.pending == [] && x.exceedances == 5#16) = true := by decide +kernel
theorem witness_ContributionsApplied :
    let e (n : Nat) : WatchEntry := { entry none with cleanRun := n }
    let b := site0.settings
    ((e 0).apply b 0#16 (.resolution keyOne .stop)).any (fun a => a.escalated && a.entry.isSome) = true ∧
      ((e 4).apply b 0#16 (.resolution keyOne .clear)).any (fun a => a.entry.isNone) = true ∧
      (e 0).apply b 0#16 (.sweep 0#16) = none ∧ (withEntry (e 0)).watchEntry 0 = some (e 0) ∧
      ((withEntry (e 4)).applyAt 0 (.resolution keyOne .clear)).watchEntry 0 = none ∧
      (withEntry (e 0)).findKey keyOne = some 0 ∧ (e 0).sweepStamp ≠ 1#16 ∧ (e 0).origin = .raised ∧ (e 0).level = .observe ∧
      b.nat .forgetSweeps ≤ min 999 ({ e 0 with unseen := 998 }.unseen + 1) ∧ ¬(b.nat .forgetSweeps ≤ min 999 ((e 0).unseen + 1)) ∧
      { e 0 with origin := .enrolled, floor := some .observe }.origin ≠ .raised := by decide +kernel
theorem witness_ContributionsApplied_levels :
    let b := site0.settings
    let e (l : WatchLevel) (n : Nat) (o : Origin) : WatchEntry := { entry none with level := l, cleanRun := n, origin := o }
    (e .restrict 0 .raised).reconsider b .alarm false = ⟨some { e .restrict 0 .raised with level := .withdraw }, true⟩ ∧
      (e .observe 0 .raised).reconsider b .clear true = ⟨some { e .observe 0 .raised with level := .restrict }, true⟩ ∧
      ((e .withdraw 31 .raised).reconsider b .clear false).entry.map WatchEntry.level = some .restrict ∧
      ((e .observe 31 .raised).reconsider b .clear false).entry = none ∧
      (e .observe 31 .enrolled).reconsider b .clear false = ⟨some (e .observe 31 .enrolled), false⟩ := by decide

/-! ### Witnesses: clock, settings, store, loading, invariants -/

theorem witness_ClockSecondRows :
    let t := clockAt ⟨2000, 1, 3, 2, 59, 59, 1⟩ true
    t.mode ≠ .held ∧ t.setting .sweepTime = 60 * 3 + 0 ∧ (BitVec.ofNat 7 (t.setting .sweepDays)).getLsbD 1 = true ∧
      t.watch.sweepState = .idle ∧ t.passageOpen = false ∧ (t.setSweep .running).watch.sweepState ≠ .idle ∧
      ({ t with passage := phased .inPassage } : Site).passageOpen = true ∧ (site0.setMode .held).mode = .held := by decide
theorem test_clockSecond_scheduledStart :
    ((clockAt ⟨2000, 1, 3, 2, 59, 59, 1⟩ true).clockSecond).watch.sweepState = .running ∧
      ((clockAt ⟨2000, 1, 3, 2, 59, 59, 1⟩ true).clockSecond).watch.sweepSerial = 1#16 := by decide
theorem witness_ClockReadAndSet :
    let day (d : Byte) : List Byte := [0xD0#8, 7#8, 2#8, d, 0#8, 0#8, 0#8, 6#8]
    State.reset.Takes .servicePort .clockRead [] ∧ run.Takes .siteLink .clockSet (day 29#8) ∧
      (readDateTime (day 29#8) 0).valid = true ∧ (readDateTime (day 30#8) 0).valid = false ∧
      (inPhase .inPassage 0).passageOpen = true ∧ (inPhase .armed 0).passageOpen = false ∧
      (inPhase .armed 0).passage.phase ≠ .idle ∧ site0.passage.phase = .idle ∧
      BitVec.ofNat 7 (site0.setting .sweepDays) ≠ 0#7 := by decide
theorem test_nextSweep_sameDay :
    (clockAt ⟨2000, 1, 3, 2, 59, 59, 1⟩ true).nextSweep = some ⟨2000, 1, 3, 3, 0, 0, 1⟩ ∧
      (clockAt ⟨2000, 1, 3, 3, 0, 0, 1⟩ true).nextSweep = some ⟨2000, 1, 4, 3, 0, 0, 2⟩ := by decide
theorem witness_SettingsReadAndWritten :
    run.Takes .siteLink .settingRead [30#8] ∧ run.Takes .siteLink .settingRead [31#8] ∧ Setting.sweepDays.index.val + 1 = 30 ∧
      run.Takes .siteLink .settingWrite [1#8, 5#8, 0#8, 0#8, 0#8] ∧ intAt [1#8, 5#8, 0#8, 0#8, 0#8] 1 4 = Setting.stuckLimit.range.1 ∧
      intAt [1#8, 4#8, 0#8, 0#8, 0#8] 1 4 < Setting.stuckLimit.range.1 ∧ intAt [2#8, 10#8, 0#8, 0#8, 0#8] 1 4 = Setting.quietPeriod.range.1 ∧
      run.Takes .siteLink .criterionRead [24#8] ∧ run.Takes .siteLink .criterionRead [25#8] := by
  and_intros <;> decide
theorem witness_SettingsReadAndWritten_criterion :
    let body (q g : Byte) : List Byte := [24#8, 1#8, q, 0#8, 0x10#8, 0x27#8, 0#8, 0#8, 0#8, 0#8, 0#8, 0#8, g, 0#8]
    let c (g : Grade) : Criterion :=
      { enabled := true, quantity := .wheelLoad, predicate := .ge, normal := 10000, watched := 0, grade := g, treatment := .ignore }
    run.Takes .siteLink .criterionWrite (body 0#8 4#8) ∧ readCriterion (body 0#8 4#8) = some (c .stop) ∧
      (c .stop).inRange = true ∧ readCriterion (body 15#8 4#8) = none ∧ readCriterion (body 0#8 0#8) = some (c .clear) ∧
      (c .clear).inRange = false := by decide
theorem witness_StoreWrites :
    let q : StoreUnit := { StoreUnit.coldStart with queue := [.settings] }
    let w : StoreUnit := { q with inFlight := some (write .settings), failures := 2, waiting := some ⟨1#8, false⟩ }
    (on (withStore q)).Running ∧ q.state = .online ∧ q.inFlight = none ∧ q.queue = .settings :: [] ∧
      w.inFlight = some (write .settings) ∧ w.waiting = some ⟨1#8, false⟩ ∧ 2 ≤ w.failures ∧ ¬(2 ≤ q.failures) ∧
      (on (withStore q)).Takes .siteLink .storeSave [] ∧ (on (withStore q)).Takes .siteLink .storeRetry [] ∧
      (on (withStore { q with state := .offline })).site.store.state = .offline ∧ StoreItem.serial ∉ q.queue := by
  intros; and_intros <;> first | rfl | decide
theorem test_writeCarriesTheCrcOfItsImage : (site0.newWrite .serial).crc = imageCrc (.serial 1#32) site0.store.nextStamp := rfl
theorem test_thirdFailure_offline :
    let w : StoreUnit := { StoreUnit.coldStart with inFlight := some (write .serial), failures := 2 }
    ((withStore w).writeFails (write .serial)).store.state = .offline ∧
      ((withStore w).writeFails (write .serial)).store.queue = [.serial] := by decide
theorem witness_ImagesLoadedAndLoadingEnds :
    (loadingAt .settings).mode = .loading ∧ (loadingAt .serial).store.loading = .serial ∧
      (loadingAt (.slots 511)).store.loading = .slots (511 : Fin 512).val ∧ factoryBlock.inRange = true ∧
      { factoryBlock with values := factoryBlock.values.set 0 4 }.inRange = false ∧ (1#32 : Serial) ≠ 0#32 ∧
      (entry none).inRange = true ∧ { entry none with unseen := 1000 }.inRange = false ∧ site0.mode ≠ .loading := by decide +kernel
theorem witness_ImagesLoadedAndLoadingEnds_ranges :
    let e : WatchEntry :=
      { entry none with
        rise1 := [-3100, 3100], excess2 := [0, 10000], cleanRun := 31, unseen := 999, lastSerial := some 1#32
        lastDate := some { year := 2099, month := 12, day := 31 }, note := List.replicate 16 0#8 }
    e.inRange = true ∧ { e with rise1 := [3101] }.inRange = false ∧ { e with cleanRun := 32 }.inRange = false ∧
      { e with lastDate := some { year := 2099, month := 2, day := 29 } }.inRange = false ∧
      { e with rise2 := [0, 0, 0, 0, 0] }.inRange = false ∧ { e with origin := .enrolled }.inRange = false ∧
      { e with lastSerial := some 0#32 }.inRange = false := by decide
theorem witness_ImagesLoadedAndLoadingEnds_end : (loadingAt (.slots 512)).mode = .loading ∧ (loadingAt (.slots 512)).store.loading = .slots 512 ∧
    (loadingAt (.slots 511)).store.loading ≠ .slots 512 := by decide
theorem test_duplicate_lowerSlotStays :
    let t : Site := ((loadingAt (.slots 512)).putEntry 3 (entry none)).putEntry 5 (entry none)
    t.beatenBy 5 (entry none) 3 = true ∧ t.beatenBy 3 (entry none) 5 = false := by decide +kernel
theorem witness_StepKeepsInvariants :
    (State.reset.setPending [.clockSecond]).Sound ∧
      ∃ t, step (State.reset.setPending [.clockSecond]) = .next t := by
  obtain ⟨a, b, c, d⟩ := Site.PassageSound.coldStart HeadLines.allClear 0
  refine ⟨⟨⟨by decide, by intro w h; cases h⟩, ?_, ?_, ?_, ?_, ?_, ?_, Site.TablesSound.coldStart HeadLines.allClear 0, a, b, c, d⟩,
    _, rfl⟩
  · intro p; cases p <;> decide
  · intro i e h
    have : (Vector.replicate 512 WatchSlot.coldStart)[i].entry = some e := h
    simp [WatchSlot.coldStart] at this
  · intro p; cases p <;> decide
  · decide
  · decide
  · intro p; cases p <;> decide

end Sys2Proof.Machine.Tests
end

section
/-! PROOF. The invariants kept by every step, and the idle step. -/

namespace Sys2Proof.Machine

/-- Settles O59: what every step keeps of the site and the answers (`step_keeps`), joined with the passage and the tables
(`step_safe`). -/
theorem stepKeepsInvariants : Obligations.StepKeepsInvariants := by
  intro s t h hstep
  obtain ⟨keep, answers⟩ := step_keeps hstep
  have whole : t.site.Whole :=
    step_safe hstep ⟨⟨h.records, h.verdicts, h.roster, h.places⟩, h.tables⟩
  exact
    { queue := keep.queue h.queue
      holds := keep.holds h.holds
      pending := keep.pend h.pending
      nets := keep.nets h.nets
      clock := keep.flag h.clock
      quiet := keep.quiet h.quiet
      answers := answers h.answers
      tables := whole.tables
      records := whole.passage.records
      verdicts := whole.passage.verdicts
      roster := whole.passage.roster
      places := whole.passage.places }

/-- Settles O2, by the mode of the site. -/
theorem idleStepTicks : Obligations.IdleStepTicks := by
  intro s hq
  have hstep : step s = .next (s.setSite s.site.tick) := by simp only [step, hq]
  refine ⟨fun hm => ?_, fun hm => ?_⟩
  · rw [hstep, Site.tick, if_pos hm]; rfl
  · rw [hstep, Site.tick, if_neg hm, State.setSite_self]

end Sys2Proof.Machine
end

section
/-! PROOF. Heads, crossing machines and the condition of a point. -/

namespace Sys2Proof

/-! ### Heads and the condition of their point -/

@[simp] theorem Point.putHead_head (p : Point) (n : HeadNo) (d : Head) : (p.putHead n d).head n = d := by cases n <;> rfl

/-- A point is NORMAL exactly while neither head is CUT_OFF (R7). -/
theorem Point.condition_normal_iff (p : Point) :
    p.condition = .normal ↔ p.head1.health ≠ .cutOff ∧ p.head2.health ≠ .cutOff := by
  unfold Point.condition
  cases p.head1.health <;> cases p.head2.health <;> decide

/-- A point is OUT exactly while both heads are CUT_OFF (R7). -/
theorem Point.condition_out_iff (p : Point) :
    p.condition = .out ↔ p.head1.health = .cutOff ∧ p.head2.health = .cutOff := by
  unfold Point.condition
  cases p.head1.health <;> cases p.head2.health <;> decide

/-- Some head that is not CUT_OFF is occupied. -/
theorem Point.seenOccupied_iff (p : Point) : (p.head1.seenOccupied || p.head2.seenOccupied) = true ↔
    (p.head1.health ≠ .cutOff ∧ p.head1.level = .occupied) ∨ (p.head2.health ≠ .cutOff ∧ p.head2.level = .occupied) := by
  simp [Head.seenOccupied]

/-- A NORMAL point sees both heads (R7). -/
theorem Point.seenOccupied_of_normal {p : Point} (hc : p.condition = .normal) :
    (p.head1.seenOccupied || p.head2.seenOccupied) = true ↔ p.head1.level = .occupied ∨ p.head2.level = .occupied := by
  obtain ⟨h1, h2⟩ := p.condition_normal_iff.1 hc
  simp only [Point.seenOccupied_iff, h1, h2, ne_eq, not_false_eq_true, true_and]

/-- A DEGRADED point with a head that is not CUT_OFF sees that head alone (R7, R12). -/
theorem Point.seenOccupied_of_degraded {p : Point} {n : HeadNo} (hc : p.condition = .degraded) (hn : (p.head n).health ≠ .cutOff) :
    (p.head1.seenOccupied || p.head2.seenOccupied) = true ↔ (p.head n).level = .occupied := by
  have notBoth : ¬(p.head1.health ≠ .cutOff ∧ p.head2.health ≠ .cutOff) := fun k => by
    rw [p.condition_normal_iff.2 k] at hc; cases hc
  rw [Point.seenOccupied_iff]
  cases n with
  | one =>
    have h1 : p.head1.health ≠ .cutOff := hn
    have h2 : p.head2.health = .cutOff := by_contra fun k => notBoth ⟨h1, k⟩
    simp [Point.head, h1, h2]
  | two =>
    have h2 : p.head2.health ≠ .cutOff := hn
    have h1 : p.head1.health = .cutOff := by_contra fun k => notBoth ⟨k, h2⟩
    simp [Point.head, h1, h2]

/-- SETTLING stays while a head followed is occupied (R8). -/
theorem Point.settle_of_seen {p : Point} (h : (p.head1.seenOccupied || p.head2.seenOccupied) = true) : p.settle = p := if_pos h

/-- SETTLING is left when the heads followed are clear together (R8). -/
theorem Point.settle_of_clear {p : Point} (h : ¬(p.head1.seenOccupied || p.head2.seenOccupied) = true) : p.settle = p.toIdle :=
  if_neg h

/-! ### A change of a head's level -/

/-- A change keeps the health, but that a clear ends STANDING (R1, R3). -/
theorem Head.change_health_of_ne {d : Head} {v : Level} (h : d.health ≠ .standing ∨ v = .occupied) (now : Nat) :
    (d.change v now).health = d.health := by
  refine if_neg (fun ⟨hs, hv⟩ => ?_)
  rcases h with h | h
  · exact h hs
  · rw [h] at hv; cases hv

/-- A clear ends STANDING (R3). -/
theorem Head.change_health_of_standing {d : Head} (h : d.health = .standing) (now : Nat) :
    (d.change .clear now).health = .inService := if_pos ⟨h, rfl⟩

/-- A change cuts no head off. -/
theorem Head.change_health_eq_cutOff (d : Head) (v : Level) (now : Nat) :
    (d.change v now).health = .cutOff ↔ d.health = .cutOff := by
  cases v with
  | occupied => rw [Head.change_health_of_ne (.inr rfl)]
  | clear =>
    by_cases h : d.health = .standing
    · rw [Head.change_health_of_standing h, h]; decide
    · rw [Head.change_health_of_ne (.inl h)]

/-- A change puts no head back that is CUT_OFF (R1, R4). -/
theorem Head.change_of_cutOff {d : Head} (h : d.health = .cutOff) (v : Level) (now : Nat) :
    d.change v now = { level := v, health := .cutOff, lastChange := now } := by
  simp [Head.change, h]

namespace Site

variable {t : Site} {h : HeadId} {v : Level}

@[simp] theorem pinned_mode (t : Site) (h : HeadId) (v : Level) : (t.pinned h v).mode = t.mode := rfl
@[simp] theorem pinned_now (t : Site) (h : HeadId) (v : Level) : (t.pinned h v).now = t.now := rfl
@[simp] theorem pinned_point (t : Site) (h : HeadId) (v : Level) (p : PointId) : (t.pinned h v).point p = t.point p := rfl

@[simp] theorem changedPoint_head (t : Site) (h : HeadId) (v : Level) :
    (t.changedPoint h v).head h.no = (t.head h).change v t.now := Point.putHead_head _ _ _

/-- What the site is not running takes of a head line is its pin (R224). -/
theorem headChange_of_not_running (hm : t.mode ≠ .running) : t.headChange h v = t.pinned h v := if_neg (fun k => hm k.1)

/-- A level that stands already moves the pin alone (R1). -/
theorem headChange_of_same (hl : (t.head h).level = v) : t.headChange h v = t.pinned h v := if_neg (fun k => k.2 hl)

/-- A new level of a running site is taken. -/
theorem headChange_of_new (hm : t.mode = .running) (hl : (t.head h).level ≠ v) :
    t.headChange h v = (t.pinned h v).takeHeadChange h v := if_pos ⟨hm, hl⟩

/-- A CUT_OFF head's level and last-change time are followed, and no more (R1, R4). -/
theorem headChange_of_cutOff (hm : t.mode = .running) (hl : (t.head h).level ≠ v) (hh : (t.head h).health = .cutOff) :
    t.headChange h v = (t.pinned h v).putPoint h.point (t.changedPoint h v) := by
  rw [headChange_of_new hm hl]
  exact if_pos hh

/-- A change taken that makes no crossing leaves the point that its machine gives (R9, R12). -/
theorem takeHeadChange_of_quiet {s : Site} {p : Point} (hh : (s.head h).health ≠ .cutOff)
    (hc : s.crossStep h (s.changedPoint h v) v = ⟨p, none⟩) : s.takeHeadChange h v = s.putPoint h.point p := by
  unfold changedPoint head at *
  simp only [takeHeadChange, if_neg hh, hc]

/-- A change taken that makes a crossing hands it on from the point that its machine gives (R9, R12, R15). -/
theorem takeHeadChange_of_made {s : Site} {p : Point} {d : Dir} (hh : (s.head h).health ≠ .cutOff)
    (hc : s.crossStep h (s.changedPoint h v) v = ⟨p, some d⟩) :
    s.takeHeadChange h v = (s.putPoint h.point p).handOn h.point d (s.changedPoint h v).intervalNow := by
  unfold changedPoint head at *
  simp only [takeHeadChange, if_neg hh, hc]

/-- A head change that makes no crossing: its pin, and the point that its machine gives. The machine does not read the pins. -/
theorem headChange_of_quiet {p : Point} (hm : t.mode = .running) (hl : (t.head h).level ≠ v)
    (hh : (t.head h).health ≠ .cutOff) (hc : t.crossStep h (t.changedPoint h v) v = ⟨p, none⟩) :
    t.headChange h v = (t.pinned h v).putPoint h.point p :=
  (headChange_of_new hm hl).trans (takeHeadChange_of_quiet (s := t.pinned h v) hh hc)

/-- A head change that makes a crossing: its pin, the point that its machine gives, and the crossing handed on. -/
theorem headChange_of_made {p : Point} {d : Dir} (hm : t.mode = .running) (hl : (t.head h).level ≠ v)
    (hh : (t.head h).health ≠ .cutOff) (hc : t.crossStep h (t.changedPoint h v) v = ⟨p, some d⟩) :
    t.headChange h v = ((t.pinned h v).putPoint h.point p).handOn h.point d (t.changedPoint h v).intervalNow :=
  (headChange_of_new hm hl).trans (takeHeadChange_of_made (s := t.pinned h v) hh hc)

theorem crossStep_of_normal {p : Point} (hc : p.condition = .normal) : t.crossStep h p v = p.normalStep h.no v t.now := by
  simp only [crossStep, hc]

theorem crossStep_of_degraded {p : Point} (hc : p.condition = .degraded) :
    t.crossStep h p v = p.degradedStep h.no v t.now (t.degradedDir h.point) := by
  simp only [crossStep, hc]

end Site

namespace Machine

theorem exec_headChange (h : HeadId) (v : Level) (s : State) :
    exec (.headChange h v) s = .next (s.setSite (s.site.headChange h v)) := rfl

/-- Settles O15: row by row of the two machines, each row that makes no crossing being `Site.headChange_of_quiet`. -/
theorem crossingMachineRows : Obligations.CrossingMachineRows := by
  intro s h v hrun hlevel hhealth q gives idle taken
  have quiet : ∀ p, s.site.crossStep h q v = ⟨p, none⟩ → gives p := fun p hp => by
    simp only [gives, exec_headChange, Site.headChange_of_quiet hrun hlevel hhealth hp]
  refine ⟨fun hc => ?_, fun hc hm => ?_⟩
  · have step : s.site.crossStep h q v = q.normalStep h.no v s.site.now := Site.crossStep_of_normal hc
    have seen := Point.seenOccupied_of_normal hc
    refine ⟨fun hm hn hv => quiet _ ?_, fun hm hn hv => quiet _ ?_, fun hm hn hv => quiet _ ?_, fun hm hn hv => quiet _ ?_,
      fun hm hn hv => quiet _ ?_, fun hm hn hv => quiet _ ?_, fun hm hn hv => quiet _ ?_, fun hm hn hv => quiet _ ?_,
      fun hm hn hv => quiet _ ?_, fun hm hn hv => quiet _ ?_, fun hm hn hv => quiet _ ?_, fun hm hn hv => quiet _ ?_,
      fun hm h1 h2 => quiet _ ?_, fun hm hocc => quiet _ ?_⟩
    case refine_13 =>
      have clear : q.settle = q.toIdle := Point.settle_of_clear (by rw [seen, h1, h2]; decide)
      rw [step]; simp only [Point.normalStep, hm, clear]; rfl
    case refine_14 =>
      have stays : q.settle = q := Point.settle_of_seen (seen.2 hocc)
      rw [step]; simp only [Point.normalStep, hm, stays]
    all_goals
      rw [step]
      simp only [Point.normalStep, hm, hn, hv]
    all_goals rfl
  · have step : s.site.crossStep h q v = q.degradedStep h.no v s.site.now (s.site.degradedDir h.point) :=
      Site.crossStep_of_degraded hc
    have healthy : (q.head h.no).health ≠ .cutOff := by
      simpa [q, Head.change_health_eq_cutOff] using hhealth
    have level : (q.head h.no).level = v := by simp [q, Head.change]
    have seen := Point.seenOccupied_of_degraded hc healthy
    rw [level] at seen
    refine ⟨fun hv => quiet _ ?_, fun hv => quiet _ ?_⟩
    · have clear : q.settle = q.toIdle := Point.settle_of_clear (by rw [seen, hv]; decide)
      rw [step]; simp only [Point.degradedStep, hm, clear]; rfl
    · have stays : q.settle = q := Point.settle_of_seen (seen.2 hv)
      rw [step]; simp only [Point.degradedStep, hm, stays]

end Machine

/-! ### Crossings made -/

/-- The interval that a NORMAL point's crossing carries: taken, not rocked, 0 as 1, none above 65,535 (R11). -/
theorem Point.intervalNow_of_normal {p : Point} (hc : p.condition = .normal) :
    p.intervalNow = if p.rocked then none
      else p.interval.bind (fun i => if max i 1 ≤ 65535 then some (max i 1) else none) := by
  rw [Point.intervalNow, if_pos hc, Point.crossingInterval]
  cases p.interval <;> rfl

/-- A DEGRADED point's crossing carries no interval (R12). -/
theorem Point.intervalNow_of_degraded {p : Point} (hc : p.condition = .degraded) : p.intervalNow = none :=
  if_neg (by rw [hc]; decide)

/-- A last crossing made since the counting direction was last set serves R13 while its point is not OUT. -/
theorem Point.guide_of_last {p : Point} {c : LastCrossing} (ho : p.condition ≠ .out) (hl : p.last = some c)
    (hs : c.sinceSet = true) : p.guide = some c.dir := by
  simp only [Point.guide, if_neg ho, hl, hs, if_true]

/-- A point that is OUT, or has no crossing since the counting direction was last set, does not serve R13. -/
theorem Point.guide_eq_none {p : Point} (h : p.condition = .out ∨ ∀ c, p.last = some c → c.sinceSet = false) : p.guide = none := by
  unfold Point.guide
  split
  · rfl
  · next ho =>
    cases hl : p.last with
    | none => rfl
    | some c => simp only [h.resolve_left ho c hl, Bool.false_eq_true, if_false]

namespace Machine

/-- Settles O16: the rows that make a crossing are `Site.headChange_of_made`; R13's direction by `Point.guide` of the other
gate. -/
theorem crossingsMade : Obligations.CrossingsMade := by
  refine ⟨fun s h v hrun hlevel hhealth => ?_, fun t => ⟨rfl, rfl, ?_, ?_, ?_, ?_⟩⟩
  · intro q base lead interval
    have made : ∀ d, s.site.crossStep h q v = ⟨q.toIdle, some d⟩ →
        exec (.headChange h v) s = .next (s.setSite (base.handOn h.point d q.intervalNow)) := fun d hd => by
      rw [exec_headChange, Site.headChange_of_made hrun hlevel hhealth hd]; rfl
    have carried : q.condition = .normal → q.intervalNow = interval := Point.intervalNow_of_normal
    refine ⟨fun hc hm hn hv => ?_, fun hc hm hn hv => ?_, fun hc hm hv => ?_, fun hc hm hv => ?_⟩
    · rw [← carried hc]
      refine made .ab ?_
      rw [Site.crossStep_of_normal hc]
      simp only [Point.normalStep, hm, hn, hv]
    · rw [← carried hc]
      refine made .ba ?_
      rw [Site.crossStep_of_normal hc]
      simp only [Point.normalStep, hm, hn, hv]
    · have hstep : s.site.crossStep h q v = ⟨{ q with machine := lead, lead := some s.site.now }, none⟩ := by
        rw [Site.crossStep_of_degraded hc]
        simp only [Point.degradedStep, hm, hv, lead]
        cases h.no <;> rfl
      rw [exec_headChange, Site.headChange_of_quiet hrun hlevel hhealth hstep]
    · rw [← Point.intervalNow_of_degraded hc]
      refine made (s.site.degradedDir h.point) ?_
      rw [Site.crossStep_of_degraded hc]
      cases hn : h.no <;> simp only [lead, hn] at hm <;> simp only [Point.degradedStep, hm, hv]
      all_goals rfl
  · exact fun c ho hl hs => by simp only [Site.degradedDir, Point.guide_of_last ho hl hs, Option.getD_some]
  · exact fun c ho hl hs => by simp only [Site.degradedDir, Point.guide_of_last ho hl hs, Option.getD_some]
  · exact fun h => by simp only [Site.degradedDir, Point.guide_eq_none h, Option.getD_none]; rfl
  · exact fun h => by simp only [Site.degradedDir, Point.guide_eq_none h, Option.getD_none]; rfl

end Machine

/-! ### Head changes that reach no crossing machine -/

/-- Both heads of an OUT point are CUT_OFF (R7). -/
theorem Point.head_of_out {p : Point} (hc : p.condition = .out) (n : HeadNo) : (p.head n).health = .cutOff := by
  obtain ⟨h1, h2⟩ := p.condition_out_iff.1 hc
  cases n with
  | one => exact h1
  | two => exact h2

/-- A head replaced by one of the same health leaves the condition of its point (R7). -/
theorem Point.condition_putHead {p : Point} {n : HeadNo} {d : Head} (h : d.health = (p.head n).health) :
    (p.putHead n d).condition = p.condition := by
  cases n <;> simp only [Point.putHead, Point.condition, h, Point.head]

@[simp] theorem Point.putHead_machine (p : Point) (n : HeadNo) (d : Head) : (p.putHead n d).machine = p.machine := by
  cases n <;> rfl
@[simp] theorem Point.putHead_net (p : Point) (n : HeadNo) (d : Head) : (p.putHead n d).net = p.net := by cases n <;> rfl
@[simp] theorem Point.putHead_last (p : Point) (n : HeadNo) (d : Head) : (p.putHead n d).last = p.last := by cases n <;> rfl
@[simp] theorem Point.putHead_spurious (p : Point) (n : HeadNo) (d : Head) : (p.putHead n d).spurious = p.spurious := by
  cases n <;> rfl

namespace Machine

/-- Settles O17: the cases of a head line's level that stop before the crossing machine. -/
theorem headChangesFollowed : Obligations.HeadChangesFollowed := by
  intro s h v d
  have cutOff : s.Running → d.level ≠ v → d.health = .cutOff →
      exec (.headChange h v) s = .next (s.setSite ((s.site.pinned h v).putPoint h.point
        ((s.site.point h.point).putHead h.no { level := v, health := .cutOff, lastChange := s.site.now }))) :=
    fun hrun hl hh => by
      rw [exec_headChange, Site.headChange_of_cutOff hrun hl hh, Site.changedPoint, Head.change_of_cutOff hh]
  refine ⟨fun hm => ?_, fun _ hl => ?_, cutOff, fun hrun hl ho => ?_, fun _ _ => ⟨_, rfl⟩, rfl, rfl, fun hs hv => ?_,
    fun hs => Head.change_health_of_ne hs _⟩
  · rw [exec_headChange, Site.headChange_of_not_running hm]
  · rw [exec_headChange, Site.headChange_of_same hl]
  · have hh : d.health = .cutOff := Point.head_of_out ho h.no
    refine ⟨hh, _, cutOff hrun hl hh, ?_, ?_, ?_, rfl, rfl⟩
    · simp [Site.putPoint_point]
    · simp [Site.putPoint_point]
    · rw [Site.putPoint_point, if_pos rfl, Point.condition_putHead hh.symm]
      exact ho
  · rw [hv]; exact Head.change_health_of_standing hs _

end Machine

/-! ### A head's health -/

theorem elapsed_iff (now start limit : Nat) : elapsed now start limit = true ↔ start + limit ≤ now := decide_eq_true_iff

/-- The stuck timer is due: an IN_SERVICE head occupied for the limit (R2). -/
theorem Head.stuckDue_iff (d : Head) (now limit : Nat) : d.stuckDue now limit = true ↔
    d.health = .inService ∧ d.level = .occupied ∧ d.lastChange + 10000 * limit ≤ now := by
  simp only [Head.stuckDue, elapsed_iff, seconds, Bool.and_eq_true, beq_iff_eq, and_assoc]

/-- The quiet timer is due: a CUT_OFF head clear for the period (R4). -/
theorem Head.quietDue_iff (d : Head) (now limit : Nat) : d.quietDue now limit = true ↔
    d.health = .cutOff ∧ d.level = .clear ∧ d.lastChange + 10000 * limit ≤ now := by
  simp only [Head.quietDue, elapsed_iff, seconds, Bool.and_eq_true, beq_iff_eq, and_assoc]

/-- A restart reads the health of the heads and changes none (R8). -/
@[simp] theorem Point.restart_condition (p : Point) : p.restart.condition = p.condition := rfl

/-- What a restart gives, by whether a head that is not CUT_OFF is occupied (R8). -/
theorem Point.restart_eq {p : Point} {m : CrossState}
    (h : (m = .settling ∧ (p.head1.health ≠ .cutOff ∧ p.head1.level = .occupied ∨
          p.head2.health ≠ .cutOff ∧ p.head2.level = .occupied)) ∨
        (m = .idle ∧ ¬(p.head1.health ≠ .cutOff ∧ p.head1.level = .occupied) ∧
          ¬(p.head2.health ≠ .cutOff ∧ p.head2.level = .occupied))) :
    p.restart = { p with machine := m, lead := none, interval := none, rocked := false } := by
  unfold Point.restart
  obtain ⟨hm, hs⟩ | ⟨hm, h1, h2⟩ := h
  · rw [if_pos (p.seenOccupied_iff.2 hs), hm]
  · rw [if_neg (fun k => (p.seenOccupied_iff.1 k).elim h1 h2), hm]

/-- A head's health changed and the condition of its point not: the point's machine goes on (R7). -/
theorem Point.setHealth_of_same {p : Point} {n : HeadNo} {v : HeadHealth}
    (h : (p.putHead n { p.head n with health := v }).condition = p.condition) :
    p.setHealth n v = p.putHead n { p.head n with health := v } := if_pos h

/-- A change of condition restarts the point's machine (R8). -/
theorem Point.setHealth_of_changed {p : Point} {n : HeadNo} {v : HeadHealth}
    (h : (p.putHead n { p.head n with health := v }).condition ≠ p.condition) :
    p.setHealth n v = (p.putHead n { p.head n with health := v }).restart := if_neg h

/-- The condition after a head's health is changed (R7). -/
theorem Point.setHealth_condition (p : Point) (n : HeadNo) (v : HeadHealth) :
    (p.setHealth n v).condition = (p.putHead n { p.head n with health := v }).condition := by
  by_cases h : (p.putHead n { p.head n with health := v }).condition = p.condition
  · rw [Point.setHealth_of_same h]
  · rw [Point.setHealth_of_changed h, Point.restart_condition]

namespace Site

variable {t : Site} {h : HeadId} {v : HeadHealth}

theorem isOut_iff (t : Site) (p : PointId) : t.isOut p = true ↔ (t.point p).condition = .out := by simp [isOut]

theorem isOut_eq_false_iff (t : Site) (p : PointId) : t.isOut p = false ↔ (t.point p).condition ≠ .out := by simp [isOut]

@[simp] theorem raiseIf_true (s : Site) (f : Flag) : s.raiseIf true f = s.raise f := rfl
@[simp] theorem raiseIf_false (s : Site) (f : Flag) : s.raiseIf false f = s := rfl
@[simp] theorem raise_point (s : Site) (f : Flag) (p : PointId) : (s.raise f).point p = s.point p := rfl

/-- A change of health that leaves the condition sets no flag (R7). -/
theorem setHealth_of_same (hc : ((t.point h.point).setHealth h.no v).condition = (t.point h.point).condition) :
    t.setHealth h v = t.putPoint h.point ((t.point h.point).setHealth h.no v) := by
  simp [setHealth, hc]

/-- A change to NORMAL sets no flag (R7). -/
theorem setHealth_of_normal (hc : ((t.point h.point).setHealth h.no v).condition = .normal) :
    t.setHealth h v = t.putPoint h.point ((t.point h.point).setHealth h.no v) := by
  simp [setHealth, hc]

/-- An entry to DEGRADED or OUT sets HEAD_CUT_OFF (R7). -/
theorem setHealth_of_entry (hc : ((t.point h.point).setHealth h.no v).condition ≠ (t.point h.point).condition)
    (hn : ((t.point h.point).setHealth h.no v).condition ≠ .normal) :
    t.setHealth h v = (t.putPoint h.point ((t.point h.point).setHealth h.no v)).raise .headCutOff := by
  have hb : ((((t.point h.point).setHealth h.no v).condition != (t.point h.point).condition &&
      ((t.point h.point).setHealth h.no v).condition != .normal)) = true := by simp [hc, hn]
  simp only [setHealth, hb, raiseIf_true]

/-- The point of a head whose health is changed. -/
theorem setHealth_point_self (t : Site) (h : HeadId) (v : HeadHealth) :
    (t.setHealth h v).point h.point = (t.point h.point).setHealth h.no v := by
  unfold setHealth raiseIf
  dsimp only
  split <;> simp [putPoint_point]

/-- Unless its point becomes OUT, a change of health touches no check set (R29). -/
theorem changeHealth_of_not_out (ho : (t.point h.point).condition = .out ∨ ((t.point h.point).setHealth h.no v).condition ≠ .out) :
    t.changeHealth h v = t.setHealth h v := by
  refine if_neg (fun ⟨h1, h2⟩ => ?_)
  rw [isOut_eq_false_iff] at h1
  rw [isOut_iff, setHealth_point_self] at h2
  exact ho.elim h1 (fun k => k h2)

/-- A point that becomes OUT leaves the check set (R29). -/
theorem changeHealth_of_out (h1 : (t.point h.point).condition ≠ .out) (h2 : ((t.point h.point).setHealth h.no v).condition = .out) :
    t.changeHealth h v = (t.setHealth h v).leaveCheckSet h.point :=
  if_pos ⟨(t.isOut_eq_false_iff _).2 h1, by rw [isOut_iff, setHealth_point_self, h2]⟩

theorem stuckExpiry_of_due (hd : (t.head h).stuckDue t.now (t.setting .stuckLimit) = true) :
    t.stuckExpiry h = t.changeHealth h (if t.passageOpen then .standing else .cutOff) := if_pos hd

theorem stuckExpiry_of_not_due (hd : ¬(t.head h).stuckDue t.now (t.setting .stuckLimit) = true) : t.stuckExpiry h = t := if_neg hd

theorem quietExpiry_of_due (hd : (t.head h).quietDue t.now (t.setting .quietPeriod) = true) :
    t.quietExpiry h = t.changeHealth h .inService := if_pos hd

theorem quietExpiry_of_not_due (hd : ¬(t.head h).quietDue t.now (t.setting .quietPeriod) = true) : t.quietExpiry h = t := if_neg hd

theorem whenRunning_of_running (hm : t.mode = .running) (f : Site → Site) : t.whenRunning f = f t := if_pos hm

/-- HEAD_RESTORE of a number that names a head (R6). -/
theorem headRestore_of_some {body : List Byte} (hn : HeadId.ofNumber (natAt body 0 1) = some h) :
    t.headRestore body = t.restoreHead h := by simp only [headRestore, hn]

/-- HEAD_RESTORE of a number that names none (R6). -/
theorem headRestore_of_none {body : List Byte} (hn : HeadId.ofNumber (natAt body 0 1) = none) :
    t.headRestore body = t.refuse .badValue := by simp only [headRestore, hn]

theorem restoreHead_of_clear (hh : (t.head h).health = .cutOff) (hl : (t.head h).level = .clear) :
    t.restoreHead h = (t.changeHealth h .inService).answerOk [] := by
  unfold head at *
  simp only [restoreHead, hh, hl]

theorem restoreHead_of_occupied (hh : (t.head h).health = .cutOff) (hl : (t.head h).level = .occupied) :
    t.restoreHead h = t.refuse .wrongState := by
  unfold head at *
  simp only [restoreHead, hh, hl]

theorem restoreHead_of_standing (hh : (t.head h).health = .standing) : t.restoreHead h = t.refuse .wrongState := by
  unfold head at *
  simp only [restoreHead, hh]

theorem restoreHead_of_inService (hh : (t.head h).health = .inService) : t.restoreHead h = t.answerOk [] := by
  unfold head at *
  simp only [restoreHead, hh]

end Site

/-- Heads are numbered 1 to 8 (R1). -/
theorem HeadId.ofNumber_isSome (n : Nat) : (HeadId.ofNumber n).isSome = true ↔ 1 ≤ n ∧ n ≤ 8 := by
  refine ⟨fun h => ?_, fun ⟨h1, h8⟩ => by interval_cases n <;> rfl⟩
  unfold HeadId.ofNumber at h
  split at h <;> first | omega | cases h

namespace Machine

theorem exec_headRestore (p : Port) (tag : Byte) (body : List Byte) (s : State) :
    exec (.headRestore p tag body) s = request .headRestore p tag body (fun t => t.headRestore body) s := rfl

theorem exec_stuckTimerExpiry {s : State} (hrun : s.Running) (h : HeadId) :
    exec (.stuckTimerExpiry h) s = .next (s.setSite (s.site.stuckExpiry h)) := by
  rw [← Site.whenRunning_of_running hrun (·.stuckExpiry h)]; rfl

theorem exec_quietTimerExpiry {s : State} (hrun : s.Running) (h : HeadId) :
    exec (.quietTimerExpiry h) s = .next (s.setSite (s.site.quietExpiry h)) := by
  rw [← Site.whenRunning_of_running hrun (·.quietExpiry h)]; rfl

/-- Settles O18: the answer of HEAD_RESTORE, the two head timers, the condition of a point, and the change of a head's health, each
from the lemmas about its definition above. -/
theorem headHealthFollowed : Obligations.HeadHealthFollowed := by
  refine ⟨fun s p tag body ht => ?_, fun s h hrun => ?_, fun p => ⟨p.condition_normal_iff, p.condition_out_iff⟩,
    fun t h v => ?_⟩
  · intro n
    refine ⟨fun hn => ?_, fun h1 h8 => Option.isSome_iff_exists.1 ((HeadId.ofNumber_isSome n).2 ⟨h1, h8⟩), fun h hh => ?_⟩
    · have noHead : HeadId.ofNumber n = none := Option.not_isSome_iff_eq_none.1 (fun k => by
        have := (HeadId.ofNumber_isSome n).1 k
        omega)
      exact request_refused ht tag (Site.headRestore_of_none noHead)
    · have owner : s.site.headRestore body = s.site.restoreHead h := Site.headRestore_of_some hh
      exact ⟨fun hc hl => request_granted ht tag (owner.trans (Site.restoreHead_of_clear hc hl)),
        fun hc hl => request_refused ht tag (owner.trans (Site.restoreHead_of_occupied hc hl)),
        fun hc => request_refused ht tag (owner.trans (Site.restoreHead_of_standing hc)),
        fun hc => request_granted ht tag (owner.trans (Site.restoreHead_of_inService hc))⟩
  · intro d stuck quiet
    have stuckDue : d.stuckDue s.site.now (s.site.setting .stuckLimit) = true ↔ stuck := d.stuckDue_iff _ _
    have quietDue : d.quietDue s.site.now (s.site.setting .quietPeriod) = true ↔ quiet := d.quietDue_iff _ _
    rw [exec_stuckTimerExpiry hrun, exec_quietTimerExpiry hrun]
    refine ⟨fun hd ho => ?_, fun hd ho => ?_, fun hd => ?_, fun hd => ?_, fun hd => ?_⟩
    · rw [Site.stuckExpiry_of_due (stuckDue.2 hd), ho]; rfl
    · rw [Site.stuckExpiry_of_due (stuckDue.2 hd), ho]; rfl
    · rw [Site.stuckExpiry_of_not_due (fun k => hd (stuckDue.1 k)), State.setSite_self]
    · rw [Site.quietExpiry_of_due (quietDue.2 hd)]
    · rw [Site.quietExpiry_of_not_due (fun k => hd (quietDue.1 k)), State.setSite_self]
  · intro old q followed again
    have cond : (old.setHealth h.no v).condition = q.condition := old.setHealth_condition h.no v
    refine ⟨fun hc => ?_, fun hc m hm => ?_⟩
    · have same : (old.setHealth h.no v).condition = old.condition := cond.trans hc
      have point : old.setHealth h.no v = q := Point.setHealth_of_same hc
      rw [Site.changeHealth_of_not_out, Site.setHealth_of_same same, point]
      by_cases ho : old.condition = .out
      · exact .inl ho
      · exact .inr (fun k => ho (same.symm.trans k))
    · have changed : (old.setHealth h.no v).condition ≠ old.condition := fun k => hc (cond.symm.trans k)
      have point : old.setHealth h.no v = again m := (Point.setHealth_of_changed hc).trans (Point.restart_eq hm)
      have notOut : q.condition ≠ .out → t.changeHealth h v = t.setHealth h v := fun ho =>
        Site.changeHealth_of_not_out (.inr (fun k => ho (cond.symm.trans k)))
      have entry : q.condition ≠ .normal → t.setHealth h v = (t.putPoint h.point (again m)).raise .headCutOff := fun hn => by
        rw [Site.setHealth_of_entry changed (fun k => hn (cond.symm.trans k)), point]
      refine ⟨fun hn => ?_, fun hd => ?_, fun ho => ?_⟩
      · rw [notOut (by rw [hn]; decide), Site.setHealth_of_normal (cond.trans hn), point]
      · rw [notOut (by rw [hd]; decide), entry (by rw [hd]; decide)]
      · rw [Site.changeHealth_of_out (fun k => hc (ho.trans k.symm)) (cond.trans ho), entry (by rw [ho]; decide)]

end Machine

end Sys2Proof
end

section
/-! PROOF. Crossings recorded, taken and counted. -/

namespace Sys2Proof

namespace Site

variable {t : Site}

@[simp] theorem putPoint_passage (t : Site) (p : PointId) (q : Point) : (t.putPoint p q).passage = t.passage := rfl

theorem putPoint_point_self (t : Site) (p : PointId) (q : Point) : (t.putPoint p q).point p = q := by
  rw [putPoint_point, if_pos rfl]

@[simp] theorem putPoint_direction (t : Site) (p : PointId) (q : Point) : (t.putPoint p q).points.direction = t.points.direction := by
  cases p <;> rfl

/-- A point put back as it is. -/
theorem putPoint_self (t : Site) (p : PointId) : t.putPoint p (t.point p) = t := by cases p <;> rfl

/-! ### A crossing recorded (R15) -/

/-- A spurious reverse: a passage is open, and the crossing runs against the counting direction at a net count of 0 (R15). -/
theorem isSpurious_iff (t : Site) (p : PointId) (d : Dir) : t.isSpurious p d = true ↔
    t.passageOpen = true ∧ t.points.direction = some d.flip ∧ (t.point p).net = 0 := by
  simp only [isSpurious, Bool.and_eq_true, beq_iff_eq, and_assoc]

/-- Recording a crossing does not decide whether it is a spurious reverse. -/
theorem recordCrossing_isSpurious (t : Site) (p : PointId) (d : Dir) (i : Option Nat) :
    (t.recordCrossing p d i).isSpurious p d = t.isSpurious p d := by
  simp only [isSpurious, recordCrossing, putPoint_direction, putPoint_point_self, passageOpen, putPoint_passage]

/-- A spurious reverse is recorded, counted and withheld (R15). -/
theorem handOn_of_spurious {p : PointId} {d : Dir} (h : t.isSpurious p d = true) (i : Option Nat) :
    t.handOn p d i = (t.recordCrossing p d i).countSpurious p := by
  simp only [handOn, recordCrossing_isSpurious, h, if_true]

/-- Any other crossing is recorded, taken and counted (R15). -/
theorem handOn_of_not_spurious {p : PointId} {d : Dir} (h : ¬t.isSpurious p d = true) (i : Option Nat) :
    t.handOn p d i = (t.recordCrossing p d i).takeAndCount p d i := by
  simp only [handOn, recordCrossing_isSpurious, h, Bool.false_eq_true, if_false]

end Site

/-! ### The clearing condition (R37) -/

theorem PointId.mem_all (p : PointId) : p ∈ PointId.all := by cases p <;> decide

theorem PassagePhase.running_iff (a : PassagePhase) : a.running = true ↔ a = .inPassage ∨ a = .standstill := by
  cases a <;> decide

/-- A check set without a point has no member. -/
theorem Passage.members_eq_zero {a : Passage} (h : ∀ q, a.watches q = false) : a.members = 0 := by
  have h0 : a.checkSet.getLsbD 0 = false := h .pa
  have h1 : a.checkSet.getLsbD 1 = false := h .ga
  have h2 : a.checkSet.getLsbD 2 = false := h .gb
  have h3 : a.checkSet.getLsbD 3 = false := h .pb
  simp only [Passage.members, setCount, h0, h1, h2, h3, Bool.false_eq_true, if_false]

/-- A check set with members watches some point. -/
theorem Passage.exists_watches {a : Passage} (h : 2 ≤ a.members) : ∃ q, a.watches q = true := by
  by_contra hn
  have := a.members_eq_zero (fun q => Bool.eq_false_iff.2 (fun k => hn ⟨q, k⟩))
  omega

namespace Site

variable {t : Site}

/-- The counts agree when every point watched shows one net count of at least 1. -/
theorem countsAgree_iff (h : ∃ q, t.passage.watches q = true) : t.countsAgree = true ↔
    ∃ n, 1 ≤ n ∧ ∀ q, t.passage.watches q = true → (t.point q).net = n := by
  have mem : ∀ q, q ∈ PointId.all.filter t.passage.watches ↔ t.passage.watches q = true := fun q => by
    simp [PointId.mem_all]
  unfold countsAgree
  cases hl : PointId.all.filter t.passage.watches with
  | nil =>
    obtain ⟨q, hq⟩ := h
    have := (mem q).2 hq
    rw [hl] at this
    cases this
  | cons p ps =>
    rw [hl] at mem
    simp only [List.map_cons, Bool.and_eq_true, decide_eq_true_eq, List.all_eq_true, List.mem_map, beq_iff_eq,
      forall_exists_index, and_imp, forall_apply_eq_imp_iff₂]
    constructor
    · rintro ⟨one, all⟩
      refine ⟨_, one, fun q hq => ?_⟩
      rcases List.mem_cons.1 ((mem q).2 hq) with e | e
      · rw [e]
      · exact all q e
    · rintro ⟨n, one, all⟩
      have hp : (t.point p).net = n := all p ((mem p).1 (List.mem_cons_self ..))
      exact ⟨hp ▸ one, fun q hq => (all q ((mem q).1 (List.mem_cons_of_mem _ hq))).trans hp.symm⟩

/-- The clearing condition: two members or more, all with one net count of at least 1 (R37). -/
theorem clearingCondition_iff (t : Site) : t.clearingCondition = true ↔
    2 ≤ t.passage.members ∧ ∃ n, 1 ≤ n ∧ ∀ q, t.passage.watches q = true → (t.point q).net = n := by
  simp only [clearingCondition, Bool.and_eq_true, decide_eq_true_eq]
  exact and_congr_right (fun h => countsAgree_iff (Passage.exists_watches h))

/-- The test of the clearing condition, where it holds (R37). -/
theorem testClearing_of_agreed (hp : t.passage.phase = .inPassage ∨ t.passage.phase = .standstill)
    (hc : 2 ≤ t.passage.members ∧ ∃ n, 1 ≤ n ∧ ∀ q, t.passage.watches q = true → (t.point q).net = n) :
    t.testClearing = t.becomeClearing .complete :=
  if_pos (by rw [(PassagePhase.running_iff _).2 hp, t.clearingCondition_iff.2 hc]; rfl)

/-- The test of the clearing condition, where it does not hold or the state is not one it is made in (R37). -/
theorem testClearing_of_not_agreed (h : ¬((t.passage.phase = .inPassage ∨ t.passage.phase = .standstill) ∧
    2 ≤ t.passage.members ∧ ∃ n, 1 ≤ n ∧ ∀ q, t.passage.watches q = true → (t.point q).net = n)) :
    t.testClearing = t := by
  refine if_neg (fun k => h ?_)
  rw [Bool.and_eq_true, PassagePhase.running_iff, clearingCondition_iff] at k
  exact k

/-! ### Net counts (R16) -/

theorem countCrossing_of_none (hd : t.points.direction = none) (p : PointId) (d : Dir) (f : GateFigures) :
    t.countCrossing p d f = t := by simp only [countCrossing, hd]

/-- A crossing with the counting direction raises a net count below 4,095 (R16). -/
theorem countCrossing_up {p : PointId} {d : Dir} (hd : t.points.direction = some d) (hn : (t.point p).net < 4095)
    (f : GateFigures) : t.countCrossing p d f =
      (t.putPoint p { t.point p with net := (t.point p).net + 1 }).netChanged p (t.point p).net ((t.point p).net + 1) f := by
  simp only [countCrossing, hd, beq_self_eq_true, Point.count, if_true, if_pos hn]

/-- A net count of 4,095 stays (R16). -/
theorem countCrossing_full {p : PointId} {d : Dir} (hd : t.points.direction = some d) (hn : 4095 ≤ (t.point p).net)
    (f : GateFigures) : t.countCrossing p d f = t := by
  simp only [countCrossing, hd, beq_self_eq_true, Point.count, if_true, if_neg (Nat.not_lt.2 hn), putPoint_self]

theorem beq_flip (d : Dir) : (d == d.flip) = false := by cases d <;> decide

/-- A crossing against the counting direction lowers a net count above 0 (R16). -/
theorem countCrossing_down {p : PointId} {d : Dir} (hd : t.points.direction = some d.flip) (hn : 0 < (t.point p).net)
    (f : GateFigures) : t.countCrossing p d f =
      (t.putPoint p { t.point p with net := (t.point p).net - 1 }).netChanged p (t.point p).net ((t.point p).net - 1) f := by
  simp only [countCrossing, hd, beq_flip, Point.count, Bool.false_eq_true, if_false, if_pos hn]

/-- A crossing against the counting direction at 0 is a spurious reverse (R16, R17). -/
theorem countCrossing_spurious {p : PointId} {d : Dir} (hd : t.points.direction = some d.flip) (hn : (t.point p).net = 0)
    (f : GateFigures) : t.countCrossing p d f = t.countSpurious p := by
  have not : ¬0 < (t.point p).net := by omega
  simp only [countCrossing, hd, beq_flip, Point.count, Bool.false_eq_true, if_false, if_neg not]
  rfl

/-- Setting the counting direction takes every point anew (R16). -/
theorem setDirection_point (t : Site) (d : Dir) (p : PointId) : (t.setDirection d).point p = (t.point p).forNewDirection := by
  cases p <;> rfl

end Site

namespace Machine

/-- Settles O19: a crossing recorded (`Site.handOn`), taken and tested (`Site.testClearing`), and counted, row by row
(`Site.countCrossing`). -/
theorem crossingTakenAndCounted : Obligations.CrossingTakenAndCounted := by
  refine ⟨fun t p d i => ?_, fun t p d i => ?_, fun t p d f => ?_⟩
  · intro t1 spurious
    refine ⟨fun h => ?_, fun h => Site.handOn_of_not_spurious (fun k => h ((t.isSpurious_iff p d).1 k)) i⟩
    have counter : (t1.point p).spurious = (t.point p).spurious := by simp only [t1, Site.putPoint_point_self]
    rw [Site.handOn_of_spurious ((t.isSpurious_iff p d).2 h), ← counter]
    rfl
  · intro r u agreed
    refine ⟨fun h => ?_, fun hp ⟨hu, hc⟩ => ?_⟩
    · by_cases hp : t.passage.phase = .clearing
      · exact (if_pos hp).trans (Site.testClearing_of_not_agreed (h.resolve_left (fun k => k hp)))
      · exact if_neg hp
    · exact (if_pos hp).trans (Site.testClearing_of_agreed hu hc)
  · intro q
    refine ⟨fun hd => Site.countCrossing_of_none hd p d f, fun hd hn => Site.countCrossing_up hd hn f,
      fun hd hn => Site.countCrossing_full hd hn f, fun hd hn => Site.countCrossing_down hd hn f,
      fun hd hn => Site.countCrossing_spurious hd hn f, rfl, fun r => ?_, rfl⟩
    rw [Site.setDirection_point]
    refine ⟨rfl, fun c hc => ?_⟩
    obtain ⟨b, -, hb⟩ := Option.map_eq_some_iff.1 hc
    rw [← hb]

end Machine

end Sys2Proof
end

section
/-! PROOF. The status reads of the trackside. -/

namespace Sys2Proof

/-! ### The bodies of the status reads -/

/-- The body of POINT_STATUS, point by point (R18). -/
theorem Site.pointStatusBody_eq (t : Site) : t.pointStatusBody =
    dirField t.points.direction ++ (t.point .pa).statusField t.now ++ (t.point .ga).statusField t.now ++
      (t.point .gb).statusField t.now ++ (t.point .pb).statusField t.now := by
  simp only [Site.pointStatusBody, PointId.all, List.flatMap_cons, List.flatMap_nil, List.append_nil, List.append_assoc]

/-- A timer that runs shows its seconds remaining, rounded up (R44). -/
theorem Site.timerField_of_some {t : Site} {n : TimerName} {x limit : Nat} (hs : t.passage.timers.get n = some x)
    (hl : t.timerLimit n = 10000 * limit) :
    t.timerField n = leBytes 1 0 ++ leBytes 2 ((x + 10000 * limit - t.now + 9999) / 10000) := by
  simp only [Site.timerField, hs, hl, ceilDiv]
  rfl

/-- A timer that is stopped shows a free value (R44; log 15). -/
theorem Site.timerField_of_none {t : Site} {n : TimerName} (hs : t.passage.timers.get n = none) :
    t.timerField n = leBytes 1 1 ++ leBytes 2 (Config.stoppedSeconds t.freeDraws n).toNat := by
  simp only [Site.timerField, hs]
  rfl

/-- The five timers of PASSAGE_STATUS, in R44's order. -/
theorem Site.timerFields_eq (t : Site) : TimerName.all.flatMap t.timerField =
    t.timerField .arm ++ t.timerField .armTimeout ++ t.timerField .standstill ++ t.timerField .clear ++ t.timerField .limit := by
  simp only [TimerName.all, List.flatMap_cons, List.flatMap_nil, List.append_nil, List.append_assoc]

/-- A table of eight as a list. -/
theorem toList_eight {α : Type} (v : Vector α 8) : v.toList = [v[0], v[1], v[2], v[3], v[4], v[5], v[6], v[7]] := by
  refine List.ext_getElem (by simp) (fun i h _ => ?_)
  have hi : i < 8 := by simpa using h
  interval_cases i <;> simp

/-- The body of MODULE_STATUS, module by module (R91). -/
theorem Site.moduleStatusBody_eq (t : Site) :
    let l (n : Fin 8) := (t.line n).statusField n
    t.moduleStatusBody = optField 2 (t.modules.passageNumber.map wordField) ++ yesNo t.modules.reversed ++
      optInt 2 t.modules.ambient ++ l 0 ++ l 1 ++ l 2 ++ l 3 ++ l 4 ++ l 5 ++ l 6 ++ l 7 := by
  simp only [Site.moduleStatusBody, toList_eight, mapFrom, List.flatten_cons, List.flatten_nil, List.append_nil, List.append_assoc]
  rfl

namespace Machine

/-- Settles O20: each of the three answers OK with its body, written out field by field. -/
theorem tracksideStatusReads : Obligations.TracksideStatusReads := by
  refine ⟨fun s p tag body ht => ?_, fun s p tag body ht => ?_, fun s p tag body ht => ?_⟩
  · intro head last point
    refine request_granted ht tag (owner := fun t => t.pointStatus) ?_
    rw [Site.pointStatus, Site.pointStatusBody_eq]
    rfl
  · intro t a timer
    have field : ∀ (n : TimerName) (limit : Nat), t.timerLimit n = 10000 * limit →
        t.timerField n = timer (a.timers.get n) limit n := fun n limit hl => by
      cases hs : a.timers.get n with
      | some x => exact Site.timerField_of_some hs hl
      | none => exact Site.timerField_of_none hs
    refine request_granted ht tag (owner := fun t => t.passageStatus) ?_
    rw [Site.passageStatus, Site.passageStatusBody, Site.timerFields_eq, field .arm _ rfl, field .armTimeout _ rfl,
      field .standstill _ rfl, field .clear _ rfl, field .limit _ rfl]
    simp only [List.append_assoc]
    rfl
  · intro m line
    refine request_granted ht tag (owner := fun t => t.moduleStatus) ?_
    rw [Site.moduleStatus, Site.moduleStatusBody_eq]
    rfl

end Machine

end Sys2Proof
end

section
/-! PROOF. Approach crossings before a passage is open. -/

namespace Sys2Proof

namespace Site

variable {t : Site} {p : PointId} {d : Dir}

/-! ### Approach crossings before a passage is open (R21, R25) -/

/-- No counting gate is an approach, so an approach crossing is none of the counting gate (R34, R35). -/
theorem takeGateCrossing_of_approach (hp : p = .pa ∨ p = .pb) (i : Option Nat) :
    t.takeGateCrossing p d i = (t, { speed := none, gap := none }) := by
  have hg : ∀ g : Gate, g.point ≠ p := by
    intro g
    rcases hp with rfl | rfl <;> cases g <;> decide
  unfold takeGateCrossing
  split
  · exact if_neg (hg _)
  · rfl

/-- An approach crossing before a passage is open is taken as such, and no more. -/
theorem takeCrossing_of_approach (hp : p = .pa ∨ p = .pb) (ho : t.passageOpen = false) (i : Option Nat) :
    (t.takeCrossing p d i).1 = t.takeApproach p d := by
  have hn : p.gate.isNone = true := by rcases hp with rfl | rfl <;> rfl
  simp only [takeCrossing, ho, hn, Bool.false_eq_true, if_false, if_true, takeGateCrossing_of_approach hp]

theorem takeApproach_of_outward (hi : t.passage.phase = .idle) (hh : t.passage.held = false) (hd : d ≠ p.inward) :
    t.takeApproach p d = t := by
  simp only [takeApproach, hi, hh, hd, and_self, if_true, if_false]

theorem takeApproach_of_inward (hi : t.passage.phase = .idle) (hh : t.passage.held = false) (hd : d = p.inward) :
    t.takeApproach p d = t.armSite d := by
  simp only [takeApproach, hi, hh, ← hd, and_self, if_true]

theorem takeApproach_of_armed (hi : t.passage.phase ≠ .idle) : t.takeApproach p d = t.testOpposing p d :=
  if_neg (fun k => hi k.1)

/-- An inward crossing at the far approach is an opposing approach (R25). -/
theorem testOpposing_of_far {e : Dir} (he : t.passage.expected = some e) (hp : p = e.farApproach) (hd : d = p.inward) :
    t.testOpposing p d = (t.addPending .opposingApproach).raise .opposingApproach := by
  simp only [testOpposing, he]
  exact if_pos ⟨hp, hd⟩

theorem testOpposing_of_other {e : Dir} (he : t.passage.expected = some e) (h : p ≠ e.farApproach ∨ d ≠ p.inward) :
    t.testOpposing p d = t := by
  simp only [testOpposing, he]
  exact if_neg (fun k => h.elim (fun n => n k.1) (fun n => n k.2))

/-! ### The site armed (R21, R23) -/

theorem gatesOut_iff (t : Site) : t.gatesOut = true ↔ t.isOut .ga = true ∧ t.isOut .gb = true := by
  simp only [gatesOut, Bool.and_eq_true]

theorem armSite_of_gatesOut (h : t.gatesOut = true) (d : Dir) : t.armSite d = t.falseApproach.raise .gatesOut := if_pos h

/-- What a passage controller holds that keeps what the call for a new passage gave it (R20, R23, R73). -/
theorem CalledFor.of_passage {r u : Site} (h : t.CalledFor d r) (expected : u.passage.expected = r.passage.expected)
    (serial : u.passage.serial = r.passage.serial) (moment : u.passage.armedMoment = r.passage.armedMoment)
    (latched : u.passage.latched = r.passage.latched) (arm : u.passage.timers.arm = r.passage.timers.arm)
    (store : u.store = r.store) (points : u.points = r.points) (modules : u.modules = r.modules) : t.CalledFor d u := by
  unfold CalledFor point line at *
  rw [expected, serial, moment, latched, arm, store, points, modules]
  exact h

/-- A site that differs in its passage controller alone differs in nothing beside. -/
theorem SameBeside.setPassage {r : Site} (h : t.SameBeside r) (a : Passage) : t.SameBeside (r.setPassage a) := h

/-- The site armed: the passage controller that R21 and R23 give, set after the call for a new passage. -/
theorem armSite_of_gates (h : ¬t.gatesOut = true) (hh : t.passage.held = false) (d : Dir) :
    ∃ a : Passage, t.armSite d = (t.callModules d).setPassage a ∧
      (¬t.NoneFitted → a = { (t.callModules d).passage with phase := .arming }) ∧
      (t.NoneFitted → a =
        { (t.callModules d).passage with
          phase := .armed
          timers := { (t.callModules d).passage.timers with armTimeout := some t.now } }) := by
  have fits := t.callModules_nothingFitted d
  have held : (t.callModules d).passage.held = false := by rw [callModules_passage]; exact hh
  obtain ⟨-, now, -⟩ := t.callModules_beside d
  by_cases hf : t.NoneFitted
  · have nothing : ((t.callModules d).updatePassage (fun p => { p with phase := .arming })).nothingFitted = true := fits.2 hf
    refine ⟨_, ?_, fun k => absurd hf k, fun _ => rfl⟩
    rw [armSite, if_neg h, armedAtOnce, if_pos nothing, becomeArmed, ← now]
    refine (if_pos rfl).trans ?_
    simp only [updatePassage, setPassage_passage, held, Bool.false_eq_true, if_false]
    rfl
  · have something : ¬((t.callModules d).updatePassage (fun p => { p with phase := .arming })).nothingFitted = true :=
      fun k => hf (fits.1 k)
    refine ⟨_, ?_, fun _ => rfl, fun k => absurd k hf⟩
    rw [armSite, if_neg h, armedAtOnce, if_neg something]
    rfl

end Site

namespace Machine

/-- Settles O21: the two branches of an approach crossing, in IDLE and in ARMING or ARMED; arming is the call for a new passage
(`Site.callModules_calledFor`) with the state of the controller set after it (`Site.armSite_of_gates`). -/
theorem approachCrossings : Obligations.ApproachCrossings := by
  intro t p d i hp hh r fitted none8 called
  have approach : t.passageOpen = false → r = t.takeApproach p d := fun ho => Site.takeCrossing_of_approach hp ho i
  have closed : ∀ {a : PassagePhase}, t.passage.phase = a → a.isOpen = false → r = t.takeApproach p d := fun ha ho =>
    approach (by rw [Site.passageOpen, ha, ho])
  have waiting : t.passage.phase = .arming ∨ t.passage.phase = .armed → r = t.testOpposing p d := by
    rintro (h | h) <;> rw [closed h rfl, Site.takeApproach_of_armed (by rw [h]; decide)]
  refine ⟨fun hi hd => ?_, fun hi hd ha hb => ?_, fun hi hd ho => ?_, fun e hw he hf hd => ?_, fun e hw he hf => ?_⟩
  · rw [closed hi rfl, Site.takeApproach_of_outward hi hh hd]
  · rw [closed hi rfl, Site.takeApproach_of_inward hi hh hd, Site.armSite_of_gatesOut (t.gatesOut_iff.2 ⟨ha, hb⟩)]
    rfl
  · have gates : ¬t.gatesOut = true := fun k => by
      obtain ⟨ka, kb⟩ := t.gatesOut_iff.1 k
      rw [ka, kb] at ho
      rcases ho with ho | ho <;> cases ho
    obtain ⟨a, ha, some8, no8⟩ := Site.armSite_of_gates gates hh d
    have hr : r = (t.callModules d).setPassage a := by
      rw [closed hi rfl, Site.takeApproach_of_inward hi hh hd, ha]
    have keeps : a.expected = (t.callModules d).passage.expected ∧ a.serial = (t.callModules d).passage.serial ∧
        a.armedMoment = (t.callModules d).passage.armedMoment ∧ a.latched = (t.callModules d).passage.latched ∧
        a.timers.arm = (t.callModules d).passage.timers.arm := by
      by_cases hf : t.NoneFitted
      · rw [no8 hf]; exact ⟨rfl, rfl, rfl, rfl, rfl⟩
      · rw [some8 hf]; exact ⟨rfl, rfl, rfl, rfl, rfl⟩
    obtain ⟨expected, serial, moment, latched, arm⟩ := keeps
    have fits : (t.callModules d).nothingFitted = true ↔ none8 := t.callModules_nothingFitted d
    rw [hr]
    refine ⟨(t.callModules_calledFor d).of_passage expected serial moment latched arm rfl rfl rfl,
      (t.callModules_beside d).setPassage a, fun hn => ?_, fun hn => ?_⟩
    · rw [Site.setPassage_passage, some8 hn, Site.callModules_passage, if_neg (fun k => hn (fits.1 k))]
    · rw [Site.setPassage_passage, no8 hn, Site.callModules_passage, if_pos (fits.2 hn)]
  · rw [waiting hw, Site.testOpposing_of_far he hf hd]
  · rw [waiting hw, Site.testOpposing_of_other he hf]

end Machine

end Sys2Proof
end

section
/-! PROOF. Gate crossings before a passage is open: what they call for, and the passage they open or hold. -/

namespace Sys2Proof

/-! ### Sets of causes and of points -/

theorem Cause.bit_lt (c : Cause) : c.bit < 22 := by cases c <;> decide

/-- The bits number the causes in their order, so a bit gives its cause back. -/
theorem Cause.ofNat_bit (c : Cause) : Cause.ofNat c.bit = c := by cases c <;> rfl

theorem Cause.bit_inj {c k : Cause} : c.bit = k.bit ↔ c = k :=
  ⟨fun h => by rw [← c.ofNat_bit, h, k.ofNat_bit], fun h => h ▸ rfl⟩

theorem PointId.bit_lt (p : PointId) : p.bit < 4 := by cases p <;> decide

theorem PointId.bit_inj {p q : PointId} : p.bit = q.bit ↔ p = q := by
  cases p <;> cases q <;> decide

/-- The causes of a set with one added. -/
theorem has_setAdd_cause (b : BitVec 22) (c k : Cause) :
    (setAdd b c.bit).getLsbD k.bit = true ↔ b.getLsbD k.bit = true ∨ k = c := by
  have h : (setAdd b c.bit).getLsbD k.bit = (b.getLsbD k.bit || decide (k.bit = c.bit)) := setHas_setAdd b k.bit c.bit k.bit_lt
  rw [h, Bool.or_eq_true, decide_eq_true_eq, Cause.bit_inj]

namespace Site

variable {t : Site} {d : Dir}

/-! ### The check set formed at an opening (R29) -/

/-- A point added to a check set unless it is OUT. -/
theorem addMember_has (t : Site) (p q : PointId) (b : BitVec 4) :
    setHas (t.addMember p b) q.bit = true ↔ setHas b q.bit = true ∨ (q = p ∧ t.isOut q = false) := by
  unfold addMember
  by_cases ho : t.isOut p = true
  · rw [if_pos ho]
    refine ⟨.inl, fun h => h.resolve_right (fun ⟨e, k⟩ => ?_)⟩
    rw [e, ho] at k; cases k
  · rw [if_neg ho, setHas_setAdd b q.bit p.bit q.bit_lt, Bool.or_eq_true, decide_eq_true_eq, PointId.bit_inj]
    refine or_congr_right ⟨fun e => ⟨e, ?_⟩, fun e => e.1⟩
    rw [e]; exact Bool.eq_false_iff.2 ho

theorem leavesOutUpstream_iff (b : BitVec 22) : leavesOutUpstream b = true ↔
    b.getLsbD Cause.unannounced.bit = true ∨ b.getLsbD Cause.directionMismatch.bit = true := by
  simp only [leavesOutUpstream, setHas, Bool.or_eq_true]

/-- The members of the check set formed at an opening: the gates and the upstream approach, unless they are OUT, and the upstream
approach not with the causes that leave it out (R29). -/
theorem formCheckSet_has (t : Site) (d : Dir) (b : BitVec 22) (q : PointId) :
    setHas (t.formCheckSet d b) q.bit = true ↔ t.isOut q = false ∧ (q = d.entryGate.point ∨ q = d.exitGate.point ∨
      (q = d.upstream ∧ ¬leavesOutUpstream b = true)) := by
  have empty : ¬setHas (0#4) q.bit = true := by cases q <;> decide
  unfold formCheckSet
  by_cases hl : leavesOutUpstream b = true
  · simp only [hl, if_true, addMember_has, empty, not_true_eq_false, and_false, or_false]
    tauto
  · simp only [hl, Bool.false_eq_true, if_false, addMember_has, empty, not_false_eq_true, and_true, false_or]
    tauto

/-! ### A gate crossing before it opens a passage or holds an opening (R22, R26, R30) -/

/-- The site that a gate crossing opens from, or holds the opening on: a new passage called for in IDLE, the passage called for
before with R26's causes otherwise. -/
def gateCalled (t : Site) (d : Dir) : Site :=
  if t.passage.phase = .idle then ((t.headFor d).callModules d).addPending .unannounced else t.fromArming d

theorem takeFirstGate_of_free (h : t.composition = none) (d : Dir) : t.takeFirstGate d = (t.gateCalled d).openPassage d false := by
  have hc : t.composing = false := by simp only [composing, h, Option.isSome_none]
  simp only [takeFirstGate, gateCalled, hc, Bool.false_eq_true, if_false, openUnannounced, openArmed]
  split
  · rfl
  · rfl

/-- An opening held on a site: the cause, the mark, the counting gate decided, no last counting-gate crossing (R30, R31). -/
def heldFrom (u : Site) (d : Dir) : Site :=
  (u.addPending .openedLate).updatePassage
    (fun p => { p with lastGate := none, held := true, gate := some (u.chooseGate d) })

theorem takeFirstGate_of_composing (h : t.composition ≠ none) (d : Dir) : t.takeFirstGate d = (t.gateCalled d).heldFrom d := by
  have hc : t.composing = true := Option.isSome_iff_ne_none.2 h
  simp only [takeFirstGate, gateCalled, heldFrom, hc, if_true, holdOpening]

/-- A crossing in ARMING or ARMED: LATE_ARM or the arm timeout stopped, the direction, and R26's mismatch. -/
theorem fromArming_eq (t : Site) (d : Dir) : t.fromArming d =
    ((t.setPassage
      { t.passage with
        direction := some d
        pending :=
          let late := if t.passage.phase = .arming then setAdd t.passage.pending Cause.lateArm.bit else t.passage.pending
          if t.passage.expected = some d then late else setAdd late Cause.directionMismatch.bit
        timers := if t.passage.phase = .arming then t.passage.timers else { t.passage.timers with armTimeout := none } }).setPoints
      (if t.passage.expected = some d then t.points else (t.setDirection d).points)).setModules
      (if t.passage.expected = some d then t.modules else { t.modules with reversed := true }) := by
  unfold fromArming applyMismatch
  by_cases hp : t.passage.phase = .arming <;> by_cases he : t.passage.expected = some d
  · simp only [hp, he, headFor, updatePassage, addPending, setPassage_passage, if_true]; rfl
  · simp only [hp, he, headFor, updatePassage, addPending, setPassage_passage, if_true, if_false]; rfl
  · simp only [hp, he, headFor, updatePassage, updateTimers, setTimers, setPassage_passage, if_true, if_false]; rfl
  · simp only [hp, he, headFor, updatePassage, updateTimers, setTimers, addPending, setPassage_passage, if_false]; rfl

/-- The causes pending once a gate crossing opens a passage or holds the opening: those pending, UNANNOUNCED in IDLE, LATE_ARM in
ARMING, DIRECTION_MISMATCH against the expected direction (R22, R26). -/
def GainedCause (t : Site) (d : Dir) (k : Cause) : Prop :=
  t.passage.pending.getLsbD k.bit = true ∨ (k = .unannounced ∧ t.passage.phase = .idle) ∨
    (k = .lateArm ∧ t.passage.phase = .arming) ∨
    (k = .directionMismatch ∧ t.passage.phase ≠ .idle ∧ t.passage.expected ≠ some d)

/-- A gate crossing in ARMING or ARMED in the expected direction (R26). -/
abbrev Agrees (t : Site) (d : Dir) : Prop := t.passage.phase ≠ .idle ∧ t.passage.expected = some d

/-- What a gate crossing does before it opens a passage or holds an opening, from the site `t` to the site `u`. -/
structure GateCalled (t : Site) (d : Dir) (u : Site) : Prop where
  beside : t.SameBeside u
  called : t.passage.phase = .idle → t.CalledFor d u
  kept : t.passage.phase ≠ .idle → u.store = t.store ∧ u.modules.lines = t.modules.lines ∧
    u.modules.passageNumber = t.modules.passageNumber ∧ u.modules.ambient = t.modules.ambient ∧
    u.passage.expected = t.passage.expected ∧ u.passage.latched = t.passage.latched ∧
    u.passage.armedMoment = t.passage.armedMoment ∧ u.passage.timers.arm = t.passage.timers.arm
  phase : u.passage.phase = t.passage.phase
  direction : u.passage.direction = some d
  serial : u.passage.serial = if t.passage.phase = .idle then some t.store.nextSerial else t.passage.serial
  armTimeout : t.passage.phase = .armed → u.passage.timers.armTimeout = none
  pending : ∀ k : Cause, u.passage.pending.getLsbD k.bit = true ↔ t.GainedCause d k
  points : u.points = if t.Agrees d then t.points else (t.setDirection d).points
  reversed : u.modules.reversed = if t.passage.phase = .idle then false else if t.Agrees d then t.modules.reversed else true

/-- A gate crossing in IDLE calls for a new passage, UNANNOUNCED (R22, R30). -/
theorem gateCalled_of_idle (hi : t.passage.phase = .idle) (d : Dir) : t.GateCalled d (t.gateCalled d) := by
  have called := (t.headFor d).callModules_calledFor d
  have passage := (t.headFor d).callModules_passage d
  obtain ⟨points, modules, -⟩ := (t.headFor d).callModules_rest d
  have reversed := ((t.headFor d).calledUntimed_modules d).2
  have beside := (t.headFor d).callModules_beside d
  have disagrees : ¬t.Agrees d := fun k => k.1 hi
  rw [gateCalled, if_pos hi]
  refine
    { beside := beside.setPassage _
      called := fun _ => called.of_passage rfl rfl rfl rfl rfl rfl rfl rfl
      kept := fun h => absurd hi h
      phase := ?_
      direction := ?_
      serial := ?_
      armTimeout := fun h => by rw [hi] at h; cases h
      pending := fun k => ?_
      points := by rw [if_neg disagrees]; exact points
      reversed := ?_ }
  · rw [addPending, setPassage_passage, passage]; rfl
  · rw [addPending, setPassage_passage, passage]; rfl
  · rw [addPending, setPassage_passage, passage, if_pos hi]; rfl
  · rw [addPending, setPassage_passage, passage]
    refine (has_setAdd_cause _ _ _).trans ?_
    simp [GainedCause, hi, headFor, updatePassage]
  · rw [if_pos hi, addPending, setPassage_modules, modules, reversed]

/-- A gate crossing in ARMING or ARMED goes on with the passage called for (R26, R30). -/
theorem gateCalled_of_waiting (hi : t.passage.phase = .arming ∨ t.passage.phase = .armed) (d : Dir) :
    t.GateCalled d (t.gateCalled d) := by
  have busy : t.passage.phase ≠ .idle := by rcases hi with h | h <;> rw [h] <;> decide
  have agrees : t.Agrees d ↔ t.passage.expected = some d := and_iff_right busy
  rw [gateCalled, if_neg busy, fromArming_eq]
  refine
    { beside := ⟨rfl, rfl, rfl, rfl, rfl, rfl, rfl, rfl, rfl, rfl, rfl, rfl, rfl, rfl⟩
      called := fun h => absurd h busy
      kept := fun _ => ⟨rfl, ?_, ?_, ?_, rfl, rfl, rfl, ?_⟩
      phase := rfl
      direction := rfl
      serial := by rw [if_neg busy]; rfl
      armTimeout := fun h => ?_
      pending := fun k => ?_
      points := by simp only [agrees]; rfl
      reversed := ?_ }
  · simp only [setModules_modules]; split <;> rfl
  · simp only [setModules_modules]; split <;> rfl
  · simp only [setModules_modules]; split <;> rfl
  · simp only [setModules_passage, setPoints_passage, setPassage_passage]; split <;> rfl
  · simp only [setModules_passage, setPoints_passage, setPassage_passage, h]; rfl
  · simp only [setModules_passage, setPoints_passage, setPassage_passage, GainedCause]
    rcases hi with hp | hp <;> by_cases he : t.passage.expected = some d <;>
      simp [hp, he, has_setAdd_cause, or_assoc]
  · simp only [setModules_modules, agrees, if_neg busy]; split <;> rfl

/-- What a gate crossing with no passage open and no opening held does before it opens or holds (R22, R26, R30). -/
theorem gateCalled_spec (hi : t.passage.phase = .idle ∨ t.passage.phase = .arming ∨ t.passage.phase = .armed) (d : Dir) :
    t.GateCalled d (t.gateCalled d) :=
  hi.elim (gateCalled_of_idle · d) (gateCalled_of_waiting · d)

namespace GateCalled

variable {u : Site}

/-- The net counts stand where the crossing agrees with the passage called for, and are 0 otherwise (R16, R26). -/
theorem nets (h : t.GateCalled d u) (q : PointId) : (u.point q).net = if t.Agrees d then (t.point q).net else 0 := by
  unfold point
  rw [h.points]
  split
  · rfl
  · cases q <;> rfl

/-- The counting direction after the crossing (R16, R26). -/
theorem counting (h : t.GateCalled d u) : u.points.direction = if t.Agrees d then t.points.direction else some d := by
  rw [h.points]; split <;> rfl

/-- No point changes its condition. -/
theorem isOut (h : t.GateCalled d u) (q : PointId) : u.isOut q = t.isOut q := by
  unfold Site.isOut point
  rw [h.points]
  split
  · rfl
  · cases q <;> rfl

theorem chooseGate (h : t.GateCalled d u) : u.chooseGate d = t.chooseGate d := by
  simp only [Site.chooseGate, h.isOut]

/-- The upstream approach is left out unless the crossing agrees and no cause that leaves it out was pending (R22, R26, R29). -/
theorem upstream (h : t.GateCalled d u) : ¬leavesOutUpstream u.passage.pending = true ↔
    t.Agrees d ∧ ¬t.passage.pending.getLsbD Cause.unannounced.bit = true ∧
      ¬t.passage.pending.getLsbD Cause.directionMismatch.bit = true := by
  rw [leavesOutUpstream_iff, h.pending, h.pending]
  simp only [GainedCause, reduceCtorEq, false_and, true_and, false_or, or_false]
  tauto

end GateCalled

/-! ### A crossing at the counting gate (R34, R35) -/

/-- A crossing with a counting gate chosen: at that gate it becomes the last counting-gate crossing, elsewhere it changes nothing
(R35). -/
theorem takeGateCrossing_of_gate {g : Gate} (hg : t.passage.gate = some g) (p : PointId) (d : Dir) (i : Option Nat) :
    (t.takeGateCrossing p d i).1 = t.setPassage
      { t.passage with
        lastGate := if g.point = p then some { time := t.now, dir := d, speed := i.bind (speedOf (t.headSpacing g)) }
          else t.passage.lastGate } := by
  simp only [takeGateCrossing, hg]
  rw [← hg]
  split <;> rfl

/-- What stands when a gate crossing has opened a passage or held an opening, of what it did before, with the counting gate chosen
and its last crossing (R28, R31, R35). -/
structure Crossed (u r : Site) (p : PointId) (d : Dir) (i : Option Nat) : Prop where
  store : r.store = u.store
  points : r.points = u.points
  modules : r.modules = u.modules
  expected : r.passage.expected = u.passage.expected
  serial : r.passage.serial = u.passage.serial
  moment : r.passage.armedMoment = u.passage.armedMoment
  latched : r.passage.latched = u.passage.latched
  arm : r.passage.timers.arm = u.passage.timers.arm
  direction : r.passage.direction = u.passage.direction
  gate : r.passage.gate = some (u.chooseGate d)
  lastGate : r.passage.lastGate =
    if (u.chooseGate d).point = p then some { time := u.now, dir := d, speed := i.bind (speedOf (u.headSpacing (u.chooseGate d))) }
    else none

/-- The passage controller once a gate crossing has opened a passage (R27 to R29, R35 to R37). -/
theorem openPassage_takeGateCrossing (u : Site) (p : PointId) (d : Dir) (i : Option Nat) :
    ((u.openPassage d false).takeGateCrossing p d i).1 = (u.openPassage d false).setPassage
      { (u.openPassage d false).passage with
        lastGate := if (u.chooseGate d).point = p then
          some { time := u.now, dir := d, speed := i.bind (speedOf (u.headSpacing (u.chooseGate d))) } else none } := by
  have passage := u.openPassage_passage d false
  obtain ⟨-, now, -⟩ := u.openPassage_rest d false
  have gate : (u.openPassage d false).passage.gate = some (u.chooseGate d) := by rw [passage]
  have spacing : (u.openPassage d false).headSpacing (u.chooseGate d) = u.headSpacing (u.chooseGate d) := by
    cases hg : u.chooseGate d <;> simp only [headSpacing, latchedSetting, passage]
  have last : (u.openPassage d false).passage.lastGate = none := by rw [passage]; rfl
  rw [takeGateCrossing_of_gate gate, now, spacing, last]

theorem crossed_of_open (u : Site) (p : PointId) (d : Dir) (i : Option Nat) :
    u.Crossed ((u.openPassage d false).takeGateCrossing p d i).1 p d i := by
  have passage := u.openPassage_passage d false
  obtain ⟨-, -, -, points, modules, -, -, -, store⟩ := u.openPassage_rest d false
  rw [openPassage_takeGateCrossing]
  exact
    { store := (setPassage_store _ _).trans store
      points := (setPassage_points _ _).trans points
      modules := (setPassage_modules _ _).trans modules
      expected := by rw [setPassage_passage, passage]
      serial := by rw [setPassage_passage, passage]
      moment := by rw [setPassage_passage, passage]
      latched := by rw [setPassage_passage, passage]
      arm := by rw [setPassage_passage, passage]
      direction := by rw [setPassage_passage, passage]
      gate := by rw [setPassage_passage, passage]
      lastGate := by rw [setPassage_passage] }

/-- The passage controller once a gate crossing has held an opening (R30, R31, R35). -/
theorem heldFrom_takeGateCrossing (u : Site) (p : PointId) (d : Dir) (i : Option Nat) :
    ((u.heldFrom d).takeGateCrossing p d i).1 = u.setPassage
      { u.passage with
        pending := setAdd u.passage.pending Cause.openedLate.bit
        held := true
        gate := some (u.chooseGate d)
        lastGate := if (u.chooseGate d).point = p then
          some { time := u.now, dir := d, speed := i.bind (speedOf (u.headSpacing (u.chooseGate d))) } else none } := by
  have spacing : (u.heldFrom d).headSpacing (u.chooseGate d) = u.headSpacing (u.chooseGate d) := by
    cases hg : u.chooseGate d <;> rfl
  rw [takeGateCrossing_of_gate (g := u.chooseGate d) rfl, spacing]
  rfl

theorem crossed_of_held (u : Site) (p : PointId) (d : Dir) (i : Option Nat) :
    u.Crossed ((u.heldFrom d).takeGateCrossing p d i).1 p d i := by
  rw [heldFrom_takeGateCrossing]
  exact ⟨rfl, rfl, rfl, rfl, rfl, rfl, rfl, rfl, rfl, rfl, rfl⟩

/-- A gate crossing with no passage open and no opening held is taken as the first. -/
theorem takeCrossing_of_gate {p : PointId} (hp : p = .ga ∨ p = .gb) (ho : t.passageOpen = false) (hh : t.passage.held = false)
    (d : Dir) (i : Option Nat) : t.takeCrossing p d i = (t.takeFirstGate d).takeGateCrossing p d i := by
  have hn : p.gate.isNone = false := by rcases hp with rfl | rfl <;> rfl
  simp only [takeCrossing, ho, hh, hn, Bool.false_eq_true, if_false]

/-- A cause set with CLOCK_UNSET while the clock is unset (R146). -/
theorem clockCause_has (u : Site) (b : BitVec 22) (k : Cause) : (u.clockCause b).getLsbD k.bit = true ↔
    b.getLsbD k.bit = true ∨ (k = .clockUnset ∧ u.clock.isSet = false) := by
  unfold clockCause
  cases hc : u.clock.isSet
  · simp only [Bool.false_eq_true, if_false, has_setAdd_cause, and_true]
  · simp only [if_true, reduceCtorEq, and_false, or_false]

/-- The causes of the record an opening makes (R27, R28, R146). -/
theorem openingCauses_has (u : Site) (d : Dir) (k : Cause) : (u.openingCauses d).getLsbD k.bit = true ↔
    u.passage.pending.getLsbD k.bit = true ∨ (k = .gateSubstituted ∧ u.chooseGate d ≠ d.entryGate) ∨
      (k = .clockUnset ∧ u.clock.isSet = false) := by
  unfold openingCauses
  by_cases hg : u.chooseGate d = d.entryGate
  · simp only [hg, if_true, clockCause_has, ne_eq, not_true_eq_false, and_false, false_or]
  · rw [if_neg hg, has_setAdd_cause, clockCause_has]
    tauto

end Site

namespace Machine

/-- Settles O22: what the crossing does before it opens or holds (`Site.gateCalled_spec`), and what stands of it after it opened
(`Site.crossed_of_open`) or held (`Site.crossed_of_held`). -/
theorem gateCrossingsOpen : Obligations.GateCrossingsOpen := by
  intro t p d i hp hh hi r gate serial has agrees upstream gained spacing
  have closed : t.passageOpen = false := by rcases hi with h | h | h <;> rw [Site.passageOpen, h] <;> rfl
  have first : t.takeCrossing p d i = (t.takeFirstGate d).takeGateCrossing p d i :=
    Site.takeCrossing_of_gate hp closed hh d i
  generalize hu : t.gateCalled d = u
  have pre : t.GateCalled d u := hu ▸ Site.gateCalled_spec hi d
  have free : t.composition = none → t.takeCrossing p d i = (u.openPassage d false).takeGateCrossing p d i := fun h => by
    rw [first, Site.takeFirstGate_of_free h, hu]
  have busy : t.composition ≠ none → t.takeCrossing p d i = (u.heldFrom d).takeGateCrossing p d i := fun h => by
    rw [first, Site.takeFirstGate_of_composing h, hu]
  have crossed : u.Crossed r p d i := by
    by_cases h : t.composition = none
    · rw [show r = _ from congrArg Prod.fst (free h)]; exact Site.crossed_of_open u p d i
    · rw [show r = _ from congrArg Prod.fst (busy h)]; exact Site.crossed_of_held u p d i
  have chosen : u.chooseGate d = gate := pre.chooseGate
  obtain ⟨-, now, -, roster, -, composition, -, -, -, -, -, -, clock, -⟩ := id pre.beside
  have point : ∀ q, r.point q = u.point q := fun q => by rw [Site.point, crossed.points]; rfl
  have last : r.passage.lastGate = if gate.point = p then some
      { time := t.now, dir := d, speed := i.bind (speedOf spacing) } else none := by
    have space : u.headSpacing gate = spacing := by
      simp only [spacing, crossed.latched]
      cases gate <;> rfl
    rw [crossed.lastGate, chosen, now, space]
  refine ⟨fun h => ?_, fun h => ?_, fun h => by rw [last, if_pos h], fun h => by rw [last, if_neg h],
    fun h q => by rw [point, pre.nets, if_neg h], fun h q => by rw [point, pre.nets, if_pos h],
    by rw [crossed.points]; exact pre.counting, by rw [crossed.modules]; exact pre.reversed, fun hc => ?_, fun hc => ?_⟩
  · exact (pre.called h).of_passage crossed.expected crossed.serial crossed.moment crossed.latched crossed.arm crossed.store
      crossed.points crossed.modules
  · rw [crossed.store, crossed.modules, crossed.expected, crossed.latched, crossed.moment, crossed.arm]
    exact pre.kept h
  · have hr : r = ((u.openPassage d false).takeGateCrossing p d i).1 := congrArg Prod.fst (free hc)
    rw [Site.openPassage_takeGateCrossing] at hr
    have passage := u.openPassage_passage d false
    have live := u.openRecord_startRoster d
    obtain ⟨standing, entries, vehicles, rosterSerial, generation⟩ := live
    have rosterIs : r.roster = (u.openRecord d).startRoster.roster := by
      rw [hr, Site.setPassage_roster, Site.openPassage_roster]
    have record : r.recordAt u.chooseSlot = some { u.newRecord d with causes := u.openingCauses d } := by
      rw [hr]; exact u.openPassage_record d false
    have watches : ∀ q, r.passage.watches q = true ↔
        t.isOut q = false ∧ (q = d.entryGate.point ∨ q = d.exitGate.point ∨ (q = d.upstream ∧ upstream)) := fun q => by
      have set : r.passage.checkSet = u.formCheckSet d u.passage.pending := by
        rw [hr, Site.setPassage_passage, passage]
      rw [Passage.watches, set, Site.formCheckSet_has, pre.isOut, pre.upstream]
    refine ⟨?_, crossed.direction.trans pre.direction, by rw [crossed.gate, chosen], crossed.serial.trans pre.serial, watches,
      ⟨u, pre.beside, free hc⟩, ?_, ?_, ?_, ?_, by rw [rosterIs]; exact standing, by rw [rosterIs]; exact entries,
      by rw [rosterIs]; exact vehicles, by rw [rosterIs]; exact rosterSerial.trans pre.serial,
      by rw [rosterIs]; exact generation.trans (by rw [roster]), _, _, record, rfl, rfl, ?_, ?_, rfl, rfl, fun k => ?_⟩
    · rw [hr, Site.setPassage_passage, passage]
    · rw [hr, Site.setPassage_passage, passage, now]
    · rw [hr, Site.setPassage_passage, passage, now]
    · rw [hr, Site.setPassage_passage, passage]
    · rw [hr, Site.setPassage_passage, passage]
    · exact congrArg (Option.getD · 0#32) pre.serial
    · exact congrArg Clock.reading clock
    · refine (u.openingCauses_has d k).trans ?_
      rw [pre.pending, chosen, clock]
      rfl
  · have hr : r = ((u.heldFrom d).takeGateCrossing p d i).1 := congrArg Prod.fst (busy hc)
    rw [Site.heldFrom_takeGateCrossing] at hr
    refine ⟨by rw [hr]; exact pre.phase, by rw [hr]; rfl, crossed.direction.trans pre.direction, by rw [crossed.gate, chosen],
      crossed.serial.trans pre.serial, fun k => ?_, fun h => by rw [hr]; exact pre.armTimeout h, by rw [hr]; exact pre.beside⟩
    rw [hr]
    exact (has_setAdd_cause _ _ _).trans (or_congr_left (pre.pending k))

end Machine

end Sys2Proof
end

section
/-! PROOF. The settings, the criteria and their requests. -/

namespace Sys2Proof

/-! ### Codes of named values (R195, R217) -/

theorem Setting.ofCode_index (x : Setting) : Setting.ofCode (x.index.val + 1) = some x := by cases x <;> rfl

/-- A number names the setting of that number (R217). -/
theorem Setting.ofCode_eq_some_iff {n : Nat} {x : Setting} : Setting.ofCode n = some x ↔ x.index.val + 1 = n := by
  refine ⟨fun h => ?_, fun h => h ▸ x.ofCode_index⟩
  unfold Setting.ofCode at h
  split at h <;> cases h <;> rfl

/-- The settings are numbered 1 to 30 (R217). -/
theorem Setting.ofCode_isSome (n : Nat) : (Setting.ofCode n).isSome = true ↔ 1 ≤ n ∧ n ≤ 30 := by
  refine ⟨fun h => ?_, fun ⟨h1, h30⟩ => by interval_cases n <;> rfl⟩
  obtain ⟨x, hx⟩ := Option.isSome_iff_exists.1 h
  have := Setting.ofCode_eq_some_iff.1 hx
  omega

theorem Setting.mem_all (x : Setting) : x ∈ Setting.all := by cases x <;> decide

theorem QuantityName.ofCode_eq_some_iff {n : Nat} {q : QuantityName} : QuantityName.ofCode n = some q ↔ n = q.code := by
  refine ⟨fun h => ?_, fun h => by rw [h]; cases q <;> rfl⟩
  unfold QuantityName.ofCode at h
  split at h <;> cases h <;> rfl

theorem Predicate.ofCode_eq_some_iff {n : Nat} {p : Predicate} : Predicate.ofCode n = some p ↔ n = p.code := by
  refine ⟨fun h => ?_, fun h => by rw [h]; cases p <;> rfl⟩
  unfold Predicate.ofCode at h
  split at h <;> cases h <;> rfl

theorem Grade.ofCode_eq_some_iff {n : Nat} {g : Grade} : Grade.ofCode n = some g ↔ n = g.code := by
  refine ⟨fun h => ?_, fun h => by rw [h]; cases g <;> rfl⟩
  unfold Grade.ofCode at h
  split at h <;> cases h <;> rfl

theorem Treatment.ofCode_eq_some_iff {n : Nat} {t : Treatment} : Treatment.ofCode n = some t ↔ n = t.code := by
  refine ⟨fun h => ?_, fun h => by rw [h]; cases t <;> rfl⟩
  unfold Treatment.ofCode at h
  split at h <;> cases h <;> rfl

/-- A yes-or-no byte (R195; log 24). -/
theorem readYesNo_eq_some_iff {body : List Byte} {i : Nat} {b : Bool} :
    readYesNo body i = some b ↔ natAt body i 1 = if b then 1 else 0 := by
  refine ⟨fun h => ?_, fun h => by rw [readYesNo, h]; cases b <;> rfl⟩
  unfold readYesNo at h
  split at h <;> cases h <;> assumption

/-! ### Ranges (R126, R127, R217) -/

/-- The ranges of a criteria entry: a grade above CLEAR, both thresholds in the quantity's range (R126, R129). -/
theorem Criterion.inRange_iff (c : Criterion) : c.inRange = true ↔
    c.grade ≠ .clear ∧ c.quantity.range.1 ≤ c.normal ∧ c.normal ≤ c.quantity.range.2 ∧ c.quantity.range.1 ≤ c.watched ∧
      c.watched ≤ c.quantity.range.2 := by
  simp only [Criterion.inRange, QuantityName.inRange, Bool.and_eq_true, decide_eq_true_eq, bne_iff_ne]
  tauto

theorem Setting.inRange_iff (x : Setting) (v : Int) : x.inRange v = true ↔ x.range.1 ≤ v ∧ v ≤ x.range.2 := by
  simp only [Setting.inRange, Bool.and_eq_true, decide_eq_true_eq]

/-- The criteria entries are numbered 1 to 24 (R128). -/
theorem criterionIndex_eq_some_iff {n : Nat} {i : Fin 24} : criterionIndex n = some i ↔ i.val + 1 = n := by
  unfold criterionIndex
  split
  · next h => simp only [Option.some.injEq, Fin.ext_iff]; omega
  · next h => simp only [reduceCtorEq, false_iff]; omega

/-! ### SETTING_READ and SETTING_WRITE (R218, R219) -/

namespace Site

variable {t : Site} {body : List Byte}

theorem settingRead_of_some {x : Setting} (h : x.index.val + 1 = natAt body 0 1) :
    t.settingRead body = t.answerOk (t.settingBody x) := by
  simp only [settingRead, Setting.ofCode_eq_some_iff.2 h]

theorem settingRead_of_none (h : Setting.ofCode (natAt body 0 1) = none) : t.settingRead body = t.refuse .badValue := by
  simp only [settingRead, h]

theorem settingWrite_of_none (h : Setting.ofCode (natAt body 0 1) = none) : t.settingWrite body = t.refuse .badValue := by
  simp only [settingWrite, h]

theorem settingWrite_of_bad {x : Setting} (h : x.index.val + 1 = natAt body 0 1) (hv : ¬x.inRange (intAt body 1 4) = true) :
    t.settingWrite body = t.refuse .badValue := by
  simp only [settingWrite, Setting.ofCode_eq_some_iff.2 h, hv, Bool.false_eq_true, if_false]

/-- A value in its range is written, and answered by number and value (R219). -/
theorem settingWrite_of_good {x : Setting} (h : x.index.val + 1 = natAt body 0 1) (hv : x.inRange (intAt body 1 4) = true) :
    t.settingWrite body =
      (t.writeSetting x (intAt body 1 4)).answerOk (byteField (natAt body 0 1) ++ leIntBytes 4 (intAt body 1 4)) := by
  simp only [settingWrite, Setting.ofCode_eq_some_iff.2 h, hv, if_true, h]

/-- Writing any setting but the limit of a head timer touches no timer (R5). -/
theorem rescale_of_other {x : Setting} (hs : x ≠ .stuckLimit) (hq : x ≠ .quietPeriod) : t.rescale x = t := by
  unfold rescale
  split
  · exact absurd rfl hs
  · exact absurd rfl hq
  · rfl

/-! ### CRITERION_READ and CRITERION_WRITE (R128, R129) -/

theorem criterionRead_of_some {i : Fin 24} (h : i.val + 1 = natAt body 0 1) :
    t.criterionRead body = t.answerOk ((t.settings.criteria[i]).field ++ wordField t.settings.generation) := by
  simp only [criterionRead, criterionIndex_eq_some_iff.2 h]

theorem criterionRead_of_none (h : criterionIndex (natAt body 0 1) = none) : t.criterionRead body = t.refuse .badValue := by
  simp only [criterionRead, h]

theorem criterionWrite_of_no_number (h : criterionIndex (natAt body 0 1) = none) :
    t.criterionWrite body = t.refuse .badValue := by
  simp only [criterionWrite, h]

theorem criterionWrite_of_no_entry (h : readCriterion body = none) : t.criterionWrite body = t.refuse .badValue := by
  unfold criterionWrite
  split
  · next hc => rw [h] at hc; cases hc
  · rfl

theorem criterionWrite_of_bad {c : Criterion} (h : readCriterion body = some c) (hr : ¬c.inRange = true) :
    t.criterionWrite body = t.refuse .badValue := by
  unfold criterionWrite
  split
  · next k hk =>
    rw [h, Option.some.injEq] at hk
    exact if_neg (hk ▸ hr)
  · rfl

/-- A criteria entry in its ranges is written, and the generation number raised (R126, R129). -/
theorem criterionWrite_of_good {c : Criterion} {i : Fin 24} (hi : i.val + 1 = natAt body 0 1) (h : readCriterion body = some c)
    (hr : c.inRange = true) : t.criterionWrite body =
      (t.setSettings (t.settings.writeCriterion i c)).answerOk (wordField (t.settings.generation + 1#16)) := by
  simp only [criterionWrite, criterionIndex_eq_some_iff.2 hi, h, hr, if_true]

end Site

/-- The entry a CRITERION_WRITE body carries, byte by byte (R129). -/
theorem readCriterion_eq_some_iff {body : List Byte} {c : Criterion} : readCriterion body = some c ↔
    natAt body 1 1 = (if c.enabled then 1 else 0) ∧ natAt body 2 1 = c.quantity.code ∧ natAt body 3 1 = c.predicate.code ∧
      intAt body 4 4 = c.normal ∧ intAt body 8 4 = c.watched ∧ natAt body 12 1 = c.grade.code ∧
      natAt body 13 1 = c.treatment.code := by
  constructor
  · intro h
    unfold readCriterion at h
    split at h
    · next he hq hp hg ht =>
      cases h
      exact ⟨readYesNo_eq_some_iff.1 he, QuantityName.ofCode_eq_some_iff.1 hq, Predicate.ofCode_eq_some_iff.1 hp, rfl, rfl,
        Grade.ofCode_eq_some_iff.1 hg, Treatment.ofCode_eq_some_iff.1 ht⟩
    · cases h
  · rintro ⟨he, hq, hp, hn, hw, hg, ht⟩
    simp only [readCriterion, readYesNo_eq_some_iff.2 he, QuantityName.ofCode_eq_some_iff.2 hq,
      Predicate.ofCode_eq_some_iff.2 hp, Grade.ofCode_eq_some_iff.2 hg, Treatment.ofCode_eq_some_iff.2 ht, hn, hw]

namespace Machine

/-- Settles O56: the tables row by row, and the four requests by the number they name, the ranges and the bytes of an entry. -/
theorem settingsReadAndWritten : Obligations.SettingsReadAndWritten := by
  refine ⟨⟨by decide, fun x => by cases x <;> decide⟩, ⟨by decide, fun q => by cases q <;> decide⟩, ⟨rfl, by decide⟩,
    fun s p tag body => ?_⟩
  intro t b n heads
  have noSetting : n < 1 ∨ 30 < n → Setting.ofCode n = none := fun h => Option.not_isSome_iff_eq_none.1 (fun k => by
    have := (Setting.ofCode_isSome n).1 k
    omega)
  have noCriterion : n < 1 ∨ 24 < n → criterionIndex n = none := fun h => dif_neg (by omega)
  refine ⟨fun h1 h30 => ?_, fun ht => ⟨fun hn => ?_, fun x hx => ?_⟩, fun ht => ?_, fun ht => ⟨fun hn => ?_, fun i hi => ?_⟩,
    fun ht => ?_⟩
  · obtain ⟨x, hx⟩ := Option.isSome_iff_exists.1 ((Setting.ofCode_isSome n).2 ⟨h1, h30⟩)
    exact ⟨x, Setting.ofCode_eq_some_iff.1 hx⟩
  · exact request_refused ht tag (owner := fun t => t.settingRead body) (Site.settingRead_of_none (noSetting hn))
  · refine request_granted ht tag (owner := fun t => t.settingRead body) ((Site.settingRead_of_some hx).trans ?_)
    rw [← hx]; rfl
  · intro v refuses gives
    have bad : s.site.settingWrite body = s.site.refuse .badValue → refuses := fun h =>
      request_refused ht tag (owner := fun t => t.settingWrite body) h
    refine ⟨fun hn => bad (Site.settingWrite_of_none (noSetting hn)), fun x hx => ?_⟩
    intro written
    have good : x.range.1 ≤ v → v ≤ x.range.2 → gives (written.rescale x) := fun hl hh =>
      request_granted ht tag (owner := fun t => t.settingWrite body)
        (Site.settingWrite_of_good hx ((x.inRange_iff v).2 ⟨hl, hh⟩))
    refine ⟨fun hv => bad (Site.settingWrite_of_bad hx (fun k => ?_)), fun hl hh hs hq => ?_, fun hl hh hs => ?_,
      fun hl hh hq => ?_⟩
    · have := (x.inRange_iff v).1 k
      omega
    · have := good hl hh
      rwa [Site.rescale_of_other hs hq] at this
    · have := good hl hh
      rwa [hs] at this
    · have := good hl hh
      rwa [hq] at this
  · exact request_refused ht tag (owner := fun t => t.criterionRead body) (Site.criterionRead_of_none (noCriterion hn))
  · exact request_granted ht tag (owner := fun t => t.criterionRead body) (Site.criterionRead_of_some hi)
  · intro refuses names fits
    have bad : s.site.criterionWrite body = s.site.refuse .badValue → refuses := fun h =>
      request_refused ht tag (owner := fun t => t.criterionWrite body) h
    refine ⟨fun hn => bad (Site.criterionWrite_of_no_number (noCriterion hn)), fun hc => bad (Site.criterionWrite_of_no_entry ?_),
      fun c hc hf => bad (Site.criterionWrite_of_bad (readCriterion_eq_some_iff.2 hc) (fun k => hf (c.inRange_iff.1 k))),
      fun c i hi hc hf => ?_⟩
    · exact Option.eq_none_iff_forall_not_mem.2 (fun c k => hc c (readCriterion_eq_some_iff.1 k))
    · exact request_granted ht tag (owner := fun t => t.criterionWrite body)
        (Site.criterionWrite_of_good hi (readCriterion_eq_some_iff.2 hc) (c.inRange_iff.2 hf))

end Machine

end Sys2Proof
end

section
/-! PROOF. The images of loading, and the end of loading. -/

namespace Sys2Proof

/-! ### Ranges of the images (R126, R166, R217) -/

/-- A test of every element of a table. -/
theorem toList_all_iff {α : Type} {n : Nat} (v : Vector α n) (p : α → Bool) :
    v.toList.all p = true ↔ ∀ i : Fin n, p v[i] = true := by
  rw [List.all_eq_true, List.forall_mem_iff_forall_getElem]
  exact ⟨fun h i => h i.val (by simp), fun h i hi => h ⟨i, by simpa using hi⟩⟩

/-- The ranges of a settings block (R126, R217). -/
theorem SettingsBlock.inRange_iff (b : SettingsBlock) : b.inRange = true ↔
    (∀ n : Setting, n.inRange (b.get n) = true) ∧ ∀ i : Fin 24, (b.criteria[i]).inRange = true := by
  rw [SettingsBlock.inRange, Bool.and_eq_true, List.all_eq_true, toList_all_iff]
  exact and_congr_left' ⟨fun h n => h n n.mem_all, fun h n _ => h n⟩

/-- The ranges of a per-side list (R166). -/
theorem listOk_iff (low high : Int) (l : List Int) :
    listOk low high l = true ↔ l.length ≤ 4 ∧ ∀ x ∈ l, low ≤ x ∧ x ≤ high := by
  simp only [listOk, allWithin, Bool.and_eq_true, decide_eq_true_eq, List.all_eq_true]

/-- The range of a date (R166, R215). -/
theorem Date.valid_iff (d : Date) : d.valid = true ↔ 2000 ≤ d.year ∧ d.year ≤ 2099 ∧ 1 ≤ d.month ∧ d.month ≤ 12 ∧ 1 ≤ d.day ∧
    d.day ≤ monthLength d.year d.month := by
  simp only [Date.valid, Bool.and_eq_true, decide_eq_true_eq, and_assoc]

/-- The ranges of the stored fields of an entry (R166). -/
theorem WatchEntry.inRange_iff (e : WatchEntry) : e.inRange = true ↔
    e.key.index ≤ 12 ∧ (e.floor.isSome = true ↔ e.origin = .enrolled) ∧ listOk (-3100) 3100 e.rise1 = true ∧
      listOk (-3100) 3100 e.rise2 = true ∧ listOk 0 10000 e.excess1 = true ∧ listOk 0 10000 e.excess2 = true ∧ e.cleanRun ≤ 31 ∧
      e.lastSerial ≠ some 0#32 ∧ (∀ d, e.lastDate = some d → d.valid = true) ∧ e.unseen ≤ 999 ∧ e.note.length ≤ 16 := by
  have floor : (e.floor.isSome == (e.origin == .enrolled)) = true ↔ (e.floor.isSome = true ↔ e.origin = .enrolled) := by
    rw [beq_iff_eq, Bool.eq_iff_iff, beq_iff_eq]
  have serial : e.lastSerial.all (fun n => n != 0#32) = true ↔ e.lastSerial ≠ some 0#32 := by
    cases e.lastSerial <;> simp
  have date : e.lastDate.all Date.valid = true ↔ ∀ d, e.lastDate = some d → d.valid = true := by
    cases e.lastDate <;> simp
  simp only [WatchEntry.inRange, Bool.and_eq_true, decide_eq_true_eq, floor, serial, date, and_assoc]

/-! ### What a change of the write queue leaves, and what it does (R220) -/

namespace StoreUnit

/-- An item stands in the write queue, or in flight and marked as changed (R220). -/
def Waits (u : StoreUnit) (i : StoreItem) : Prop := i ∈ u.queue ∨ ∃ w, u.inFlight = some w ∧ w.item = i ∧ w.changed = true

/-- A change to an item touches the queue and the write in flight alone. -/
theorem enqueue_eq (u : StoreUnit) (i : StoreItem) : ∃ q f, u.enqueue i = { u with queue := q, inFlight := f } := by
  unfold enqueue
  split
  · next w hw =>
    split
    · exact ⟨u.queue, _, rfl⟩
    · split
      · exact ⟨u.queue, u.inFlight, rfl⟩
      · exact ⟨_, u.inFlight, rfl⟩
  · next hw =>
    split
    · exact ⟨u.queue, u.inFlight, rfl⟩
    · exact ⟨_, u.inFlight, rfl⟩

theorem enqueue_faults (u : StoreUnit) (i : StoreItem) : (u.enqueue i).faults = u.faults := by
  obtain ⟨q, f, h⟩ := u.enqueue_eq i; rw [h]

theorem enqueue_entriesLost (u : StoreUnit) (i : StoreItem) : (u.enqueue i).entriesLost = u.entriesLost := by
  obtain ⟨q, f, h⟩ := u.enqueue_eq i; rw [h]

theorem enqueue_highest (u : StoreUnit) (i : StoreItem) : (u.enqueue i).highest = u.highest := by
  obtain ⟨q, f, h⟩ := u.enqueue_eq i; rw [h]

/-- An item changed waits for its write. -/
theorem enqueue_waits (u : StoreUnit) (i : StoreItem) : (u.enqueue i).Waits i := by
  unfold enqueue
  split
  · next w hw =>
    split
    · next he => exact .inr ⟨_, rfl, he, rfl⟩
    · split
      · next hq => exact .inl hq
      · exact .inl (by simp)
  · split
    · next hq => exact .inl hq
    · exact .inl (by simp)

/-- An item that waits goes on waiting when another changes. -/
theorem Waits.enqueue {u : StoreUnit} {k : StoreItem} (h : u.Waits k) (i : StoreItem) : (u.enqueue i).Waits k := by
  unfold StoreUnit.enqueue
  split
  · next w hw =>
    split
    · refine h.imp id (fun ⟨v, hv, hk, _⟩ => ?_)
      rw [hw, Option.some.injEq] at hv
      exact ⟨_, rfl, hv ▸ hk, rfl⟩
    · split
      · exact h
      · exact h.imp (List.mem_append_left _) id
  · split
    · exact h
    · exact h.imp (List.mem_append_left _) id

end StoreUnit

/-! ### The images read in loading (R225, R226) -/

namespace Site

variable {t : Site}

theorem takeSettingsImage_of_next (hm : t.mode = .loading) (hl : t.store.loading = .settings) (m : Image SettingsBlock) :
    t.takeSettingsImage m = (t.loadSettings m).nextLoad .serial := if_pos ⟨hm, hl⟩

theorem takeSettingsImage_of_other (h : t.mode ≠ .loading ∨ t.store.loading ≠ .settings) (m : Image SettingsBlock) :
    t.takeSettingsImage m = t := if_neg (fun k => h.elim (· k.1) (· k.2))

theorem takeSerialImage_of_next (hm : t.mode = .loading) (hl : t.store.loading = .serial) (m : Image Serial) :
    t.takeSerialImage m = (t.loadSerial m).nextLoad (.slots 0) := if_pos ⟨hm, hl⟩

theorem takeSerialImage_of_other (h : t.mode ≠ .loading ∨ t.store.loading ≠ .serial) (m : Image Serial) :
    t.takeSerialImage m = t := if_neg (fun k => h.elim (· k.1) (· k.2))

theorem takeSlotImage_of_next {i : Fin 512} (hm : t.mode = .loading) (hl : t.store.loading = .slots i.val)
    (m : Image SlotContents) : t.takeSlotImage m = (t.loadSlot i m).nextLoad (.slots (i.val + 1)) := by
  simp only [takeSlotImage, hl, i.isLt, hm, dite_true, if_true]

theorem takeSlotImage_of_other (h : t.mode ≠ .loading ∨ ∀ i : Fin 512, t.store.loading ≠ .slots i.val)
    (m : Image SlotContents) : t.takeSlotImage m = t := by
  unfold takeSlotImage
  split
  · next k hk =>
    split
    · next hlt =>
      exact if_neg (fun hm => h.elim (· hm) (· ⟨k, hlt⟩ hk))
    · rfl
  · rfl
  · rfl

/-- A bad SERIAL image (R225). -/
theorem badSerial_eq (t : Site) : t.badSerial =
    (t.setStore { ({ t.store with nextSerial := 1#32 } : StoreUnit).enqueue .serial with faults := bump t.store.faults }).raise
      .storeFault := by
  have faults := ({ t.store with nextSerial := 1#32 } : StoreUnit).enqueue_faults .serial
  simp only [badSerial, setNextSerial, Site.enqueue, setStore_store, faults]
  rfl

/-- A slot image lost (R226). -/
theorem loseSlot_eq (t : Site) (i : Fin 512) : t.loseSlot i =
    (t.setStore { t.store.enqueue (.slot i) with entriesLost := bump t.store.entriesLost }).raise .storeEntryLost := by
  simp only [loseSlot, Site.enqueue, setStore_store, t.store.enqueue_entriesLost]
  rfl

/-! ### Duplicate keys at the end of loading (R226) -/

/-- A slot is beaten by another with its key that has a higher stamp, or the same stamp and a lower number. -/
theorem beatenBy_iff (t : Site) (i j : Fin 512) (e : WatchEntry) : t.beatenBy i e j = true ↔
    ∃ f, t.watchEntry j = some f ∧ f.key = e.key ∧ ((t.watchSlot i).stamp.toNat < (t.watchSlot j).stamp.toNat ∨
      ((t.watchSlot i).stamp = (t.watchSlot j).stamp ∧ j < i)) := by
  unfold beatenBy
  cases t.watchEntry j with
  | none => simp
  | some f => simp

/-- A slot that beats another with its key is beaten by it or is the same slot, and never both. -/
theorem not_beaten_iff {x y : Stamp} {i j : Fin 512} (h : j ≠ i) :
    ¬(x.toNat < y.toNat ∨ (x = y ∧ j < i)) ↔ (y.toNat < x.toNat ∨ (y = x ∧ i < j)) := by
  have hv : j.val ≠ i.val := fun k => h (Fin.ext k)
  rw [← BitVec.toNat_inj, ← BitVec.toNat_inj, Fin.lt_def, Fin.lt_def]
  omega

/-- A slot does not stay exactly when some slot beats it. -/
theorem duplicate_iff {i : Fin 512} {e : WatchEntry} (he : t.watchEntry i = some e) :
    t.duplicate i = true ↔ ∃ j, t.beatenBy i e j = true := by
  simp only [duplicate, he, List.any_eq_true]
  exact ⟨fun ⟨j, _, hj⟩ => ⟨j, hj⟩, fun ⟨j, hj⟩ => ⟨j, List.mem_finRange j, hj⟩⟩

/-- An entry that stays beats every other slot with its key (R226). -/
theorem not_duplicate_iff {i : Fin 512} {e : WatchEntry} (he : t.watchEntry i = some e) : ¬t.duplicate i = true ↔
    ∀ (j : Fin 512) (f : WatchEntry), j ≠ i → t.watchEntry j = some f → f.key = e.key →
      (t.watchSlot j).stamp.toNat < (t.watchSlot i).stamp.toNat ∨
        ((t.watchSlot j).stamp = (t.watchSlot i).stamp ∧ i < j) := by
  rw [duplicate_iff he]
  constructor
  · intro h j f hj hf hk
    exact (not_beaten_iff hj).1 (fun b => h ⟨j, (t.beatenBy_iff i j e).2 ⟨f, hf, hk, b⟩⟩)
  · rintro h ⟨j, hj⟩
    obtain ⟨f, hf, hk, b⟩ := (t.beatenBy_iff i j e).1 hj
    by_cases hji : j = i
    · rw [hji] at b
      rcases b with b | ⟨-, b⟩
      · exact lt_irrefl _ b
      · exact lt_irrefl _ b
    · exact (not_beaten_iff hji).2 (h j f hji hf hk) b

/-- Slots freed one after the other: their entries are gone, each waits for its write, and nothing but the slots and the store's
queue has changed (R226). -/
theorem freeSlots_spec (l : List (Fin 512)) (t : Site) : ∃ slots u,
    l.foldl freeSlot t = (t.setWatch { t.watch with slots := slots }).setStore u ∧ u.highest = t.store.highest ∧
      (∀ j, (l.foldl freeSlot t).watchEntry j = if j ∈ l then none else t.watchEntry j) ∧
      (∀ k, t.store.Waits k → u.Waits k) ∧ ∀ j ∈ l, u.Waits (.slot j) := by
  induction l generalizing t with
  | nil => exact ⟨t.watch.slots, t.store, rfl, rfl, fun j => by simp, fun _ => id, fun j hj => absurd hj List.not_mem_nil⟩
  | cons i l ih =>
    obtain ⟨slots, u, eq, highest, entries, waits, freed⟩ := ih (t.freeSlot i)
    have first : ∀ j, (t.freeSlot i).watchEntry j = if j = i then none else t.watchEntry j := fun j =>
      Keeps.watchEntry_put t i j _
    refine ⟨slots, u, eq, highest.trans (t.store.enqueue_highest _), fun j => ?_, fun k hk => waits k (hk.enqueue _),
      fun j hj => ?_⟩
    · rw [List.foldl_cons, entries, first]
      by_cases hl : j ∈ l <;> by_cases hi : j = i <;> simp [hl, hi]
    · rcases List.mem_cons.1 hj with rfl | hl
      · exact waits _ (t.store.enqueue_waits _)
      · exact freed j hl

end Site

/-! ### The largest sweep stamp (R186) -/

/-- The larger of a number and the sweep stamp of a slot's entry. -/
def WatchSlot.maxStamp (m : Nat) (w : WatchSlot) : Nat :=
  match w.entry with
  | some e => max m e.sweepStamp.toNat
  | none => m

/-- The largest of a list of slots: it bounds every entry's sweep stamp, and is the start or an entry's sweep stamp. -/
theorem WatchSlot.foldl_maxStamp (l : List WatchSlot) (m : Nat) :
    m ≤ l.foldl WatchSlot.maxStamp m ∧
      (∀ w ∈ l, ∀ e, w.entry = some e → e.sweepStamp.toNat ≤ l.foldl WatchSlot.maxStamp m) ∧
      (l.foldl WatchSlot.maxStamp m = m ∨ ∃ w ∈ l, ∃ e, w.entry = some e ∧ e.sweepStamp.toNat = l.foldl WatchSlot.maxStamp m) := by
  induction l generalizing m with
  | nil => exact ⟨le_rfl, fun w hw => absurd hw List.not_mem_nil, .inl rfl⟩
  | cons v l ih =>
    obtain ⟨start, bound, attained⟩ := ih (v.maxStamp m)
    rw [List.foldl_cons]
    have step : m ≤ v.maxStamp m ∧ (∀ e, v.entry = some e → e.sweepStamp.toNat ≤ v.maxStamp m) ∧
        (v.maxStamp m = m ∨ ∃ e, v.entry = some e ∧ e.sweepStamp.toNat = v.maxStamp m) := by
      unfold WatchSlot.maxStamp
      cases v.entry with
      | none => exact ⟨le_rfl, fun e he => absurd he (by simp), .inl rfl⟩
      | some e =>
        refine ⟨le_max_left _ _, fun f hf => ?_, ?_⟩
        · cases hf; exact le_max_right _ _
        · rcases max_choice m e.sweepStamp.toNat with h | h
          · exact .inl h
          · exact .inr ⟨e, rfl, h.symm⟩
    obtain ⟨above, covers, from_⟩ := step
    refine ⟨above.trans start, fun w hw e he => ?_, ?_⟩
    · rcases List.mem_cons.1 hw with rfl | hl
      · exact (covers e he).trans start
      · exact bound w hl e he
    · rcases attained with h | ⟨w, hw, e, he, h⟩
      · rcases from_ with k | ⟨e, he, k⟩
        · exact .inl (h.trans k)
        · exact .inr ⟨v, List.mem_cons_self .., e, he, k.trans h.symm⟩
      · exact .inr ⟨w, List.mem_cons_of_mem _ hw, e, he, h⟩

namespace Site

variable {t : Site}

theorem mem_slots_iff (t : Site) (w : WatchSlot) : w ∈ t.watch.slots.toList ↔ ∃ i, t.watchSlot i = w := by
  rw [Vector.mem_toList_iff, Vector.mem_iff_getElem]
  exact ⟨fun ⟨i, hi, h⟩ => ⟨⟨i, hi⟩, h⟩, fun ⟨i, h⟩ => ⟨i.val, i.isLt, h⟩⟩

theorem largestSweepStamp_eq (t : Site) : t.largestSweepStamp = t.watch.slots.toList.foldl WatchSlot.maxStamp 0 := rfl

/-- The largest sweep stamp bounds that of every entry, and is 0 or an entry's (R186). -/
theorem largestSweepStamp_spec (t : Site) :
    (∀ i e, t.watchEntry i = some e → e.sweepStamp.toNat ≤ t.largestSweepStamp) ∧
      (t.largestSweepStamp = 0 ∨ ∃ i e, t.watchEntry i = some e ∧ e.sweepStamp.toNat = t.largestSweepStamp) := by
  obtain ⟨-, bound, attained⟩ := WatchSlot.foldl_maxStamp t.watch.slots.toList 0
  rw [← largestSweepStamp_eq] at bound attained
  refine ⟨fun i e he => bound _ ((t.mem_slots_iff _).2 ⟨i, rfl⟩) e he, attained.imp id ?_⟩
  rintro ⟨w, hw, e, he, h⟩
  obtain ⟨i, hi⟩ := (t.mem_slots_iff w).1 hw
  exact ⟨i, e, by rw [watchEntry, hi, he], h⟩

/-- The largest sweep stamp is a sweep stamp. -/
theorem largestSweepStamp_lt (t : Site) : t.largestSweepStamp < 2 ^ 16 := by
  rcases t.largestSweepStamp_spec.2 with h | ⟨i, e, -, h⟩
  · rw [h]; decide
  · exact h ▸ e.sweepStamp.isLt

theorem toNat_largestSweepStamp (t : Site) : (BitVec.ofNat 16 t.largestSweepStamp).toNat = t.largestSweepStamp := by
  rw [BitVec.toNat_ofNat, Nat.mod_eq_of_lt t.largestSweepStamp_lt]

end Site

/-! ### The end of loading (R1, R8, R226) -/

/-- A point read from its lines is NORMAL, and SETTLING while a head is occupied (R1, R8). -/
theorem Point.fromLines_machine (q : Point) (l : LinePair) (now : Nat) :
    (q.fromLines l now).condition = .normal ∧ (q.fromLines l now).machine =
      (if (q.fromLines l now).head1.level = .occupied ∨ (q.fromLines l now).head2.level = .occupied then .settling else .idle) := by
  obtain ⟨one, two⟩ := l
  cases one <;> cases two <;> exact ⟨rfl, rfl⟩

theorem PointUnit.fromLines_get (u : PointUnit) (l : HeadLines) (p : PointId) :
    (u.fromLines l).get p = (u.get p).fromLines (l.pair p) 0 := by cases p <;> rfl

namespace Site

variable {t : Site}

theorem endLoading_of_read (hm : t.mode = .loading) (hl : t.store.loading = .slots 512) : t.endLoading =
    (t.freeDuplicates.setStore { t.freeDuplicates.store with nextStamp := t.freeDuplicates.store.firstStamp }).startRunning :=
  if_pos ⟨hm, hl⟩

theorem endLoading_of_other (h : t.mode ≠ .loading ∨ t.store.loading ≠ .slots 512) : t.endLoading = t :=
  if_neg (fun k => h.elim (· k.1) (· k.2))

theorem startRunning_point (t : Site) (p : PointId) : t.startRunning.point p = (t.point p).fromLines (t.pins.pair p) 0 :=
  t.points.fromLines_get t.pins p

theorem startRunning_head (t : Site) (h : HeadId) :
    t.startRunning.head h = { level := t.pins.level h, health := .inService, lastChange := 0 } := by
  obtain ⟨p, n⟩ := h
  rw [head, startRunning_point]
  cases n <;> rfl

theorem startRunning_arming (t : Site) (n : Fin 8) : (t.startRunning.line n).arming =
    if (BitVec.ofNat 8 (t.setting .modulesFitted)).getLsbD n.val then .idle else .notFitted :=
  congrArg ModuleLine.arming (mapLines_line _ _ n)

/-- The sweep serial at the end of loading bounds every entry's sweep stamp, and is 0 or an entry's (R186). -/
theorem startRunning_sweepSerial (t : Site) :
    (∀ i e, t.startRunning.watchEntry i = some e → e.sweepStamp.toNat ≤ t.startRunning.watch.sweepSerial.toNat) ∧
      (t.startRunning.watch.sweepSerial = 0#16 ∨
        ∃ i e, t.startRunning.watchEntry i = some e ∧ e.sweepStamp = t.startRunning.watch.sweepSerial) := by
  have serial : t.startRunning.watch.sweepSerial = BitVec.ofNat 16 t.largestSweepStamp := rfl
  have entry : ∀ i, t.startRunning.watchEntry i = t.watchEntry i := fun _ => rfl
  obtain ⟨bound, attained⟩ := t.largestSweepStamp_spec
  simp only [serial, entry, toNat_largestSweepStamp]
  refine ⟨bound, attained.imp (fun h => by rw [h]) ?_⟩
  rintro ⟨i, e, he, h⟩
  exact ⟨i, e, he, BitVec.eq_of_toNat_eq (by rw [h, toNat_largestSweepStamp])⟩

/-- The duplicates freed: which entries stay, and that every slot freed waits for its write (R226). -/
theorem freeDuplicates_spec (t : Site) : ∃ slots u,
    t.freeDuplicates = (t.setWatch { t.watch with slots := slots }).setStore u ∧ u.highest = t.store.highest ∧
      (∀ i e, t.freeDuplicates.watchEntry i = some e ↔ t.watchEntry i = some e ∧ ¬t.duplicate i = true) ∧
      ∀ i, t.watchEntry i ≠ none → t.freeDuplicates.watchEntry i = none → u.Waits (.slot i) := by
  obtain ⟨slots, u, eq, highest, entries, -, freed⟩ := freeSlots_spec (watchIds.filter t.duplicate) t
  have mem : ∀ i, i ∈ watchIds.filter t.duplicate ↔ t.duplicate i = true := fun i => by simp [watchIds]
  have entry : ∀ i, t.freeDuplicates.watchEntry i = if t.duplicate i = true then none else t.watchEntry i := fun i =>
    (entries i).trans (by simp only [mem])
  refine ⟨slots, u, eq, highest, fun i e => ?_, fun i hi hf => freed i ((mem i).2 ?_)⟩
  · rw [entry]
    split
    · next h => simp [h]
    · next h => simp [h]
  · by_contra h
    rw [entry, if_neg h] at hf
    exact hi hf

end Site

namespace Machine

/-- Settles O58: the ranges, the images one by one, and the end of loading, which frees the duplicates
(`Site.freeDuplicates_spec`) and starts the site (`Site.startRunning`). -/
theorem imagesLoadedAndLoadingEnds : Obligations.ImagesLoadedAndLoadingEnds := by
  refine ⟨fun b => ?_, fun e => ?_, fun s => ?_, fun s => ?_⟩
  · simp only [b.inRange_iff, Setting.inRange_iff, Criterion.inRange_iff]
  · intro within
    rw [e.inRange_iff]
    simp only [listOk_iff, Date.valid_iff]
    rfl
  · intro t u high gives defaulted one badSerial lost loaded
    have stamped : ∀ x, some (higherStamp x u.highest) = high x := fun x => by
      simp only [high]
      cases u.highest <;> rfl
    have settings : ∀ {m : Image SettingsBlock} {r : Site}, t.mode = .loading → u.loading = .settings → t.loadSettings m = r →
        gives (.loadSettingsImage m) r .serial := fun hm hl hr =>
      congrArg (fun x => Host.Outcome.next (s.setSite x)) (hr ▸ Site.takeSettingsImage_of_next hm hl _)
    have serial : ∀ {m : Image Serial} {r : Site}, t.mode = .loading → u.loading = .serial → t.loadSerial m = r →
        gives (.loadSerialImage m) r (.slots 0) := fun hm hl hr =>
      congrArg (fun x => Host.Outcome.next (s.setSite x)) (hr ▸ Site.takeSerialImage_of_next hm hl _)
    have slot : ∀ {i : Fin 512} {m : Image SlotContents} {r : Site}, t.mode = .loading → u.loading = .slots i.val →
        t.loadSlot i m = r → gives (.loadSlotImage m) r (.slots (i.val + 1)) := fun hm hl hr =>
      congrArg (fun x => Host.Outcome.next (s.setSite x)) (hr ▸ Site.takeSlotImage_of_next hm hl _)
    refine ⟨fun hm hl => ⟨settings hm hl rfl, settings hm hl rfl, fun b x hb => settings hm hl ?_, fun b x hb => settings hm hl ?_⟩,
      fun hm hl => ⟨serial hm hl rfl, serial hm hl t.badSerial_eq, fun x => serial hm hl t.badSerial_eq,
        fun n x hn => serial hm hl ?_⟩,
      fun i hm hl => ⟨slot hm hl rfl, slot hm hl (t.loseSlot_eq i), fun x => slot hm hl ?_, fun e x he => slot hm hl ?_,
        fun e x he => slot hm hl ?_⟩, fun h m => ?_, fun h m => ?_, fun h m => ?_⟩
    · simp only [Site.loadSettings, hb, Bool.false_eq_true, if_false]; rfl
    · simp only [Site.loadSettings, hb, if_true, ← stamped]; rfl
    · simp only [Site.loadSerial, hn, if_false, ← stamped]; rfl
    · simp only [Site.loadSlot, loaded, ← stamped]; rfl
    · simp only [Site.loadSlot, loaded, he, if_true, ← stamped]; rfl
    · simp only [Site.loadSlot, he, Bool.false_eq_true, if_false]; exact t.loseSlot_eq i
    · exact congrArg (fun x => Host.Outcome.next (s.setSite x)) (Site.takeSettingsImage_of_other h m)
    · exact congrArg (fun x => Host.Outcome.next (s.setSite x)) (Site.takeSerialImage_of_other h m)
    · exact congrArg (fun x => Host.Outcome.next (s.setSite x)) (Site.takeSlotImage_of_other h m)
  · intro t
    refine ⟨fun h => congrArg (fun x => Host.Outcome.next (s.setSite x)) (Site.endLoading_of_other h), fun hm hl => ?_⟩
    obtain ⟨slots, u, eq, highest, stays, freed⟩ := t.freeDuplicates_spec
    refine ⟨t.endLoading, rfl, ?_⟩
    rw [Site.endLoading_of_read hm hl]
    generalize t.freeDuplicates = f at *
    obtain ⟨bound, attained⟩ := (f.setStore { f.store with nextStamp := f.store.firstStamp }).startRunning_sweepSerial
    have entry : ∀ i, (f.setStore { f.store with nextStamp := f.store.firstStamp }).startRunning.watchEntry i = f.watchEntry i :=
      fun _ => rfl
    refine ⟨rfl, rfl, by rw [eq]; rfl, by rw [eq]; rfl, fun h => by rw [Site.startRunning_head, eq]; rfl, fun p => ?_,
      fun n => by rw [Site.startRunning_arming, eq]; rfl, ?_, fun i e => ?_, fun i hi hr => ?_, bound, attained, rfl, rfl, rfl,
      by rw [eq]; rfl, by rw [eq]; rfl, by rw [eq]; rfl, by rw [eq]; rfl⟩
    · rw [Site.startRunning_point]; exact Point.fromLines_machine _ _ _
    · have first : (f.setStore { f.store with nextStamp := f.store.firstStamp }).startRunning.store.nextStamp = u.firstStamp := by
        rw [eq]; rfl
      have stamp : u.firstStamp = t.store.firstStamp := by rw [StoreUnit.firstStamp, StoreUnit.firstStamp, highest]
      exact first.trans stamp
    · rw [entry, stays]
      exact and_congr_right (fun he => Site.not_duplicate_iff he)
    · rw [entry] at hr
      have := freed i hi hr
      rw [eq]
      exact this

end Machine

end Sys2Proof
end

section
/-! PROOF. The close of a passage. -/

namespace Sys2Proof

/-! ### Flags set (R204) -/

theorem Flag.ofNat_bit (f : Flag) : Flag.ofNat f.bit = f := by cases f <;> rfl

theorem Flag.bit_inj {f g : Flag} : f.bit = g.bit ↔ f = g :=
  ⟨fun h => by rw [← f.ofNat_bit, h, g.ofNat_bit], fun h => h ▸ rfl⟩

theorem Flag.bit_lt (f : Flag) : f.bit < 18 := by cases f <;> decide

theorem Site.raise_has (s : Site) (f g : Flag) : (s.raise f).Has g ↔ s.Has g ∨ g = f := by
  have h : (s.raise f).hasFlag g = (s.hasFlag g || decide (g.bit = f.bit)) := setHas_setAdd s.flags g.bit f.bit g.bit_lt
  rw [Site.Has, h, Bool.or_eq_true, decide_eq_true_eq, Flag.bit_inj]

theorem Site.raiseIf_has (s : Site) (b : Bool) (f g : Flag) : (s.raiseIf b f).Has g ↔ s.Has g ∨ (g = f ∧ b = true) := by
  cases b with
  | false => simp only [Site.raiseIf_false, Bool.false_eq_true, and_false, or_false]
  | true => simp only [Site.raiseIf_true, Site.raise_has, and_true]

/-- A flag set again stays (R204). -/
theorem Site.raise_raise (s : Site) (f : Flag) : (s.raise f).raise f = s.raise f := by
  have h : setAdd (setAdd s.flags f.bit) f.bit = setAdd s.flags f.bit := by
    simp only [setAdd, BitVec.or_assoc, BitVec.or_self]
  exact congrArg s.setFlags h

/-! ### STANDING heads at a close (R3, R7, R8) -/

/-- A head at a close: CUT_OFF if it is STANDING (R3). -/
def Head.atClose (d : Head) : Head := if d.health = .standing then { d with health := .cutOff } else d

/-- A point at a close: its STANDING heads CUT_OFF, and with one of them its crossing machine restarted (R3, R8). -/
def Point.atClose (q : Point) : Point :=
  if q.head1.health = .standing ∨ q.head2.health = .standing then
    { q with head1 := q.head1.atClose, head2 := q.head2.atClose }.restart
  else q

theorem Head.atClose_level (d : Head) : d.atClose.level = d.level := by unfold Head.atClose; split <;> rfl

theorem Head.atClose_lastChange (d : Head) : d.atClose.lastChange = d.lastChange := by unfold Head.atClose; split <;> rfl

theorem Head.atClose_of_standing {d : Head} (h : d.health = .standing) : d.atClose = { d with health := .cutOff } := if_pos h

theorem Head.atClose_of_other {d : Head} (h : d.health ≠ .standing) : d.atClose = d := if_neg h

/-- The heads of a point at a close. -/
theorem Point.atClose_head (q : Point) (n : HeadNo) : q.atClose.head n = (q.head n).atClose := by
  unfold Point.atClose
  split
  · cases n <;> rfl
  · next h =>
    rw [not_or] at h
    cases n with
    | one => exact (Head.atClose_of_other h.1).symm
    | two => exact (Head.atClose_of_other h.2).symm

theorem Point.atClose_net (q : Point) : q.atClose.net = q.net := by unfold Point.atClose; split <;> rfl

theorem Point.atClose_last (q : Point) : q.atClose.last = q.last := by unfold Point.atClose; split <;> rfl

theorem Point.atClose_spurious (q : Point) : q.atClose.spurious = q.spurious := by unfold Point.atClose; split <;> rfl

/-- Cutting a STANDING head off changes the condition of its point, and not to NORMAL (R7). -/
theorem Point.setHealth_cutOff {q : Point} {n : HeadNo} (h : (q.head n).health = .standing) :
    (q.putHead n { q.head n with health := .cutOff }).condition ≠ q.condition ∧
      (q.putHead n { q.head n with health := .cutOff }).condition ≠ .normal := by
  obtain ⟨⟨l1, h1, c1⟩, ⟨l2, h2, c2⟩, _, _, _, _, _, _, _⟩ := q
  cases n with
  | one =>
    have h : h1 = .standing := h
    subst h
    cases h2 with
    | cutOff => exact ⟨show Condition.out ≠ .degraded by decide, show Condition.out ≠ .normal by decide⟩
    | inService | standing => exact ⟨show Condition.degraded ≠ .normal by decide, show Condition.degraded ≠ .normal by decide⟩
  | two =>
    have h : h2 = .standing := h
    subst h
    cases h1 with
    | cutOff => exact ⟨show Condition.out ≠ .degraded by decide, show Condition.out ≠ .normal by decide⟩
    | inService | standing => exact ⟨show Condition.degraded ≠ .normal by decide, show Condition.degraded ≠ .normal by decide⟩

/-- A point without a STANDING head stands at a close. -/
theorem Point.atClose_of_none {q : Point} (h1 : q.head1.health ≠ .standing) (h2 : q.head2.health ≠ .standing) : q.atClose = q :=
  if_neg (not_or.2 ⟨h1, h2⟩)

/-- A STANDING head cut off changes the condition of its point, and so restarts its machine (R7, R8). -/
theorem Point.setHealth_cutOff_eq {q : Point} {n : HeadNo} (h : (q.head n).health = .standing) :
    q.setHealth n .cutOff = (q.putHead n { q.head n with health := .cutOff }).restart :=
  Point.setHealth_of_changed (Point.setHealth_cutOff h).1

/-- At a close the condition of a point changes exactly with a STANDING head of it (R3, R7). -/
theorem Point.atClose_condition_iff (q : Point) :
    q.atClose.condition ≠ q.condition ↔ q.head1.health = .standing ∨ q.head2.health = .standing := by
  refine ⟨fun h => by_contra fun k => h ?_, fun h => ?_⟩
  · rw [not_or] at k
    rw [Point.atClose_of_none k.1 k.2]
  · obtain ⟨n, standing⟩ : ∃ n, (q.head n).health = .standing := h.elim (fun k => ⟨.one, k⟩) (fun k => ⟨.two, k⟩)
    have cut : (q.atClose.head n).health = .cutOff := by rw [Point.atClose_head, Head.atClose_of_standing standing]
    have keep : ∀ m, (q.head m).health = .cutOff → (q.atClose.head m).health = .cutOff := fun m hm => by
      rw [Point.atClose_head, Head.atClose_of_other (by rw [hm]; decide), hm]
    have notOut : q.condition ≠ .out := fun k => by
      rw [Point.head_of_out k n] at standing; cases standing
    by_cases normal : q.condition = .normal
    · rw [normal]
      intro k
      obtain ⟨k1, k2⟩ := q.atClose.condition_normal_iff.1 k
      cases n with
      | one => exact k1 cut
      | two => exact k2 cut
    · have some_ : q.head1.health = .cutOff ∨ q.head2.health = .cutOff := by
        by_contra k
        exact normal (q.condition_normal_iff.2 (not_or.1 k))
      have out : q.atClose.condition = .out := by
        refine q.atClose.condition_out_iff.2 ?_
        cases n with
        | one => exact ⟨cut, keep .two (some_.resolve_left (fun k => by rw [show q.head1.health = _ from standing] at k; cases k))⟩
        | two => exact ⟨keep .one (some_.resolve_right (fun k => by rw [show q.head2.health = _ from standing] at k; cases k)), cut⟩
      exact fun k => notOut (k.symm.trans out)

/-- What a changed condition at a close says of the machine: restarted from the heads as they are then (R8). -/
theorem Point.atClose_of_changed {q : Point} (h : q.atClose.condition ≠ q.condition) :
    q.atClose = { q with head1 := q.head1.atClose, head2 := q.head2.atClose }.restart :=
  if_pos (q.atClose_condition_iff.1 h)

theorem Point.atClose_of_same {q : Point} (h : q.atClose.condition = q.condition) : q.atClose = q :=
  if_neg (fun k => q.atClose_condition_iff.2 k h)

/-! ### A vehicle's closing (R58, R60) -/

/-- A vehicle's closing leaves the roster's serial. -/
theorem RosterUnit.closeVehicle_serial (u : RosterUnit) (p : Nat) : (u.closeVehicle p).serial = u.serial := by
  have update : ∀ (u : RosterUnit) (f : Vehicle → Vehicle), (u.updateVehicle p f).serial = u.serial := fun u f => by
    unfold RosterUnit.updateVehicle; split <;> rfl
  have fixed : ∀ u : RosterUnit, (u.fixOrientation p).serial = u.serial := fun u => by
    unfold RosterUnit.fixOrientation
    repeat' split
    · exact update _ _
    · rfl
    · rfl
  exact (fixed _).trans (update _ _)

namespace Site

variable {t : Site}

/-- A head at a close: CUT_OFF if it is STANDING, with the flag (R3, R7). -/
def cutHead (t : Site) (h : HeadId) : Site := if (t.head h).health = .standing then t.setHealth h .cutOff else t

theorem cutHead_of_standing {h : HeadId} (hs : (t.head h).health = .standing) :
    t.cutHead h = (t.putPoint h.point
      ((t.point h.point).putHead h.no { t.head h with health := .cutOff }).restart).raise .headCutOff := by
  obtain ⟨changed, entered⟩ := Point.setHealth_cutOff hs
  rw [cutHead, if_pos hs, setHealth_of_entry, Point.setHealth_cutOff_eq hs]
  · rfl
  · rw [Point.setHealth_condition]; exact changed
  · rw [Point.setHealth_condition]; exact entered

theorem cutHead_of_other {h : HeadId} (hs : (t.head h).health ≠ .standing) : t.cutHead h = t := if_neg hs

/-- Some head of the point is STANDING. -/
def hasStanding (t : Site) (p : PointId) : Bool :=
  (t.point p).head1.health == .standing || (t.point p).head2.health == .standing

theorem hasStanding_iff (t : Site) (p : PointId) :
    t.hasStanding p = true ↔ (t.point p).head1.health = .standing ∨ (t.point p).head2.health = .standing := by
  simp only [hasStanding, Bool.or_eq_true, beq_iff_eq]

theorem putPoint_putPoint (t : Site) (p : PointId) (a b : Point) : (t.putPoint p a).putPoint p b = t.putPoint p b := by
  cases p <;> rfl

theorem raise_putPoint (t : Site) (f : Flag) (p : PointId) (q : Point) : (t.raise f).putPoint p q = (t.putPoint p q).raise f := rfl

/-- The two heads of a point at a close, one after the other, restart its machine once and for all (R3, R7, R8). -/
theorem cutHead_cutHead (t : Site) (p : PointId) : (t.cutHead ⟨p, .one⟩).cutHead ⟨p, .two⟩ =
    (t.putPoint p (t.point p).atClose).raiseIf (t.hasStanding p) .headCutOff := by
  by_cases h1 : (t.point p).head1.health = .standing
  · have first : t.cutHead ⟨p, .one⟩ = (t.putPoint p
        ({ t.point p with head1 := { (t.point p).head1 with health := .cutOff } } : Point).restart).raise .headCutOff :=
      cutHead_of_standing (h := ⟨p, .one⟩) h1
    have second : (t.cutHead ⟨p, .one⟩).head ⟨p, .two⟩ = (t.point p).head2 := by
      rw [first, head, raise_point, putPoint_point_self]; rfl
    have some_ : t.hasStanding p = true := (t.hasStanding_iff p).2 (.inl h1)
    rw [some_, raiseIf_true]
    by_cases h2 : (t.point p).head2.health = .standing
    · rw [cutHead_of_standing (by rw [second]; exact h2), second, first, raise_point, putPoint_point_self,
        raise_putPoint, raise_raise, putPoint_putPoint, Point.atClose, if_pos (.inl h1), Head.atClose_of_standing h1,
        Head.atClose_of_standing h2]
      rfl
    · rw [cutHead_of_other (by rw [second]; exact h2), first, Point.atClose, if_pos (.inl h1), Head.atClose_of_standing h1,
        Head.atClose_of_other h2]
  · have first : t.cutHead ⟨p, .one⟩ = t := cutHead_of_other (h := ⟨p, .one⟩) h1
    rw [first]
    by_cases h2 : (t.point p).head2.health = .standing
    · have some_ : t.hasStanding p = true := (t.hasStanding_iff p).2 (.inr h2)
      rw [cutHead_of_standing (h := ⟨p, .two⟩) h2, some_, raiseIf_true, Point.atClose, if_pos (.inr h2),
        Head.atClose_of_standing h2, Head.atClose_of_other h1]
      rfl
    · have none_ : t.hasStanding p = false := Bool.eq_false_iff.2 (fun k => ((t.hasStanding_iff p).1 k).elim h1 h2)
      rw [cutHead_of_other (h := ⟨p, .two⟩) h2, none_, raiseIf_false, Point.atClose_of_none h1 h2, putPoint_self]

@[simp] theorem raiseIf_point (t : Site) (b : Bool) (f : Flag) (p : PointId) : (t.raiseIf b f).point p = t.point p := by
  cases b <;> rfl

theorem raiseIf_eq (t : Site) (b : Bool) (f : Flag) : ∃ flags, t.raiseIf b f = t.setFlags flags := by
  cases b
  · exact ⟨t.flags, rfl⟩
  · exact ⟨_, rfl⟩

/-- The STANDING heads of the points of a list cut off: those points, the flag, and nothing else (R3, R7, R8). -/
structure HeadsCutOff (t : Site) (ps : List PointId) (r : Site) : Prop where
  frame : ∃ points flags, r = (t.setPoints points).setFlags flags
  point : ∀ p, r.point p = if p ∈ ps then (t.point p).atClose else t.point p
  flags : ∀ f, r.Has f ↔ t.Has f ∨ (f = .headCutOff ∧ ∃ p ∈ ps, t.hasStanding p = true)

theorem HeadsCutOff.nil (t : Site) : t.HeadsCutOff [] t where
  frame := ⟨t.points, t.flags, rfl⟩
  point _ := rfl
  flags f := by simp

/-- One point more: its two heads cut off one after the other. -/
theorem HeadsCutOff.cons {ps : List PointId} {r : Site} (h : t.HeadsCutOff ps r) (p : PointId) (hp : p ∉ ps) :
    t.HeadsCutOff (p :: ps) ((r.cutHead ⟨p, .one⟩).cutHead ⟨p, .two⟩) := by
  have fresh : r.point p = t.point p := by rw [h.point, if_neg hp]
  have standing : r.hasStanding p = t.hasStanding p := by rw [hasStanding, hasStanding, fresh]
  rw [cutHead_cutHead, fresh, standing]
  refine ⟨?_, fun q => ?_, fun f => ?_⟩
  · obtain ⟨points, flags, e⟩ := h.frame
    obtain ⟨flags', e'⟩ := (r.putPoint p (t.point p).atClose).raiseIf_eq (t.hasStanding p) .headCutOff
    exact ⟨_, flags', by rw [e', e]; rfl⟩
  · rw [raiseIf_point, putPoint_point, h.point]
    by_cases hq : q = p
    · simp [hq]
    · simp [hq]
  · have same : (r.putPoint p (t.point p).atClose).Has f ↔ r.Has f := Iff.rfl
    rw [raiseIf_has, same, h.flags]
    simp only [List.exists_mem_cons_iff, and_or_left, or_assoc]
    exact or_congr_right or_comm

theorem cutOffStanding_eq_foldl (t : Site) : t.cutOffStanding = HeadId.all.foldl cutHead t := rfl

/-- Every STANDING head cut off at a close (R3). -/
theorem cutOffStanding_spec (t : Site) : t.HeadsCutOff [.pb, .gb, .ga, .pa] t.cutOffStanding := by
  rw [cutOffStanding_eq_foldl]
  simp only [HeadId.all, List.foldl_cons, List.foldl_nil]
  exact ((((HeadsCutOff.nil t).cons .pa (by decide)).cons .ga (by decide)).cons .gb (by decide)).cons .pb (by decide)

/-! ### The module lines at a close (R43, R76, R77, R79) -/

/-- A module's arming state at a close, once the arm timer has been stopped (R23, R76). -/
def endArming (t : Site) (n : Fin 8) : Arming :=
  if (t.line n).arming = .arming ∧ t.passage.timers.arm.isSome = true then .missing else (t.line n).arming

/-- A module line at a close before its passage is completed: STAND_DOWN sent to a fitted module, the arm timer stopped. -/
def stoodDown (t : Site) (n : Fin 8) : ModuleLine :=
  { (if t.fitted n.val then (t.line n).give n.val t.passageWord standDownCode [] else t.line n) with arming := t.endArming n }

/-- A fitted module is MISSING at a close (R77). -/
def missingAtClose (t : Site) : Bool := (List.finRange 8).any (fun n => t.fitted n.val && (t.stoodDown n).arming == .missing)

/-- A fitted module goes from IN_SERVICE to SUSPECT at a close (R79). -/
def suspectAtClose (t : Site) : Bool :=
  (List.finRange 8).any
    (fun n => t.fitted n.val && (t.stoodDown n).health == .inService && (t.stoodDown n).healthAfter == .suspect)

theorem sendStandDown_line (t : Site) (n : Fin 8) : t.sendStandDown.line n =
    if t.fitted n.val then (t.line n).give n.val t.passageWord standDownCode [] else t.line n := mapLines_line _ _ _

theorem sendStandDown_arming (t : Site) (n : Fin 8) : (t.sendStandDown.line n).arming = (t.line n).arming := by
  rw [sendStandDown_line]; split <;> rfl

/-- The lines once STAND_DOWN is sent and the arm timer stopped. -/
theorem armTimerAtClose_line (t : Site) (n : Fin 8) : t.sendStandDown.armTimerAtClose.line n = t.stoodDown n := by
  have arming := t.sendStandDown_arming n
  rw [stoodDown, ← sendStandDown_line, endArming, ← arming]
  unfold armTimerAtClose
  by_cases timer : t.passage.timers.arm.isSome = true
  · have given : (t.sendStandDown.giveUpModules.stopArmTimer).line n = (t.sendStandDown.line n).giveUp :=
      mapLines_line t.sendStandDown _ n
    rw [if_pos (show t.sendStandDown.passage.timers.arm.isSome = true from timer), given, ModuleLine.giveUp]
    simp only [timer, and_true]
    split <;> rfl
  · rw [if_neg (show ¬t.sendStandDown.passage.timers.arm.isSome = true from timer), if_neg (fun k => timer k.2)]

/-- What STAND_DOWN and the arm timer's stop leave. -/
theorem armTimerAtClose_frame (t : Site) : ∃ lines timers,
    t.sendStandDown.armTimerAtClose = (t.setModules { t.modules with lines := lines }).setTimers timers := by
  unfold armTimerAtClose
  split
  · exact ⟨t.sendStandDown.giveUpModules.modules.lines, _, rfl⟩
  · exact ⟨t.sendStandDown.modules.lines, t.passage.timers, rfl⟩

theorem stoodDown_arming (t : Site) (n : Fin 8) : (t.stoodDown n).arming = t.endArming n := rfl

theorem stoodDown_health (t : Site) (n : Fin 8) : (t.stoodDown n).health = (t.line n).health := by
  unfold stoodDown; split <;> rfl

theorem stoodDown_lastClose (t : Site) (n : Fin 8) : (t.stoodDown n).lastClose = (t.line n).lastClose := by
  unfold stoodDown; split <;> rfl

/-- The health of a fitted module after a close (R79). -/
theorem stoodDown_healthAfter (t : Site) (n : Fin 8) : (t.stoodDown n).healthAfter =
    if 0 < (t.line n).orphanTally.toNat ∨ 8 < (t.line n).crcTally.toNat then .suspect
    else if t.endArming n = .ready then .inService
    else (t.line n).health := by
  unfold ModuleLine.healthAfter stoodDown; split <;> rfl

theorem missingAtClose_iff (t : Site) : t.missingAtClose = true ↔ ∃ n : Fin 8, t.fitted n.val = true ∧ t.endArming n = .missing := by
  simp only [missingAtClose, List.any_eq_true, List.mem_finRange, true_and, Bool.and_eq_true, beq_iff_eq, stoodDown_arming]

theorem suspectAtClose_iff (t : Site) : t.suspectAtClose = true ↔
    ∃ n : Fin 8, t.fitted n.val = true ∧ (t.line n).health = .inService ∧ (t.stoodDown n).healthAfter = .suspect := by
  simp only [suspectAtClose, List.any_eq_true, List.mem_finRange, true_and, Bool.and_eq_true, beq_iff_eq, stoodDown_health, and_assoc]

/-- A close up to its modules' completion: the lines stood down and completed, the STANDING heads cut off, the flags and the OPEN
record's cause. -/
structure ClosedDown (t r : Site) : Prop where
  frame : ∃ lines timers points train flags,
    r = ((((t.setModules { t.modules with lines := lines }).setTimers timers).setPoints points).setTrain train).setFlags flags
  line : ∀ n, r.line n = (t.stoodDown n).atClose (t.fitted n.val)
  point : ∀ p, r.point p = (t.point p).atClose
  recordAt : ∀ i, r.recordAt i =
    if t.missingAtClose = true then addCauseWhenOpen .moduleMissing (t.recordAt i) else t.recordAt i
  flags : ∀ f, r.Has f ↔ t.Has f ∨ (f = .moduleMissing ∧ t.missingAtClose = true) ∨
    (f = .moduleSuspect ∧ t.suspectAtClose = true) ∨ (f = .headCutOff ∧ ∃ p, t.hasStanding p = true)

/-- The site once its modules' passage is completed (R43, R77, R79). -/
@[irreducible] def closedDown (t : Site) : Site := t.sendStandDown.armTimerAtClose.cutOffStanding.completeModules

theorem addRecordCauseIf_recordAt (t : Site) (b : Bool) (c : Cause) (i : Fin 4) :
    (t.addRecordCauseIf b c).recordAt i = if b = true then addCauseWhenOpen c (t.recordAt i) else t.recordAt i := by
  unfold addRecordCauseIf
  split
  · exact addRecordCause_recordAt _ _ _
  · rfl

/-- The modules' completion of a site: what it leaves, and its lines, flags and records (R77, R79). -/
theorem completeModules_spec (t : Site) :
    (∃ lines train flags, t.completeModules = ((t.setModules { t.modules with lines := lines }).setTrain train).setFlags flags) ∧
      (∀ n, t.completeModules.line n = (t.line n).atClose (t.fitted n.val)) ∧
      (∀ i, t.completeModules.recordAt i =
        if t.someMissing = true then addCauseWhenOpen .moduleMissing (t.recordAt i) else t.recordAt i) ∧
      ∀ f, t.completeModules.Has f ↔ t.Has f ∨ (f = .moduleMissing ∧ t.someMissing = true) ∨
        (f = .moduleSuspect ∧ t.someSuspect = true) := by
  obtain ⟨train, e1⟩ := t.addRecordCauseIf_eq t.someMissing .moduleMissing
  obtain ⟨f1, e2⟩ := (t.addRecordCauseIf t.someMissing .moduleMissing).raiseIf_eq t.someMissing .moduleMissing
  obtain ⟨f2, e3⟩ :=
    ((t.addRecordCauseIf t.someMissing .moduleMissing).raiseIf t.someMissing .moduleMissing).raiseIf_eq t.someSuspect .moduleSuspect
  have whole := (e3.trans (congrArg (setFlags · f2) e2))
  refine ⟨⟨t.completeModules.modules.lines, train, f2, ?_⟩, fun n => ?_, fun i => ?_, fun f => ?_⟩
  · unfold completeModules
    dsimp only
    rw [whole, e1]
    rfl
  · unfold completeModules
    dsimp only
    rw [mapLines_line, whole, e1]
    rfl
  · have same : t.completeModules.recordAt i = (t.addRecordCauseIf t.someMissing .moduleMissing).recordAt i := by
      unfold completeModules
      dsimp only
      rw [whole]
      rfl
    rw [same, addRecordCauseIf_recordAt]
  · have same : (t.addRecordCauseIf t.someMissing .moduleMissing).Has f ↔ t.Has f := by rw [e1]; rfl
    have raised : t.completeModules.Has f ↔ (((t.addRecordCauseIf t.someMissing .moduleMissing).raiseIf t.someMissing
      .moduleMissing).raiseIf t.someSuspect .moduleSuspect).Has f := Iff.rfl
    rw [raised, raiseIf_has, raiseIf_has, same, or_assoc]

theorem closedDown_spec (t : Site) : t.ClosedDown t.closedDown := by
  obtain ⟨lines, timers, e⟩ := t.armTimerAtClose_frame
  have line := t.armTimerAtClose_line
  unfold closedDown
  generalize t.sendStandDown.armTimerAtClose = u at e line
  obtain ⟨⟨points, flags, e'⟩, point, has⟩ := u.cutOffStanding_spec
  generalize u.cutOffStanding = v at e' point has
  have line' : ∀ n, v.line n = t.stoodDown n := fun n => by rw [← line, e']; rfl
  have fitted : ∀ n, v.fitted n = t.fitted n := fun n => by rw [e', e]; rfl
  have missing : v.someMissing = t.missingAtClose := by simp only [someMissing, missingAtClose, line', fitted]
  have suspect : v.someSuspect = t.suspectAtClose := by simp only [someSuspect, suspectAtClose, line', fitted]
  obtain ⟨⟨lines', train, flags', e''⟩, line'', record, has'⟩ := v.completeModules_spec
  have inList : ∀ p : PointId, p ∈ [PointId.pb, .gb, .ga, .pa] := fun p => by cases p <;> decide
  refine ⟨⟨lines', timers, points, train, flags', ?_⟩, fun n => ?_, fun p => ?_, fun i => ?_, fun f => ?_⟩
  · rw [e'', e', e]; rfl
  · rw [line'', line', fitted]
  · have same : v.completeModules.point p = v.point p := by rw [e'']; rfl
    rw [same, point, if_pos (inList p), e]; rfl
  · have same : v.recordAt i = t.recordAt i := by rw [e', e]; rfl
    rw [record, missing, same]
  · have same : u.Has f ↔ t.Has f := by rw [e]; rfl
    have standing : (∃ p ∈ [PointId.pb, .gb, .ga, .pa], u.hasStanding p = true) ↔ ∃ p, t.hasStanding p = true := by
      simp only [inList, true_and, e]; rfl
    rw [has', has, same, standing, missing, suspect, or_assoc]
    refine or_congr_right ?_
    rw [or_comm, or_assoc]

/-! ### The rest of a close (R43, R60, R77, R187) -/

/-- The watch table at a close: a pending sweep start taken, the sweep suspended behind the composition (R187). -/
def watchAtClose (t : Site) : WatchTable :=
  if t.watch.startPending then
    { t.watch with sweepSerial := t.watch.sweepSerial + 1#16, sweepState := .suspended, cursor := 0, startPending := false }
  else t.watch

theorem startPendingSweep_eq {t : Site} (h : t.composing = true) : t.startPendingSweep = t.setWatch t.watchAtClose := by
  unfold startPendingSweep watchAtClose
  split
  · unfold startSweep; rw [h]; rfl
  · rfl

/-- A close once its modules' passage is completed: the roster, the records, the composition, the direction, the controller and the
watch table, each replaced once (R43, R60, R77, R187). -/
def finishClose (t : Site) (o : PassageOutcome) : Site :=
  (((((t.setRoster t.finaliseRoster.roster).setTrain (t.finaliseRoster.closeRecord o).train).setComposition
    (some (t.finaliseRoster.closeRecord o).newComposition)).setPoints { t.points with direction := none }).setPassage
    t.passage.afterClose).setWatch t.watchAtClose

theorem close_eq (t : Site) (o : PassageOutcome) : t.close o = t.closedDown.finishClose o := by
  unfold close closedDown
  generalize t.sendStandDown.armTimerAtClose.cutOffStanding.completeModules = u
  exact startPendingSweep_eq rfl

theorem close_point (t : Site) (o : PassageOutcome) (p : PointId) : (t.close o).point p = (t.point p).atClose := by
  rw [← t.closedDown_spec.point, close_eq]
  cases p <;> rfl

theorem close_head (t : Site) (o : PassageOutcome) (h : HeadId) : (t.close o).head h = (t.head h).atClose := by
  rw [head, close_point, Point.atClose_head, head]

theorem close_line (t : Site) (o : PassageOutcome) (n : Fin 8) : (t.close o).line n = (t.stoodDown n).atClose (t.fitted n.val) := by
  rw [← t.closedDown_spec.line, close_eq]; rfl

/-- The net count of the counting gate stands while the heads are cut off. -/
theorem closedDown_gateNet (t : Site) : t.closedDown.gateNet = t.gateNet := by
  obtain ⟨lines, timers, points, train, flags, e⟩ := t.closedDown_spec.frame
  have gate : t.closedDown.passage.gate = t.passage.gate := by rw [e]; rfl
  unfold gateNet
  rw [gate]
  cases t.passage.gate with
  | none => rfl
  | some g => exact (congrArg Point.net (t.closedDown_spec.point g.point)).trans (Point.atClose_net _)

/-! ### The roster at a close (R60) -/

/-- The roster of a site with its current vehicle CLOSED at a close (R60). -/
def closedRoster (t : Site) : RosterUnit :=
  match t.roster.current with
  | some v => if v.state = VehicleState.opened then t.roster.closeVehicle t.roster.vehicles.length else t.roster
  | none => t.roster

theorem closedRoster_serial (t : Site) : t.closedRoster.serial = t.roster.serial := by
  unfold closedRoster
  repeat' split
  · exact t.roster.closeVehicle_serial _
  · rfl
  · rfl

theorem closedRoster_of_opened {v : Vehicle} (h : t.roster.vehicles.getLast? = some v) (hv : v.state = .opened) :
    t.closedRoster = t.roster.closeVehicle t.roster.vehicles.length := by
  unfold closedRoster RosterUnit.current
  rw [h]
  exact if_pos hv

theorem closedRoster_of_closed (h : ∀ v, t.roster.vehicles.getLast? = some v → v.state = .closed) : t.closedRoster = t.roster := by
  unfold closedRoster RosterUnit.current
  cases last : t.roster.vehicles.getLast? with
  | none => rfl
  | some v => exact if_neg (by rw [h v last]; decide)

theorem close_roster (t : Site) (o : PassageOutcome) :
    (t.close o).roster = { t.closedRoster with net := t.gateNet, standing := .final } := by
  have roster : t.closedDown.closedRoster = t.closedRoster := by
    obtain ⟨lines, timers, points, train, flags, e⟩ := t.closedDown_spec.frame
    rw [e]; rfl
  rw [← roster, ← closedDown_gateNet, close_eq]
  rfl

/-! ### The record and the composition at a close (R43, R77) -/

/-- The OPEN record closed: its phase, serial, causes and close figures (R27, R33, R43). -/
theorem close_recordAt (t : Site) (o : PassageOutcome) (i : Fin 4) {k : TrainRecord} (hk : t.recordAt i = some k)
    (open_ : k.phase = .opened) : (t.close o).recordAt i = some
      { k with
        phase := .closing
        close := some (t.closeFigures o)
        causes := t.clockCause (if t.missingAtClose = true then setAdd k.causes Cause.moduleMissing.bit else k.causes) } := by
  have closed : (t.close o).recordAt i = updateInPhase .opened
      (fun r => { r with
        phase := .closing
        close := some (t.closedDown.finaliseRoster.closeFigures o)
        causes := t.closedDown.finaliseRoster.clockCause r.causes }) (t.closedDown.recordAt i) := by
    rw [close_eq]
    exact updateRecord_recordAt _ _ _ _
  have figures : t.closedDown.finaliseRoster.closeFigures o = t.closeFigures o := by
    have net : t.closedDown.finaliseRoster.gateNet = t.gateNet := t.closedDown_gateNet
    obtain ⟨lines, timers, points, train, flags, e⟩ := t.closedDown_spec.frame
    unfold closeFigures
    rw [net, e]
    rfl
  have clock : t.closedDown.finaliseRoster.clockCause = t.clockCause := by
    obtain ⟨lines, timers, points, train, flags, e⟩ := t.closedDown_spec.frame
    rw [e]; rfl
  rw [closed, figures, clock, t.closedDown_spec.recordAt, hk]
  by_cases missing : t.missingAtClose = true
  · rw [if_pos missing, if_pos missing, addCauseWhenOpen, if_pos open_]
    exact if_pos open_
  · rw [if_neg missing, if_neg missing]
    exact if_pos open_

/-- The set gathered from a list by a fold: the elements that the test takes. -/
theorem foldl_setAdd_has (p : Fin 8 → Prop) [DecidablePred p] (l : List (Fin 8)) (b : BitVec 8) (i : Fin 8) :
    (l.foldl (fun b n => if p n then setAdd b n.val else b) b).getLsbD i.val = true ↔
      b.getLsbD i.val = true ∨ (i ∈ l ∧ p i) := by
  induction l generalizing b with
  | nil => simp
  | cons n l ih =>
    rw [List.foldl_cons, ih, List.mem_cons]
    by_cases taken : p n
    · have add : (setAdd b n.val).getLsbD i.val = true ↔ b.getLsbD i.val = true ∨ i = n := by
        have h : (setAdd b n.val).getLsbD i.val = (b.getLsbD i.val || decide (i.val = n.val)) := setHas_setAdd b i.val n.val i.isLt
        rw [h, Bool.or_eq_true, decide_eq_true_eq, Fin.ext_iff]
      rw [if_pos taken, add, or_assoc, or_and_right]
      exact or_congr_right (or_congr_left (iff_self_and.2 fun h => h ▸ taken))
    · rw [if_neg taken]
      refine or_congr_right (and_congr_left fun h => (or_iff_right ?_).symm)
      exact fun e => taken (e ▸ h)

theorem suspectSet_has (t : Site) (n : Fin 8) : t.suspectSet.getLsbD n.val = true ↔ (t.line n).health = .suspect := by
  rw [suspectSet, foldl_setAdd_has]
  simp

/-- The composition that a close starts (R43, R77). -/
theorem close_composition (t : Site) (o : PassageOutcome) : ∃ c, (t.close o).composition = some c ∧ c.step = .derive ∧
    c.latched = t.passage.latched ∧ c.ambient = t.modules.ambient ∧
      ∀ n : Fin 8, c.suspect.getLsbD n.val = true ↔ ((t.close o).line n).health = .suspect := by
  obtain ⟨lines, timers, points, train, flags, e⟩ := t.closedDown_spec.frame
  refine ⟨(t.closedDown.finaliseRoster.closeRecord o).newComposition, by rw [close_eq]; rfl, rfl, by rw [e]; rfl, by rw [e]; rfl, fun n => ?_⟩
  rw [close_line, ← t.closedDown_spec.line]
  exact t.closedDown.suspectSet_has n

/-! ### What a close leaves, part by part -/

/-- The passage controller back in IDLE (R43). -/
theorem close_passage (t : Site) (o : PassageOutcome) : (t.close o).passage = t.closedDown.passage.afterClose := by
  rw [close_eq]; rfl

theorem close_direction (t : Site) (o : PassageOutcome) : (t.close o).points.direction = none := by
  rw [close_eq]; rfl

theorem close_watch (t : Site) (o : PassageOutcome) : (t.close o).watch = t.watchAtClose := by
  obtain ⟨lines, timers, points, train, flags, e⟩ := t.closedDown_spec.frame
  rw [close_eq, e]; rfl

/-- The flags that a close sets (R7, R77, R79). -/
theorem close_has (t : Site) (o : PassageOutcome) (f : Flag) : (t.close o).Has f ↔ t.Has f ∨
    (f = .moduleMissing ∧ t.missingAtClose = true) ∨ (f = .moduleSuspect ∧ t.suspectAtClose = true) ∨
      (f = .headCutOff ∧ ∃ p, ((t.close o).point p).condition ≠ (t.point p).condition) := by
  have same : (t.close o).Has f ↔ t.closedDown.Has f := by rw [close_eq]; rfl
  have changed : (∃ p, t.hasStanding p = true) ↔ ∃ p, ((t.close o).point p).condition ≠ (t.point p).condition :=
    exists_congr fun p => by rw [close_point, hasStanding_iff, Point.atClose_condition_iff]
  rw [same, t.closedDown_spec.flags, changed]

/-- STAND_DOWN is given to the line of a fitted module and of no other (R23, R43, R73). -/
theorem close_line_sending (t : Site) (o : PassageOutcome) (n : Fin 8) : ((t.close o).line n).sending =
    if t.fitted n.val then (t.line n).sending ++ [ModuleFrame.make (BitVec.ofNat 8 (lineKind n).frameByte)
      (t.modules.passageNumber.getD 0#16) (t.line n).sendSeq 2#8 []] else (t.line n).sending := by
  rw [close_line]
  show (t.stoodDown n).sending = _
  unfold stoodDown
  split <;> rfl

theorem close_line_sendSeq (t : Site) (o : PassageOutcome) (n : Fin 8) : ((t.close o).line n).sendSeq =
    if t.fitted n.val then (t.line n).sendSeq + 1#16 else (t.line n).sendSeq := by
  rw [close_line]
  show (t.stoodDown n).sendSeq = _
  unfold stoodDown
  split <;> rfl

theorem close_line_arming (t : Site) (o : PassageOutcome) (n : Fin 8) : ((t.close o).line n).arming =
    if t.endArming n = .ready ∨ t.endArming n = .missing then .idle else t.endArming n := by
  rw [close_line]; rfl

/-- The last-close outcome of a module (R77). -/
theorem close_line_lastClose (t : Site) (o : PassageOutcome) (n : Fin 8) : ((t.close o).line n).lastClose =
    match t.endArming n with
    | .ready => some .ready
    | .missing => some .missing
    | .notFitted => some .notFitted
    | .idle | .arming => (t.line n).lastClose := by
  rw [close_line, ← stoodDown_lastClose]
  rfl

theorem close_line_health (t : Site) (o : PassageOutcome) (n : Fin 8) : ((t.close o).line n).health =
    if t.fitted n.val then (t.stoodDown n).healthAfter else (t.line n).health := by
  rw [close_line, ← stoodDown_health]
  rfl

end Site

/-- The speed figures of a tally: none while its count is 0 (R33). -/
theorem SpeedTally.figure_of_zero {t : SpeedTally} (h : t.count = 0) (v : Nat) : t.figure v = none := if_pos h

theorem SpeedTally.figure_of_pos {t : SpeedTally} (h : t.count ≠ 0) (v : Nat) : t.figure v = some v := if_neg h

/-- Settles O30: the heads, the lines, the roster, the flags, the watch table, the composition and the record, each by its own lemma
about `Site.close`. -/
theorem Machine.closeOfPassage : Obligations.CloseOfPassage := by
  unfold Obligations.CloseOfPassage
  intro t o
  have passage := t.close_passage o
  have point := t.close_point o
  have health := t.stoodDown_healthAfter
  refine ⟨by rw [passage]; rfl, by rw [passage]; rfl, by rw [passage]; rfl, by rw [passage]; rfl, by rw [passage]; rfl,
    by rw [passage]; rfl, by rw [passage]; rfl, t.close_direction o, fun p => ?_, fun h => ⟨fun hs => ?_, fun hs => ?_, ?_, ?_⟩,
    fun p same => ?_, fun p changed => ?_, ?_, ?_, ?_, fun v last opened => ?_, fun closed => ?_, fun n fitted => ?_,
    fun n fitted => ?_, t.close_line_sendSeq o, t.close_line_arming o, t.close_line_lastClose o,
    fun n => ⟨fun fitted => ?_, fun fitted => ?_⟩, fun f => ?_, t.close_composition o, t.close_watch o, fun i k hk opened => ?_⟩
  -- the points and their heads
  · rw [point, Point.atClose_net]
  · rw [t.close_head, Head.atClose_of_standing hs]
  · rw [t.close_head, Head.atClose_of_other hs]
  · rw [t.close_head, Head.atClose_level]
  · rw [t.close_head, Head.atClose_lastChange]
  · rw [point] at same ⊢
    exact Point.atClose_of_same same
  · rw [point] at changed ⊢
    dsimp only
    refine ⟨?_, ?_, ?_, ?_, Point.atClose_last _, Point.atClose_spurious _⟩ <;> rw [Point.atClose_of_changed changed]
    · exact if_congr (Point.seenOccupied_iff _) rfl rfl
    · rfl
    · rfl
    · rfl
  -- the roster
  · rw [t.close_roster]
  · rw [t.close_roster]
  · rw [t.close_roster]
    exact t.closedRoster_serial
  · rw [t.close_roster, Site.closedRoster_of_opened last opened]
    exact t.roster.closeVehicle_last v last
  · rw [t.close_roster, Site.closedRoster_of_closed closed]
    exact ⟨rfl, rfl⟩
  -- the module lines
  · rw [t.close_line_sending, if_pos fitted]
  · rw [t.close_line_sending, if_neg (by rw [fitted]; decide)]
  · rw [t.close_line_health, if_pos fitted, health]; rfl
  · rw [t.close_line_health, if_neg fitted]
  -- the flags
  · rw [t.close_has, t.missingAtClose_iff, t.suspectAtClose_iff]
    simp only [health]
    rfl
  -- the record
  · refine ⟨_, t.close_recordAt o i hk opened, rfl, rfl, fun c => ?_, t.closeFigures o, rfl, rfl, rfl, rfl, rfl, fun none_ => ?_,
      fun some_ => ?_⟩
    · show (t.clockCause _).getLsbD c.bit = true ↔ _
      rw [t.clockCause_has, ← or_assoc]
      refine or_congr_left ?_
      have missing := t.missingAtClose_iff
      by_cases h : t.missingAtClose = true
      · rw [if_pos h, has_setAdd_cause]
        exact or_congr_right (iff_self_and.2 fun _ => missing.1 h)
      · rw [if_neg h]
        exact (or_iff_left fun k => h (missing.2 k.2)).symm
    · exact ⟨SpeedTally.figure_of_zero none_ _, SpeedTally.figure_of_zero none_ _, SpeedTally.figure_of_zero none_ _⟩
    · exact ⟨SpeedTally.figure_of_pos some_ _, SpeedTally.figure_of_pos some_ _, SpeedTally.figure_of_pos some_ _⟩

end Sys2Proof
end

section
/-! PROOF. Crossings in an open passage: the state they restore, their speed and their gap. -/

namespace Sys2Proof

namespace Site

variable {t : Site} {p : PointId}

/-! ### A crossing at the counting gate, and at any other point (R34, R35) -/

/-- A crossing at the counting gate becomes the last counting-gate crossing, and carries its speed and its gap (R34, R35). -/
theorem takeGateCrossing_at {g : Gate} (hg : t.passage.gate = some g) (d : Dir) (i : Option Nat) :
    t.takeGateCrossing g.point d i =
      (t.setPassage
        { t.passage with lastGate := some { time := t.now, dir := d, speed := i.bind (speedOf (t.headSpacing g)) } },
        { speed := i.bind (speedOf (t.headSpacing g)), gap := t.gapOfCrossing d (i.bind (speedOf (t.headSpacing g))) }) := by
  simp only [takeGateCrossing, hg, if_true]
  rw [← hg]
  rfl

/-- A crossing at a point that is not the counting gate changes nothing and carries nothing (R34, R35). -/
theorem takeGateCrossing_elsewhere (h : t.passage.gate.map Gate.point ≠ some p) (d : Dir) (i : Option Nat) :
    t.takeGateCrossing p d i = (t, { speed := none, gap := none }) := by
  unfold takeGateCrossing
  split
  · next g hg =>
    rw [hg] at h
    exact if_neg (fun e => h (congrArg some e))
  · rfl

/-- The latched head spacing of a gate (R34). -/
theorem headSpacing_eq (t : Site) (g : Gate) :
    t.headSpacing g = t.passage.latched.nat (if g = .ga then .gaHeadSpacing else .gbHeadSpacing) := by cases g <;> rfl

/-- The gap of a crossing with a speed behind one in the counting direction, itself in that direction (R35). -/
theorem gapOfCrossing_of_along {v : Nat} {k : GateCrossing} {d : Dir} (hk : t.passage.lastGate = some k)
    (hd : t.points.direction = some d) (e : k.dir = d) : t.gapOfCrossing d (some v) = some (gapOf v (t.now - k.time)) := by
  simp only [gapOfCrossing, hk]
  exact if_pos ⟨hd, e ▸ hd⟩

/-- Without a speed, without a last crossing, or against the counting direction there is no gap (R35). -/
theorem gapOfCrossing_of_not_along {speed : Option Nat} {d : Dir} (h : speed = none ∨ t.passage.lastGate = none ∨
    t.points.direction ≠ some d ∨ ∃ k, t.passage.lastGate = some k ∧ k.dir ≠ d) : t.gapOfCrossing d speed = none := by
  unfold gapOfCrossing
  split
  · next v k hk =>
    refine if_neg (fun ⟨along, behind⟩ => ?_)
    rcases h with h | h | h | ⟨j, hj, hne⟩
    · cases h
    · rw [hk] at h; cases h
    · exact h along
    · rw [hk, Option.some.injEq] at hj
      exact hne (hj ▸ Option.some.inj (behind.symm.trans along))
  · rfl

/-! ### What a crossing does to an open passage before it is counted (R36, R39) -/

/-- A crossing in an open passage is taken by its state, and then at the counting gate. -/
theorem takeCrossing_of_open (ho : t.passageOpen = true) (d : Dir) (i : Option Nat) :
    t.takeCrossing p d i = (t.takeOpenCrossing p).takeGateCrossing p d i := by
  simp only [takeCrossing, ho, if_true]

theorem passageOpen_of_running (h : t.passage.phase = .inPassage ∨ t.passage.phase = .standstill) : t.passageOpen = true := by
  rcases h with h | h <;> rw [passageOpen, h] <;> rfl

theorem passageOpen_of_clearing (h : t.passage.phase = .clearing) : t.passageOpen = true := by rw [passageOpen, h]; rfl

/-- In IN_PASSAGE and STANDSTILL a crossing is one of a gate, which restarts the standstill timer, or one of an approach. -/
theorem takeOpenCrossing_of_running (h : t.passage.phase = .inPassage ∨ t.passage.phase = .standstill) (p : PointId) :
    t.takeOpenCrossing p = if p.gate.isSome then t.returnToPassage else t := by
  rcases h with h | h <;> simp only [takeOpenCrossing, h]

/-- In CLEARING a crossing at the check set or the counting gate returns to IN_PASSAGE (R39). -/
theorem takeOpenCrossing_of_returning (h : t.passage.phase = .clearing)
    (hp : t.passage.watches p = true ∨ t.passage.gate.map Gate.point = some p) : t.takeOpenCrossing p = t.returnToPassage := by
  simp only [takeOpenCrossing, h]
  exact if_pos (by rw [Bool.or_eq_true, beq_iff_eq]; exact hp)

theorem takeOpenCrossing_of_ignored (h : t.passage.phase = .clearing)
    (hp : ¬(t.passage.watches p = true ∨ t.passage.gate.map Gate.point = some p)) : t.takeOpenCrossing p = t := by
  simp only [takeOpenCrossing, h]
  exact if_neg (by rw [Bool.or_eq_true, beq_iff_eq]; exact hp)

end Site

/-! ### The speed of a crossing (R34) -/

/-- The rounded speed: `v` where 360 times the spacing over the interval lies within half a unit of it, a half rounding up. -/
theorem speedOf_eq {spacing interval v : Nat} (low : 2 * interval * v ≤ 720 * spacing + interval)
    (high : 720 * spacing + interval < 2 * interval * (v + 1)) : speedOf spacing interval = if v ≤ 3000 then some v else none := by
  have rounded : (720 * spacing + interval) / (2 * interval) = v :=
    Nat.div_eq_of_lt_le (by rwa [Nat.mul_comm v]) (by rwa [Nat.mul_comm (v + 1)])
  simp only [speedOf, rounded]

namespace Machine

/-- Settles O25: what the crossing does to the state of the passage (`Site.takeOpenCrossing`), then the gap it carries
(`Site.gapOfCrossing`). -/
theorem crossingsInPassage : Obligations.CrossingsInPassage := by
  refine ⟨fun t p d i => ?_, fun t g d i hg => ?_⟩
  · intro back counts runs takes
    have taken : ∀ u : Site, t.passageOpen = true → t.takeOpenCrossing p = u → takes u := fun u ho hu =>
      ⟨hu, (Site.takeCrossing_of_open ho d i).trans (by rw [hu])⟩
    refine ⟨fun h hp => ?_, fun h hp => ?_, fun h hp => ?_, fun h hp => ?_, fun h => Site.takeGateCrossing_elsewhere h d i⟩
    · refine taken _ (Site.passageOpen_of_running h) ((Site.takeOpenCrossing_of_running h p).trans (if_pos ?_))
      rcases hp with rfl | rfl <;> rfl
    · refine taken _ (Site.passageOpen_of_running h) ((Site.takeOpenCrossing_of_running h p).trans (if_neg ?_))
      rcases hp with rfl | rfl <;> decide
    · exact taken _ (Site.passageOpen_of_clearing h) (Site.takeOpenCrossing_of_returning h hp)
    · exact taken _ (Site.passageOpen_of_clearing h) (Site.takeOpenCrossing_of_ignored h hp)
  · intro r
    have crossed : r = _ := Site.takeGateCrossing_at hg d i
    rw [crossed]
    refine ⟨rfl, fun v k hv hk hd e => ?_, fun h => Site.gapOfCrossing_of_not_along h⟩
    simp only at hv ⊢
    rw [hv, Site.gapOfCrossing_of_along hk hd e]
    rfl

/-- Settles O26: the crossing at the counting gate and elsewhere, the rounding (`speedOf_eq`), and the spec's worked figures. -/
theorem speedOfCrossing : Obligations.SpeedOfCrossing := by
  refine ⟨fun t g d i hg => ?_, fun t p d i h => ?_, fun _ _ _ _ low high => speedOf_eq low high, by decide⟩
  · rw [Site.takeGateCrossing_at hg, t.headSpacing_eq]
  · rw [Site.takeGateCrossing_elsewhere h]

end Machine

end Sys2Proof
end

section
/-! PROOF. A point that becomes OUT leaves the check set of an open passage. -/

namespace Sys2Proof

/-- The members of a check set with a point taken out (R29). -/
theorem setDrop_has (b : BitVec 4) (p q : PointId) : setHas (setDrop b p.bit) q.bit = true ↔ q ≠ p ∧ setHas b q.bit = true := by
  have taken : (BitVec.twoPow 4 p.bit).getLsbD q.bit = decide (q = p) := by cases p <;> cases q <;> decide
  have inside : decide (q.bit < 4) = true := decide_eq_true q.bit_lt
  simp only [setHas, setDrop, BitVec.getLsbD_and, BitVec.getLsbD_not, taken, inside, Bool.true_and, Bool.and_eq_true,
    Bool.not_eq_true', decide_eq_false_iff_not, and_comm, ne_eq]

namespace Site

variable {t : Site}

@[simp] theorem addRecordCause_passage (t : Site) (c : Cause) : (t.addRecordCause c).passage = t.passage := rfl

/-! ### The count check and the membership (R29, R37, R39 to R41) -/

/-- The exit gate counts more than the entry gate, both in the check set (R41). -/
theorem exitAbove_iff (t : Site) : t.exitAbove = true ↔ t.passage.watches .ga = true ∧ t.passage.watches .gb = true ∧
    ∃ d, t.passage.direction = some d ∧ (t.point d.entryGate.point).net < (t.point d.exitGate.point).net := by
  unfold exitAbove
  split
  · next d hd =>
    simp only [Bool.and_eq_true, decide_eq_true_eq, hd, Option.some.injEq, exists_eq_left', and_assoc]
  · next hd =>
    simp only [hd, Bool.false_eq_true, reduceCtorEq, false_and, exists_false, and_false]

/-- The count check adds its cause to the OPEN record, or changes nothing (R41). -/
theorem testGateCounts_of_exitAbove (h : t.exitAbove = true) : t.testGateCounts = t.addRecordCause .gateCountFault := by
  rw [testGateCounts, addRecordCauseIf, if_pos h]

theorem testGateCounts_of_not_exitAbove (h : ¬t.exitAbove = true) : t.testGateCounts = t := by
  rw [testGateCounts, addRecordCauseIf, if_neg h]

/-- The count check changes the train table alone. -/
theorem testGateCounts_eq (t : Site) : ∃ train, t.testGateCounts = t.setTrain train :=
  t.addRecordCauseIf_eq t.exitAbove .gateCountFault

theorem leaveCheckSet_of_other {p : PointId} (h : t.passageOpen = false ∨ t.passage.watches p = false) :
    t.leaveCheckSet p = t := by
  refine if_neg (fun k => ?_)
  rw [Bool.and_eq_true] at k
  rcases h with h | h <;> rw [h] at k <;> simp at k

theorem leaveCheckSet_of_member {p : PointId} (ho : t.passageOpen = true) (hw : t.passage.watches p = true) :
    t.leaveCheckSet p =
      (t.setPassage { t.passage with checkSet := setDrop t.passage.checkSet p.bit }).testMembership :=
  if_pos (by rw [ho, hw]; rfl)

/-- In IN_PASSAGE a change of membership is followed by the count check and the clearing condition (R37, R41). -/
theorem testMembership_of_inPassage (h : t.passage.phase = .inPassage) : t.testMembership = t.testGateCounts.testClearing := by
  obtain ⟨train, e⟩ := t.testGateCounts_eq
  have phase : t.testGateCounts.passage.phase = .inPassage := by rw [e]; exact h
  simp only [testMembership, phase]

/-- In STANDSTILL fewer than two members make the state CLEARING (R40). -/
theorem testMembership_of_standstill (h : t.passage.phase = .standstill) : t.testMembership =
    if t.passage.members < 2 then t.testGateCounts.clearUnchecked else t.testGateCounts.testClearing := by
  obtain ⟨train, e⟩ := t.testGateCounts_eq
  have passage : t.testGateCounts.passage = t.passage := by rw [e]; rfl
  simp only [testMembership, passage, h]

/-- In CLEARING fewer than two members add COUNT_UNCHECKED (R39). -/
theorem testMembership_of_clearing (h : t.passage.phase = .clearing) : t.testMembership =
    if t.passage.members < 2 then t.testGateCounts.addRecordCause .countUnchecked else t.testGateCounts := by
  obtain ⟨train, e⟩ := t.testGateCounts_eq
  have passage : t.testGateCounts.passage = t.passage := by rw [e]; rfl
  simp only [testMembership, passage, h]

end Site

namespace Machine

/-- Settles O28: the point taken out of the check set (`setDrop_has`), the count check (`Site.testGateCounts`), and what the state of
the passage makes of the members left (`Site.testMembership`). -/
theorem checkSetLeft : Obligations.CheckSetLeft := by
  intro t p r
  refine ⟨Site.leaveCheckSet_of_other, fun ho hw => ?_⟩
  refine ⟨t.setPassage { t.passage with checkSet := setDrop t.passage.checkSet p.bit },
    ⟨_, rfl, fun q => setDrop_has t.passage.checkSet p q⟩, ?_⟩
  have left : r = _ := Site.leaveCheckSet_of_member ho hw
  generalize hu : t.setPassage { t.passage with checkSet := setDrop t.passage.checkSet p.bit } = u at left ⊢
  have phase : u.passage.phase = t.passage.phase := by rw [← hu]; rfl
  have fault_iff := u.exitAbove_iff
  have point : ∀ q, u.point q = t.point q := fun q => by rw [← hu]; rfl
  have direction : u.passage.direction = t.passage.direction := by rw [← hu]; rfl
  have net : u.gateNet = t.gateNet := by rw [← hu]; rfl
  have now : u.now = t.now := by rw [← hu]; rfl
  simp only [point, direction] at fault_iff
  intro v fault few agreed clears checked
  have counts : v = u.testGateCounts := by
    rcases checked with ⟨hf, hv⟩ | ⟨hf, hv⟩
    · rw [hv, Site.testGateCounts_of_exitAbove (fault_iff.2 hf)]
    · rw [hv, Site.testGateCounts_of_not_exitAbove (fun k => hf (fault_iff.1 k))]
  obtain ⟨train, e⟩ := u.testGateCounts_eq
  have frame : v = u.setTrain train := counts.trans e
  have cleared : ∀ o, v.becomeClearing o = clears o := fun o => by
    show _ = v.setPassage _
    rw [← now, frame]; rfl
  have condition : (2 ≤ v.passage.members ∧ ∃ n, 1 ≤ n ∧ ∀ q, v.passage.watches q = true → (v.point q).net = n) ↔ agreed := by
    have atV : ∀ q, v.point q = t.point q := fun q => by rw [← point, frame]; rfl
    have passage : v.passage = u.passage := by rw [frame]; rfl
    simp only [atV, passage, agreed, few, Nat.not_lt]
  have byCount : v.outcomeByCount = if t.gateNet = 0 then .withdrawn else .complete := by rw [← net, frame]; rfl
  have running : ∀ f, t.passage.phase = f → v.passage.phase = f := fun f hf => by rw [frame]; exact phase.trans hf
  have test : t.passage.phase = .inPassage ∨ (t.passage.phase = .standstill ∧ ¬few) → r = v.testClearing := by
    rintro (hp | ⟨hp, hf⟩)
    · rw [left, Site.testMembership_of_inPassage (phase.trans hp), counts]
    · rw [left, Site.testMembership_of_standstill (phase.trans hp), if_neg hf, counts]
  have stays : ¬agreed → v.testClearing = v := fun ha => Site.testClearing_of_not_agreed (fun k => ha (condition.1 k.2))
  refine ⟨fun hp ha => ?_, fun hp ha => (test (.inl hp)).trans (stays ha), fun hp hf ha => (test (.inr ⟨hp, hf⟩)).trans (stays ha),
    fun hp hf => ?_, fun hp hf => ?_, fun hp hf => ?_⟩
  · rw [test (hp.imp_right (fun h => ⟨h, ha.1⟩)),
      Site.testClearing_of_agreed (hp.imp (running _) (running _)) (condition.2 ha), cleared]
  · rw [left, Site.testMembership_of_standstill (phase.trans hp), if_pos hf, ← counts, Site.clearUnchecked, cleared, byCount]
  · rw [left, Site.testMembership_of_clearing (phase.trans hp), if_pos hf, counts]
  · rw [left, Site.testMembership_of_clearing (phase.trans hp), if_neg hf, counts]

end Machine

end Sys2Proof
end

section
/-! PROOF. A READY taken by its module's arming state. -/

namespace Sys2Proof

/-- The ambient unit is on the last line (chapter 4). -/
theorem lineKind_eq_ambientUnit (n : Fin 8) : lineKind n = .ambientUnit ↔ n = 7 := by revert n; decide

theorem lineKind_eq_tagReader (n : Fin 8) : lineKind n = .tagReader ↔ n = 6 := by revert n; decide

/-- The lines of bays and scanners are the first six (chapter 4). -/
theorem lineKind_of_lt (n : Fin 8) : (lineKind n = .bay ∨ lineKind n = .scanner) ↔ n.val < 6 := by revert n; decide

/-- A frame that is well made passes the form check (R70). -/
theorem WellMade.formOk {n : Fin 8} {f : ModuleFrame} (h : WellMade n f) : formOk n f = true := by
  obtain ⟨-, kind, length, direction⟩ := h
  have heading : directionOk (lineKind n) f = true := by
    by_cases code : f.code = reportCode
    · have given : n.val < 6 → (natAt f.payload 0 1 == 1 || natAt f.payload 0 1 == 2) = true := fun hn => by
        simpa using direction hn code
      unfold directionOk
      split
      · next k => rw [Bool.or_assoc, given ((lineKind_of_lt n).1 (.inl k)), Bool.or_true]
      · next k => rw [Bool.or_assoc, given ((lineKind_of_lt n).1 (.inr k)), Bool.or_true]
      · rfl
      · rfl
    · unfold directionOk
      split <;> simp [code]
  simp only [Sys2Proof.formOk, kind, length, heading, beq_self_eq_true, Bool.and_true]

namespace Site

variable {t : Site}

theorem hunted_line (t : Site) (n k : Fin 8) :
    (t.hunted n).line k = if k = n then { t.line n with receiver := .hunting } else t.line k := putLine_line _ _ _ _

theorem hunted_arming (t : Site) (n k : Fin 8) : ((t.hunted n).line k).arming = (t.line k).arming := by
  rw [hunted_line]
  split
  · next e => rw [e]
  · rfl

/-- A current frame is not stale (R72). -/
theorem Current.not_stale {n : Fin 8} {f : ModuleFrame} (h : t.Current n f) : (t.hunted n).stale n f = false := by
  obtain ⟨number, fitted, reader⟩ := h
  have line : (t.hunted n).modules.passageNumber = t.modules.passageNumber := rfl
  rw [← Bool.not_eq_true]
  intro k
  simp only [stale, hunted_arming, line, number, bne_self_eq_false, Bool.false_or, Bool.or_eq_true, Bool.and_eq_true,
    beq_iff_eq, bne_iff_ne, ne_eq, lineKind_eq_tagReader] at k
  rcases k with k | ⟨idle, code | line⟩
  · exact fitted k
  · rw [(reader idle).2] at code
    exact absurd code (by decide)
  · exact line (reader idle).1

/-- A frame that is heard is taken, the receiver hunting (R69, R70). -/
theorem takeFrame_of_hears {n : Fin 8} {f : ModuleFrame} (h : t.Hears n f) (take : Site → Site) :
    t.takeFrame n f take = take (t.hunted n) := by
  obtain ⟨mode, made, current⟩ := h
  have crc : crcOk f = true := by rw [crcOk, made.1]; exact beq_self_eq_true _
  have fresh : (t.updateLine n (fun l => l.receive .hunting)).stale n f = false := Current.not_stale current
  simp only [takeFrame, mode, ne_eq, not_true_eq_false, crc, WellMade.formOk made, fresh, Bool.true_eq_false, Bool.false_eq_true,
    if_false]
  rfl

/-! ### A READY taken (R74) -/

/-- The module READY, with the passage ambient that the ambient unit's temperature sets (R74). -/
theorem moduleReady_eq {n : Fin 8} {payload : List Byte} (h : n = 7 → payload.length = 2) : t.moduleReady n payload =
    (t.putLine n { t.line n with arming := .ready }).setModules
      { (t.putLine n { t.line n with arming := .ready }).modules with
        ambient := if n = 7 then
            (if -600 ≤ intAt payload 0 2 ∧ intAt payload 0 2 ≤ 2500 then some (intAt payload 0 2) else none)
          else t.modules.ambient } := by
  simp only [moduleReady, readyAmbient, lineKind_eq_ambientUnit]
  by_cases hn : n = 7
  · simp only [hn, if_true, true_and, h hn]
    rfl
  · simp only [hn, if_false]
    rfl

theorem allReady_iff (t : Site) :
    t.allReady = true ↔ ∀ k : Fin 8, t.fitted k.val = true → (t.line k).arming = .ready := by
  simp only [allReady, List.all_eq_true, List.mem_finRange, forall_true_left, Bool.or_eq_true, Bool.not_eq_true', beq_iff_eq]
  exact forall_congr' fun k => by rw [← Bool.not_eq_true, imp_iff_not_or]

/-- ARMING gives way to ARMED, any other state stands (R23). -/
theorem becomeArmed_of_arming (h : t.passage.phase = .arming) : t.becomeArmed = t.setPassage
    { t.passage with
      phase := .armed
      timers := { t.passage.timers with armTimeout := if t.passage.held then none else some t.now } } := if_pos h

theorem becomeArmed_of_other (h : t.passage.phase ≠ .arming) : t.becomeArmed = t := if_neg h

/-- The last READY awaited while the arm timer runs ends the arming (R23). -/
theorem readyReported_of_all (h : t.passage.timers.arm.isSome = true ∧ ∀ k : Fin 8, t.fitted k.val = true →
    (t.line k).arming = .ready) : t.readyReported = t.stopArmTimer.becomeArmed :=
  if_pos (by rw [Bool.and_eq_true, allReady_iff]; exact h)

theorem readyReported_of_not_all (h : ¬(t.passage.timers.arm.isSome = true ∧ ∀ k : Fin 8, t.fitted k.val = true →
    (t.line k).arming = .ready)) : t.readyReported = t :=
  if_neg (by rw [Bool.and_eq_true, allReady_iff]; exact h)

/-- A record is OPEN (R27). -/
theorem recordOpen_iff (t : Site) : t.recordOpen = true ↔ t.HasOpenRecord := by
  simp only [recordOpen, List.any_eq_true, Option.any_eq_true, beq_iff_eq]
  constructor
  · rintro ⟨x, hx, k, rfl, open_⟩
    rw [Vector.mem_toList_iff, Vector.mem_iff_getElem] at hx
    obtain ⟨i, hi, e⟩ := hx
    exact ⟨⟨i, hi⟩, k, e, open_⟩
  · rintro ⟨i, k, hk, open_⟩
    refine ⟨some k, ?_, k, rfl, open_⟩
    rw [Vector.mem_toList_iff, Vector.mem_iff_getElem]
    exact ⟨i.val, i.isLt, hk⟩

/-- A cause goes to the OPEN record, or waits where none is OPEN (R74, R84). -/
theorem addCause_of_open (h : t.HasOpenRecord) (c : Cause) : t.addCause c = t.addRecordCause c :=
  if_pos (t.recordOpen_iff.2 h)

theorem addCause_of_not_open (h : ¬t.HasOpenRecord) (c : Cause) : t.addCause c = t.addPending c :=
  if_neg (fun k => h (t.recordOpen_iff.1 k))

end Site

namespace Machine

/-- A READY is heard by its line (R69, R74). -/
theorem exec_moduleReady {s : State} {n : Fin 8} {f : ModuleFrame} (code : f.code = 3#8) (h : s.site.Hears n f) :
    exec (.moduleReady n f) s = .next (s.setSite ((s.site.hunted n).takeReady n f.payload)) := by
  obtain ⟨-, -, length, -⟩ := h.2.1
  have short : f.payload.length ≤ 11 := by
    rw [code] at length
    have bytes : ∀ k : ModuleKind, ∃ b, b ≤ 2 ∧ payloadBytes k 3#8 = some b := fun k => by
      cases k <;> exact ⟨_, by decide, rfl⟩
    obtain ⟨b, hb, e⟩ := bytes (lineKind n)
    have same : b = f.payload.length := Option.some.inj (e.symm.trans length)
    omega
  have wf : readyWf f = true := by
    rw [readyWf, ModuleFrame.fits, code, decide_eq_true short]; rfl
  have taken : s.site.readyFrame n f = _ := Site.takeFrame_of_hears h _
  rw [← taken]
  exact if_pos wf

/-- Settles O35: the frame is taken (`exec_moduleReady`), the module is READY (`Site.moduleReady_eq`), and the rest is decided by its
arming state: `Site.readyReported` where it was ARMING, `Site.addCause` where it was MISSING. -/
theorem readyTaken : Obligations.ReadyTaken := by
  intro s n f code hears t a x ready t1 all gives
  have payload : n = 7 → f.payload.length = 2 := fun hn => by
    obtain ⟨-, -, length, -⟩ := hears.2.1
    rw [code, hn] at length
    exact (Option.some.inj length).symm
  have up : t.moduleReady n f.payload = t1 := Site.moduleReady_eq payload
  have taken : ∀ r, t.takeReady n f.payload = r → gives r := fun r hr => by
    rw [← hr]; exact exec_moduleReady code hears
  have arming : (t.line n).arming = .arming → t.takeReady n f.payload = t1.readyReported := fun h => by
    simp only [Site.takeReady, h, up]
  have missing : (t.line n).arming = .missing → t.takeReady n f.payload = t1.addCause .lateModule := fun h => by
    simp only [Site.takeReady, h, up]
  refine ⟨fun h hn => taken _ ?_, fun h ha hp => taken _ ?_, fun h ha hp => taken _ ?_, fun h ho => taken _ ?_, fun h ho => taken _ ?_,
    fun h => taken _ ?_⟩
  · rw [arming h, Site.readyReported_of_not_all hn]
  · exact (arming h).trans ((Site.readyReported_of_all ha).trans (Site.becomeArmed_of_other (t := t1.stopArmTimer) hp))
  · exact (arming h).trans ((Site.readyReported_of_all ha).trans (Site.becomeArmed_of_arming (t := t1.stopArmTimer) hp))
  · exact (missing h).trans (Site.addCause_of_open (t := t1) ho _)
  · exact (missing h).trans (Site.addCause_of_not_open (t := t1) ho _)
  · simp only [Site.takeReady, h]

end Machine

end Sys2Proof
end

section
/-! PROOF. The handing over of contributions, and the end of a composition. -/

namespace Sys2Proof

/-- Grades of at least ALARM are ALARM and STOP (R143). -/
theorem Grade.atLeast_alarm (g : Grade) : g.atLeast .alarm = true ↔ g = .alarm ∨ g = .stop := by cases g <;> decide

/-- The grade a record ends its composition with, CLEAR without a verdict (R138, R143). -/
def TrainRecord.finalGrade (r : TrainRecord) : Grade :=
  match r.verdict with
  | some v => v.grade
  | none => .clear

namespace Site

variable {t : Site}

theorem whenRunning_of_not_running (hm : t.mode ≠ .running) (f : Site → Site) : t.whenRunning f = t := if_neg hm

/-! ### A step taken when it is the next one (R132) -/

theorem composeStep_of_next {c : Composition} (hc : t.composition = some c) (f : Composition → Site) :
    t.composeStep c.step f = f c := by
  simp only [composeStep, hc, if_true]

theorem composeStep_of_other {k : CompStep} (h : ∀ c, t.composition = some c → c.step ≠ k) (f : Composition → Site) :
    t.composeStep k f = t := by
  unfold composeStep
  split
  · next c hc => exact if_neg (h c hc)
  · rfl

/-! ### The contributions handed over, and the end (R142, R143) -/

variable {c : Composition}

/-- The next contribution is handed to the watch table (R142). -/
theorem sendContribution_of_cons {k : Contribution} {ks : List Contribution} (hc : t.composition = some c)
    (hs : c.step = .contribute) (hk : c.contributions = k :: ks) :
    t.sendContribution = (t.setComposition (some { c with contributions := ks })).contribute k := by
  rw [sendContribution, ← hs, composeStep_of_next hc, hk]
  rfl

theorem sendContribution_of_nil (hc : t.composition = some c) (hs : c.step = .contribute) (hk : c.contributions = []) :
    t.sendContribution = t := by
  rw [sendContribution, ← hs, composeStep_of_next hc, hk]

theorem composeEnd_of_cons {k : Contribution} {ks : List Contribution} (hc : t.composition = some c)
    (hs : c.step = .contribute) (hk : c.contributions = k :: ks) : t.composeEnd = t := by
  rw [composeEnd, ← hs, composeStep_of_next hc, hk]

/-- With no contribution left the composition ends; a held opening takes effect, or the sweep resumes (R32, R143, R190). -/
theorem composeEnd_of_nil (hc : t.composition = some c) (hs : c.step = .contribute) (hk : c.contributions = []) :
    t.composeEnd =
      if t.closeComposition.passage.held then t.closeComposition.effectHeld else t.closeComposition.resumeSweep := by
  rw [composeEnd, ← hs, composeStep_of_next hc, hk]

/-- A SUSPENDED sweep is RUNNING again, any other stands (R190). -/
theorem resumeSweep_of_suspended (h : t.watch.sweepState = .suspended) :
    t.resumeSweep = t.setWatch { t.watch with sweepState := .running } := if_pos h

theorem resumeSweep_of_other (h : t.watch.sweepState ≠ .suspended) : t.resumeSweep = t := if_neg h

/-! ### The record CLOSED (R143) -/

/-- The flags of the end of a composition: TRAIN_CLOSED, GRADE_ALARM from ALARM on, DEFERRED_WAITING with a DEFERRED finding. -/
theorem raiseVerdictFlags_eq (t : Site) (r : TrainRecord) : t.raiseVerdictFlags r =
    let f1 := t.raise .trainClosed
    let f2 := if r.finalGrade = .alarm ∨ r.finalGrade = .stop then f1.raise .gradeAlarm else f1
    if 0 < r.deferred then f2.raise .deferredWaiting else f2 := by
  have grade : t.raiseVerdictFlags r = ((t.raise .trainClosed).raiseIf (r.finalGrade.atLeast .alarm) .gradeAlarm).raiseIf
    (decide (0 < r.deferred)) .deferredWaiting := rfl
  simp only [grade, raiseIf, Grade.atLeast_alarm, decide_eq_true_eq]

theorem raiseVerdictFlags_frame (t : Site) (r : TrainRecord) : ∃ flags, t.raiseVerdictFlags r = t.setFlags flags := by
  unfold raiseVerdictFlags
  dsimp only
  generalize Grade.atLeast _ _ = alarm
  generalize decide (0 < r.deferred) = waiting
  cases alarm <;> cases waiting <;> exact ⟨_, rfl⟩

/-- The end of a composition leaves the passage controller and the watch table. -/
theorem closeComposition_frame (t : Site) :
    t.closeComposition.passage = t.passage ∧ t.closeComposition.watch = t.watch := by
  unfold closeComposition
  dsimp only
  split
  · next r _ =>
    obtain ⟨flags, e⟩ :=
      ((t.updateRecord .closing (fun r => { r with phase := .closed })).setComposition none).raiseVerdictFlags_frame r
    rw [e]
    exact ⟨rfl, rfl⟩
  · exact ⟨rfl, rfl⟩

end Site

namespace Machine

theorem exec_passageContribution (s : State) :
    exec .passageContribution s = .next (s.setSite (s.site.whenRunning Site.sendContribution)) := rfl

theorem exec_compositionEnd (s : State) :
    exec .compositionEnd s = .next (s.setSite (s.site.whenRunning Site.composeEnd)) := rfl

/-- Settles O42: the two commands by the contributions left (`Site.sendContribution_of_cons`, `Site.composeEnd_of_nil`), and without
effect when they are not the next step (`Site.composeStep_of_other`). -/
theorem compositionEnds : Obligations.CompositionEnds := by
  refine ⟨fun s c hrun hc hs => ?_, fun s h => ?_⟩
  · intro t closed flagged
    have isFlagged : t.closeComposition = flagged := by
      simp only [Site.closeComposition, Site.raiseVerdictFlags_eq]
      rfl
    obtain ⟨passage, watch⟩ := t.closeComposition_frame
    rw [isFlagged] at passage watch
    rw [exec_passageContribution, exec_compositionEnd, Site.whenRunning_of_running hrun, Site.whenRunning_of_running hrun]
    refine ⟨fun k ks hk => ?_, fun hk => ?_⟩
    · rw [Site.sendContribution_of_cons hc hs hk, Site.composeEnd_of_cons hc hs hk]
      exact ⟨rfl, rfl⟩
    · have finish := Site.composeEnd_of_nil (t := t) hc hs hk
      rw [isFlagged, passage] at finish
      refine ⟨by rw [Site.sendContribution_of_nil hc hs hk]; rfl, fun held => ?_, fun held hw => ?_, fun held hw => ?_⟩
      · rw [finish, held]; rfl
      · rw [finish, held, ← watch, ← Site.resumeSweep_of_suspended (watch ▸ hw)]; rfl
      · rw [finish, held, Site.resumeSweep_of_other (watch ▸ hw)]; rfl
  · rw [exec_passageContribution, exec_compositionEnd]
    by_cases hrun : s.Running
    · have other : ∀ c, s.site.composition = some c → c.step ≠ .contribute := fun c => h c hrun
      rw [Site.whenRunning_of_running hrun, Site.whenRunning_of_running hrun, Site.sendContribution, Site.composeEnd,
        Site.composeStep_of_other other, Site.composeStep_of_other other, State.setSite_self]
      exact ⟨rfl, rfl⟩
    · rw [Site.whenRunning_of_not_running hrun, Site.whenRunning_of_not_running hrun, State.setSite_self]
      exact ⟨rfl, rfl⟩

end Machine

end Sys2Proof
end

section
/-! PROOF. The five timers of the passage controller. -/

namespace Sys2Proof

/-- A module stood down is IDLE, unless it is not fitted (R78). -/
theorem ModuleLine.standDown_eq (l : ModuleLine) :
    l.standDown = { l with arming := if l.arming = .notFitted then .notFitted else .idle } := by
  obtain ⟨state⟩ := l
  cases state <;> rfl

namespace Site

variable {t : Site}

/-- A timer runs, and its time is out (R23, R24, R36, R39, R42). -/
theorem timerDue_iff (t : Site) (n : TimerName) :
    t.timerDue n = true ↔ ∃ x, t.passage.timers.get n = some x ∧ x + t.timerLimit n ≤ t.now := by
  simp only [timerDue, due, elapsed, Option.any_eq_true, decide_eq_true_eq]

/-! ### The arm timer and the arm timeout (R23, R24) -/

theorem armTimerEvent_of_due (h : t.timerDue .arm = true) : t.armTimerEvent = t.armExpiry := if_pos h

theorem armTimerEvent_of_not_due (h : ¬t.timerDue .arm = true) : t.armTimerEvent = t := if_neg h

/-- A module line after the arm timeout: STAND_DOWN sent to a fitted module, and the module stood down (R24, R78). -/
theorem armTimeoutExpiry_line (t : Site) (n : Fin 8) : t.armTimeoutExpiry.line n =
    (if t.fitted n.val then (t.line n).give n.val t.passageWord standDownCode [] else t.line n).standDown := by
  rw [← sendStandDown_line]
  exact mapLines_line t.sendStandDown _ n

theorem armTimeoutExpiry_sending (t : Site) (n : Fin 8) : (t.armTimeoutExpiry.line n).sending =
    if t.fitted n.val then (t.line n).sending ++ [ModuleFrame.make (BitVec.ofNat 8 (lineKind n).frameByte)
      (t.modules.passageNumber.getD 0#16) (t.line n).sendSeq 2#8 []] else (t.line n).sending := by
  rw [armTimeoutExpiry_line, ModuleLine.standDown_eq]
  dsimp only
  split <;> rfl

theorem armTimeoutExpiry_sendSeq (t : Site) (n : Fin 8) : (t.armTimeoutExpiry.line n).sendSeq =
    if t.fitted n.val then (t.line n).sendSeq + 1#16 else (t.line n).sendSeq := by
  rw [armTimeoutExpiry_line, ModuleLine.standDown_eq]
  dsimp only
  split <;> rfl

theorem armTimeoutExpiry_arming (t : Site) (n : Fin 8) : (t.armTimeoutExpiry.line n).arming =
    if (t.line n).arming = .notFitted then .notFitted else .idle := by
  rw [armTimeoutExpiry_line, ModuleLine.standDown_eq, ← sendStandDown_line]
  dsimp only
  rw [sendStandDown_arming]

/-! ### The standstill timer (R36, R40) -/

/-- Two members or more: STANDSTILL, with its cause (R36). -/
theorem standstillExpiry_of_members (h : 2 ≤ t.passage.members) : t.standstillExpiry =
    (t.setPassage { t.passage with phase := .standstill, timers := { t.passage.timers with standstill := none } }).addRecordCause
      .standstill := if_pos h

/-- Fewer than two members: CLEARING by the counting gate's count, COUNT_UNCHECKED (R40). -/
theorem standstillExpiry_of_few (h : t.passage.members < 2) : t.standstillExpiry = t.clearUnchecked :=
  if_neg (Nat.not_le.2 h)

end Site

namespace Machine

variable {s : State}

theorem exec_armTimerExpiry (hrun : s.Running) : exec .armTimerExpiry s = .next (s.setSite s.site.armTimerEvent) := by
  rw [← Site.whenRunning_of_running hrun Site.armTimerEvent]; rfl

theorem exec_armTimeoutExpiry (hrun : s.Running) : exec .armTimeoutExpiry s = .next (s.setSite s.site.armTimeoutEvent) := by
  rw [← Site.whenRunning_of_running hrun Site.armTimeoutEvent]; rfl

theorem exec_standstillTimerExpiry (hrun : s.Running) :
    exec .standstillTimerExpiry s = .next (s.setSite s.site.standstillEvent) := by
  rw [← Site.whenRunning_of_running hrun Site.standstillEvent]; rfl

theorem exec_clearTimerExpiry (hrun : s.Running) : exec .clearTimerExpiry s = .next (s.setSite s.site.clearEvent) := by
  rw [← Site.whenRunning_of_running hrun Site.clearEvent]; rfl

theorem exec_passageLimitExpiry (hrun : s.Running) : exec .passageLimitExpiry s = .next (s.setSite s.site.limitEvent) := by
  rw [← Site.whenRunning_of_running hrun Site.limitEvent]; rfl

/-- Settles O29: each command by whether its timer is due (`Site.timerDue_iff`); the arm timeout's expiry line by line
(`Site.armTimeoutExpiry_line`). -/
theorem passageTimersExpire : Obligations.PassageTimersExpire := by
  refine ⟨fun s hrun => ?_, fun s hrun => ?_⟩
  · intro t a armDue outDue given
    have arm : t.timerDue .arm = true ↔ armDue := t.timerDue_iff .arm
    have out : (t.passage.phase = .armed ∧ t.passage.held = false ∧ t.timerDue .armTimeout = true) ↔ outDue :=
      and_congr_right fun _ => and_congr_right fun _ => t.timerDue_iff .armTimeout
    rw [exec_armTimerExpiry hrun, exec_armTimeoutExpiry hrun]
    refine ⟨fun due other => ?_, fun due arming => ?_, fun due => ?_, fun due => ?_, fun due => ?_⟩
    · rw [Site.armTimerEvent_of_due (arm.2 due), Site.armExpiry,
        Site.becomeArmed_of_other (t := t.giveUpModules.stopArmTimer) other]
      rfl
    · rw [Site.armTimerEvent_of_due (arm.2 due), Site.armExpiry,
        Site.becomeArmed_of_arming (t := t.giveUpModules.stopArmTimer) arming]
      rfl
    · rw [Site.armTimerEvent_of_not_due (fun k => due (arm.1 k)), State.setSite_self]
    · have expired : t.armTimeoutEvent = t.armTimeoutExpiry := if_pos (out.2 due)
      refine ⟨t.armTimeoutExpiry, by rw [← expired], rfl, rfl, rfl, rfl, fun n fitted => ?_, fun n fitted => ?_,
        t.armTimeoutExpiry_sendSeq, fun n armed => ?_, fun n out => ?_⟩
      · rw [t.armTimeoutExpiry_sending, if_pos fitted]
      · rw [t.armTimeoutExpiry_sending, if_neg (by rw [fitted]; decide)]
      · rw [t.armTimeoutExpiry_arming, if_neg armed]
      · rw [t.armTimeoutExpiry_arming, if_pos out]
    · have stays : t.armTimeoutEvent = t := if_neg (fun k => due (out.1 k))
      rw [show s.site.armTimeoutEvent = s.site from stays, State.setSite_self]
  · intro t a due still clear limit byCount
    have stillDue : (t.passage.phase = .inPassage ∧ t.timerDue .standstill = true) ↔ still :=
      and_congr_right fun _ => t.timerDue_iff .standstill
    have clearDue : (t.passage.phase = .clearing ∧ t.timerDue .clear = true) ↔ clear :=
      and_congr_right fun _ => t.timerDue_iff .clear
    have limitDue : (t.passageOpen = true ∧ t.timerDue .limit = true) ↔ limit :=
      and_congr_right fun _ => t.timerDue_iff .limit
    have expires : still → s.site.standstillEvent = t.standstillExpiry := fun h => if_pos (stillDue.2 h)
    rw [exec_standstillTimerExpiry hrun, exec_clearTimerExpiry hrun, exec_passageLimitExpiry hrun]
    refine ⟨fun h two => ?_, fun h few => ?_, fun h => ?_, fun h => ?_, fun h => ?_, fun h => ?_, fun h => ?_⟩
    · rw [expires h, Site.standstillExpiry_of_members two]
    · rw [expires h, Site.standstillExpiry_of_few few]
      rfl
    · rw [show s.site.standstillEvent = s.site from if_neg (fun k => h (stillDue.1 k)), State.setSite_self]
    · rw [show s.site.clearEvent = t.close byCount from if_pos (clearDue.2 h)]
    · rw [show s.site.clearEvent = s.site from if_neg (fun k => h (clearDue.1 k)), State.setSite_self]
    · rw [show s.site.limitEvent = t.close .timedOut from if_pos (limitDue.2 h)]
    · rw [show s.site.limitEvent = s.site from if_neg (fun k => h (limitDue.1 k)), State.setSite_self]

end Machine

end Sys2Proof
end

section
/-! PROOF. A counted crossing in an open passage and under a held opening. -/

namespace Sys2Proof

namespace Site

variable {t : Site}

/-! ### What the roster's operations leave (R47 to R51) -/

/-- An append changes the roster, the records' causes and the module places alone (R47, R85). -/
theorem appendAxle_eq (t : Site) (time : BitVec 32) (speed gap : Option Nat) : ∃ train modules,
    t.appendAxle time speed gap = ((t.setRoster (t.rosterAppended time speed gap)).setTrain train).setModules modules := by
  unfold appendAxle
  dsimp only
  generalize placementOf _ _ = p
  obtain ⟨v1, e1⟩ := (t.setRoster (t.rosterAppended time speed gap)).addRecordCauseIf_eq p.uncertain .groupingUncertain
  rw [e1]
  obtain ⟨v2, e2⟩ := ((t.setRoster (t.rosterAppended time speed gap)).setTrain v1).addRecordCauseIf_eq p.limit .groupingLimit
  rw [e2]
  obtain ⟨v3, e3⟩ := (((t.setRoster (t.rosterAppended time speed gap)).setTrain v1).setTrain v2).addRecordCauseIf_eq p.full .vehicleFull
  rw [e3]
  exact ⟨v3, _, rfl⟩

/-- A rise of the count changes the roster, the records' causes and the module places alone (R48, R49, R51). -/
theorem rosterRise_eq (t : Site) (m : Nat) (time : BitVec 32) (speed gap : Option Nat) : ∃ roster train modules,
    t.rosterRise m time speed gap = ((t.setRoster roster).setTrain train).setModules modules := by
  unfold rosterRise
  split
  · exact ⟨t.roster, (t.addRecordCause .rosterFull).train, t.modules, rfl⟩
  · split
    · obtain ⟨train, modules, e⟩ := t.appendAxle_eq time speed gap
      exact ⟨_, train, modules, e⟩
    · exact ⟨(t.roster.updateEntry m AxleEntry.revive).newGeneration, t.train, t.modules, rfl⟩

/-- A fall of the count changes the roster alone (R49, R50). -/
theorem rosterFall_eq (t : Site) (n : Nat) : ∃ roster, t.rosterFall n = t.setRoster roster := by
  unfold rosterFall
  split
  · exact ⟨_, rfl⟩
  · exact ⟨t.roster, rfl⟩

/-- A fall of the count does not look at the records. -/
theorem rosterFall_addRecordCause (t : Site) (c : Cause) (n : Nat) :
    (t.addRecordCause c).rosterFall n = (t.rosterFall n).addRecordCause c := by
  unfold rosterFall
  rw [show (t.addRecordCause c).roster = t.roster from rfl]
  split <;> rfl

/-! ### Causes that the OPEN record gains (R27) -/

/-- The OPEN record gains a cause when the condition holds, and nothing else. -/
theorem addRecordCauseIf_opened {i : Fin 4} {q : TrainRecord} (hq : t.recordAt i = some q) (open_ : q.phase = .opened)
    (b : Bool) (c : Cause) : ∃ x : BitVec 22, (t.addRecordCauseIf b c).recordAt i = some { q with causes := x } ∧
      ∀ k : Cause, x.getLsbD k.bit = true ↔ q.causes.getLsbD k.bit = true ∨ (k = c ∧ b = true) := by
  rw [addRecordCauseIf_recordAt, hq]
  cases b with
  | false => exact ⟨q.causes, rfl, fun k => by simp⟩
  | true => exact ⟨setAdd q.causes c.bit, if_pos open_, fun k => by rw [has_setAdd_cause]; simp⟩

/-- A record that is not OPEN gains nothing, and no record appears. -/
theorem addRecordCauseIf_other {i : Fin 4} (h : ∀ q, t.recordAt i = some q → q.phase ≠ .opened) (b : Bool) (c : Cause) :
    (t.addRecordCauseIf b c).recordAt i = t.recordAt i := by
  rw [addRecordCauseIf_recordAt]
  split
  · cases hq : t.recordAt i with
    | none => rfl
    | some q => exact if_neg (h q hq)
  · rfl

theorem addRecordCauseIf_setPassage (t : Site) (a : Passage) (b : Bool) (c : Cause) :
    (t.setPassage a).addRecordCauseIf b c = (t.addRecordCauseIf b c).setPassage a := by cases b <;> rfl

/-! ### A change of the counting gate's net count (R33) -/

/-- A rise goes to the roster, and its speed to the tally (R33). -/
theorem gateChanged_of_rise {old new : Nat} (h : old < new) (f : GateFigures) : t.gateChanged old new f =
    (t.rosterRise new t.passageTime f.speed f.gap).setPassage
      { t.passage with tally := t.passage.tally.takeRise f.speed } := by
  obtain ⟨roster, train, modules, e⟩ := t.rosterRise_eq new t.passageTime f.speed f.gap
  simp only [gateChanged, if_pos h, updatePassage, e]
  rfl

/-- A fall goes to the roster with ROLLBACK (R33). -/
theorem gateChanged_of_fall {old new : Nat} (h : ¬old < new) (f : GateFigures) :
    t.gateChanged old new f = (t.rosterFall old).addRecordCause .rollback := by
  rw [gateChanged, if_neg h, rosterFall_addRecordCause]

/-- A change of a point's net count is one of the counting gate. -/
def atGate (t : Site) (p : PointId) : Bool := t.passage.gate.map Gate.point == some p

theorem atGate_iff (t : Site) (p : PointId) : t.atGate p = true ↔ t.passage.gate.map Gate.point = some p := beq_iff_eq

/-- The roster's part in a change of a point's net count: a rise or a fall of the counting gate's (R33, R47 to R51). -/
def rosterMoved (t : Site) (p : PointId) (old new : Nat) (f : GateFigures) : Site :=
  if t.atGate p = true ∧ old < new then t.rosterRise new t.passageTime f.speed f.gap
  else if t.atGate p = true ∧ new < old then t.rosterFall old else t

/-- The tally's part: a rise with a speed at the counting gate (R33). -/
def tallyMoved (t : Site) (p : PointId) (old new : Nat) (f : GateFigures) : SpeedTally :=
  if t.atGate p = true ∧ old < new then t.passage.tally.takeRise f.speed else t.passage.tally

/-- The site after a change of a net count in an open passage, before its state is tested: roster, tally, ROLLBACK and the count
check (R33, R41). -/
def changeTaken (t : Site) (p : PointId) (old new : Nat) (f : GateFigures) : Site :=
  (((t.rosterMoved p old new f).addRecordCauseIf (t.atGate p && decide (new < old)) .rollback).addRecordCauseIf
    (p.gate.isSome && t.exitAbove) .gateCountFault).setPassage { t.passage with tally := t.tallyMoved p old new f }

/-- The roster's part leaves all but the roster, the records' causes and the module places. -/
theorem rosterMoved_eq (t : Site) (p : PointId) (old new : Nat) (f : GateFigures) : ∃ roster train modules,
    t.rosterMoved p old new f = ((t.setRoster roster).setTrain train).setModules modules := by
  unfold rosterMoved
  split
  · exact t.rosterRise_eq _ _ _ _
  · split
    · obtain ⟨roster, e⟩ := t.rosterFall_eq old
      exact ⟨roster, t.train, t.modules, e⟩
    · exact ⟨t.roster, t.train, t.modules, rfl⟩

/-- The change taken leaves of the rest what the roster's part leaves, but for the records and the tally. -/
theorem changeTaken_eq (t : Site) (p : PointId) (old new : Nat) (f : GateFigures) : ∃ train,
    t.changeTaken p old new f =
      ((t.rosterMoved p old new f).setTrain train).setPassage { t.passage with tally := t.tallyMoved p old new f } := by
  unfold changeTaken
  obtain ⟨v1, e1⟩ := (t.rosterMoved p old new f).addRecordCauseIf_eq (t.atGate p && decide (new < old)) .rollback
  rw [e1]
  obtain ⟨v2, e2⟩ := ((t.rosterMoved p old new f).setTrain v1).addRecordCauseIf_eq (p.gate.isSome && t.exitAbove) .gateCountFault
  rw [e2]
  exact ⟨v2, rfl⟩

/-- The change taken leaves all but the roster, the records' causes, the module places and the passage controller. -/
theorem changeTaken_frame (t : Site) (p : PointId) (old new : Nat) (f : GateFigures) : ∃ roster train modules,
    t.changeTaken p old new f = (((t.setRoster roster).setTrain train).setModules modules).setPassage
      { t.passage with tally := t.tallyMoved p old new f } := by
  obtain ⟨train, e⟩ := t.changeTaken_eq p old new f
  obtain ⟨roster, train', modules, e'⟩ := t.rosterMoved_eq p old new f
  exact ⟨roster, train, modules, by rw [e, e']; rfl⟩

/-- The net count of the counting gate is passed on, a fall with ROLLBACK (R33). -/
theorem gateChanged_eq {p : PointId} {old new : Nat} (h : old ≠ new) (f : GateFigures) :
    (if t.atGate p then t.gateChanged old new f else t) =
      ((t.rosterMoved p old new f).addRecordCauseIf (t.atGate p && decide (new < old)) .rollback).setPassage
        { t.passage with tally := t.tallyMoved p old new f } := by
  unfold rosterMoved tallyMoved
  by_cases gate : t.atGate p = true
  · by_cases rise : old < new
    · have noFall : ¬new < old := by omega
      simp only [gate, rise, noFall, and_self, if_true, gateChanged_of_rise rise, decide_false, Bool.and_false]
      rfl
    · have fall : new < old := by omega
      obtain ⟨roster, e⟩ := t.rosterFall_eq old
      simp only [gate, rise, fall, and_self, and_false, if_true, if_false, gateChanged_of_fall rise, e, decide_true, Bool.and_true]
      rfl
  · simp only [gate, false_and, if_false, Bool.false_eq_true, Bool.false_and]
    rfl

/-- A change of a net count in an open passage: taken, then the withdrawal test and the clearing condition (R37, R38). -/
theorem netChanged_of_open {p : PointId} {old new : Nat} (ho : t.passageOpen = true) (h : old ≠ new) (f : GateFigures) :
    t.netChanged p old new f =
      let s := t.changeTaken p old new f
      let s3 := if t.atGate p && decide (new < old) then s.testWithdrawal else s
      if s3.passage.watches p then s3.testClearing else s3 := by
  have checked : ∀ u : Site, (if p.gate.isSome then u.testGateCounts else u) =
      u.addRecordCauseIf (p.gate.isSome && u.exitAbove) .gateCountFault := fun u => by
    cases p.gate.isSome <;> rfl
  have taken : (if p.gate.isSome then (if t.atGate p then t.gateChanged old new f else t).testGateCounts
      else if t.atGate p then t.gateChanged old new f else t) = t.changeTaken p old new f := by
    rw [checked, gateChanged_eq h f, addRecordCauseIf_setPassage]
    obtain ⟨roster, train, modules, e⟩ := t.rosterMoved_eq p old new f
    obtain ⟨v, e'⟩ := (t.rosterMoved p old new f).addRecordCauseIf_eq (t.atGate p && decide (new < old)) .rollback
    rw [changeTaken, e', e]
    rfl
  unfold netChanged
  rw [if_pos ho, ← taken]
  rfl

/-- A change of a net count while no passage is open: a fall of the counting gate's under a held opening adds ROLLBACK to the
pending causes (R31). -/
theorem netChanged_of_held_fall {p : PointId} {old new : Nat} (ho : t.passageOpen = false) (hh : t.passage.held = true)
    (hp : t.atGate p = true) (h : new < old) (f : GateFigures) : t.netChanged p old new f = t.addPending .rollback := by
  unfold netChanged
  rw [if_neg (by rw [ho]; decide)]
  exact if_pos (by rw [hh, decide_eq_true h, Bool.true_and, Bool.and_true]; exact hp)

theorem netChanged_of_closed {p : PointId} {old new : Nat} (ho : t.passageOpen = false)
    (h : t.passage.held = false ∨ ¬(t.atGate p = true ∧ new < old)) (f : GateFigures) : t.netChanged p old new f = t := by
  unfold netChanged
  rw [if_neg (by rw [ho]; decide)]
  refine if_neg (fun k => ?_)
  rw [Bool.and_eq_true, Bool.and_eq_true, decide_eq_true_eq] at k
  obtain ⟨⟨held, gate⟩, fall⟩ := k
  rcases h with h | h
  · rw [h] at held; cases held
  · exact h ⟨gate, fall⟩

/-! ### The state after the change (R37, R38) -/

/-- The withdrawal test, where the counting gate is back at 0 with entries on the roster (R38). -/
theorem testWithdrawal_of_withdrawn (hp : t.passage.phase = .inPassage ∨ t.passage.phase = .standstill) (hn : t.gateNet = 0)
    (he : t.roster.entries ≠ []) : t.testWithdrawal = t.becomeClearing .withdrawn :=
  if_pos (by
    rw [(PassagePhase.running_iff _).2 hp, hn, Bool.and_eq_true, Bool.not_eq_true', List.isEmpty_eq_false_iff]
    exact ⟨rfl, he⟩)

theorem testWithdrawal_of_other (h : ¬((t.passage.phase = .inPassage ∨ t.passage.phase = .standstill) ∧ t.gateNet = 0 ∧
    t.roster.entries ≠ [])) : t.testWithdrawal = t := by
  refine if_neg (fun k => h ?_)
  rw [Bool.and_eq_true, Bool.and_eq_true, PassagePhase.running_iff, beq_iff_eq, Bool.not_eq_true', List.isEmpty_eq_false_iff] at k
  obtain ⟨⟨runs, net⟩, entries⟩ := k
  exact ⟨runs, net, entries⟩

/-- A change after which the passage is withdrawn (R38). -/
def Withdrawn (t : Site) (p : PointId) (old new : Nat) (f : GateFigures) : Prop :=
  (t.passage.phase = .inPassage ∨ t.passage.phase = .standstill) ∧ (t.atGate p = true ∧ new < old) ∧ t.gateNet = 0 ∧
    (t.rosterMoved p old new f).roster.entries ≠ []

/-- A change after which the counts agree (R37). -/
def Agreed (t : Site) (p : PointId) : Prop :=
  (t.passage.phase = .inPassage ∨ t.passage.phase = .standstill) ∧ t.passage.watches p = true ∧ 2 ≤ t.passage.members ∧
    ∃ n, 1 ≤ n ∧ ∀ q, t.passage.watches q = true → (t.point q).net = n

section

variable {p : PointId} {old new : Nat} {f : GateFigures}

theorem changeTaken_passage (t : Site) (p : PointId) (old new : Nat) (f : GateFigures) :
    (t.changeTaken p old new f).passage = { t.passage with tally := t.tallyMoved p old new f } := rfl

/-- The passage controller CLEARING after a change (R37, R38). -/
theorem changeTaken_becomeClearing (t : Site) (p : PointId) (old new : Nat) (f : GateFigures) (o : PassageOutcome) :
    ((t.changeTaken p old new f).becomeClearing o).passage =
      { t.passage with
        tally := t.tallyMoved p old new f
        phase := .clearing
        outcomeToBe := some o
        timers := { t.passage.timers with clear := some t.now, standstill := none } } := by
  have now : (t.changeTaken p old new f).now = t.now := by
    obtain ⟨roster, train, modules, e⟩ := t.changeTaken_frame p old new f
    rw [e]
    rfl
  rw [← now]
  rfl

theorem changeTaken_gateNet (t : Site) (p : PointId) (old new : Nat) (f : GateFigures) :
    (t.changeTaken p old new f).gateNet = t.gateNet := by
  obtain ⟨roster, train, modules, e⟩ := t.changeTaken_frame p old new f
  rw [e]
  rfl

theorem changeTaken_point (t : Site) (p : PointId) (old new : Nat) (f : GateFigures) (q : PointId) :
    (t.changeTaken p old new f).point q = t.point q := by
  obtain ⟨roster, train, modules, e⟩ := t.changeTaken_frame p old new f
  rw [e]
  rfl

theorem changeTaken_roster (t : Site) (p : PointId) (old new : Nat) (f : GateFigures) :
    (t.changeTaken p old new f).roster = (t.rosterMoved p old new f).roster := by
  obtain ⟨train, e⟩ := t.changeTaken_eq p old new f
  rw [e]
  rfl

/-- The withdrawal test of a fall at the counting gate (R38). -/
theorem testWithdrawal_changeTaken_of_withdrawn (h : t.Withdrawn p old new f) :
    (t.changeTaken p old new f).testWithdrawal = (t.changeTaken p old new f).becomeClearing .withdrawn := by
  obtain ⟨runs, -, net, entries⟩ := h
  exact testWithdrawal_of_withdrawn runs ((t.changeTaken_gateNet p old new f).trans net)
    (by rw [changeTaken_roster]; exact entries)

theorem testWithdrawal_changeTaken_of_other (h : ¬t.Withdrawn p old new f) :
    (if t.atGate p && decide (new < old) then (t.changeTaken p old new f).testWithdrawal else t.changeTaken p old new f) =
      t.changeTaken p old new f := by
  split
  · next falls =>
    rw [Bool.and_eq_true, decide_eq_true_eq] at falls
    refine testWithdrawal_of_other (fun ⟨runs, net, entries⟩ => h ⟨runs, falls, ?_, ?_⟩)
    · rw [← net, changeTaken_gateNet]
    · rwa [← changeTaken_roster]
  · rfl

/-- The state of a passage CLEARING is tested no more (R37). -/
theorem testClearing_becomeClearing (t : Site) (o : PassageOutcome) :
    (t.becomeClearing o).testClearing = t.becomeClearing o := if_neg (by simp [becomeClearing, updatePassage, PassagePhase.running])

/-- A change after which the passage is withdrawn, taken and CLEARING (R38). -/
theorem netChanged_of_withdrawn (ho : t.passageOpen = true) (h : old ≠ new) (hw : t.Withdrawn p old new f) :
    t.netChanged p old new f = (t.changeTaken p old new f).becomeClearing .withdrawn := by
  have falls : (t.atGate p && decide (new < old)) = true := by
    obtain ⟨-, fall, -⟩ := hw
    rw [Bool.and_eq_true, decide_eq_true_eq]
    exact fall
  rw [netChanged_of_open ho h]
  dsimp only
  rw [if_pos falls, testWithdrawal_changeTaken_of_withdrawn hw, testClearing_becomeClearing, ite_self]

/-- A change after which the counts agree, taken and CLEARING (R37). -/
theorem netChanged_of_agreed (ho : t.passageOpen = true) (h : old ≠ new) (hw : ¬t.Withdrawn p old new f) (ha : t.Agreed p) :
    t.netChanged p old new f = (t.changeTaken p old new f).becomeClearing .complete := by
  obtain ⟨runs, watched, agreed⟩ := ha
  rw [netChanged_of_open ho h]
  dsimp only
  rw [testWithdrawal_changeTaken_of_other hw, if_pos (show (t.changeTaken p old new f).passage.watches p = true from watched)]
  refine testClearing_of_agreed runs ?_
  simp only [changeTaken_point]
  exact agreed

/-- Any other change, taken (R33). -/
theorem netChanged_of_neither (ho : t.passageOpen = true) (h : old ≠ new) (hw : ¬t.Withdrawn p old new f) (ha : ¬t.Agreed p) :
    t.netChanged p old new f = t.changeTaken p old new f := by
  rw [netChanged_of_open ho h]
  dsimp only
  rw [testWithdrawal_changeTaken_of_other hw]
  split
  · next watched =>
    refine testClearing_of_not_agreed (fun ⟨runs, agreed⟩ => ha ⟨runs, watched, ?_⟩)
    simp only [changeTaken_point] at agreed
    exact agreed
  · rfl

/-- Whatever the state becomes, a change in an open passage is the change taken with the passage controller as it becomes. -/
theorem netChanged_frame (ho : t.passageOpen = true) (h : old ≠ new) :
    ∃ a, t.netChanged p old new f = (t.changeTaken p old new f).setPassage a := by
  by_cases hw : t.Withdrawn p old new f
  · exact ⟨_, netChanged_of_withdrawn ho h hw⟩
  · by_cases ha : t.Agreed p
    · exact ⟨_, netChanged_of_agreed ho h hw ha⟩
    · exact ⟨(t.changeTaken p old new f).passage, netChanged_of_neither ho h hw ha⟩

end

/-! ### The records after the change (R27, R33, R41) -/

/-- The OPEN record gains ROLLBACK with a fall at the counting gate, and GATE_COUNT_FAULT by the count check (R33, R41). -/
theorem changeTaken_opened (t : Site) (p : PointId) (old new : Nat) (f : GateFigures) {i : Fin 4} {q : TrainRecord}
    (hq : (t.rosterMoved p old new f).recordAt i = some q) (open_ : q.phase = .opened) :
    ∃ b : BitVec 22, (t.changeTaken p old new f).recordAt i = some { q with causes := b } ∧
      ∀ c : Cause, b.getLsbD c.bit = true ↔ q.causes.getLsbD c.bit = true ∨
        (c = .rollback ∧ t.atGate p = true ∧ new < old) ∨ (c = .gateCountFault ∧ p.gate.isSome = true ∧ t.exitAbove = true) := by
  obtain ⟨x, hx, has⟩ := addRecordCauseIf_opened hq open_ (t.atGate p && decide (new < old)) .rollback
  obtain ⟨y, hy, has'⟩ := addRecordCauseIf_opened hx open_ (p.gate.isSome && t.exitAbove) .gateCountFault
  refine ⟨y, hy, fun c => ?_⟩
  rw [has', has, or_assoc, Bool.and_eq_true, Bool.and_eq_true, decide_eq_true_eq]

theorem changeTaken_other (t : Site) (p : PointId) (old new : Nat) (f : GateFigures) {i : Fin 4}
    (h : ∀ q, (t.rosterMoved p old new f).recordAt i = some q → q.phase ≠ .opened) :
    (t.changeTaken p old new f).recordAt i = (t.rosterMoved p old new f).recordAt i := by
  have first := addRecordCauseIf_other h (t.atGate p && decide (new < old)) .rollback
  exact (addRecordCauseIf_other (by rw [first]; exact h) (p.gate.isSome && t.exitAbove) .gateCountFault).trans first

end Site

theorem PointId.gate_isSome_iff (p : PointId) : p.gate.isSome = true ↔ p = .ga ∨ p = .gb := by cases p <;> decide

namespace Machine

/-- Settles O27: the change taken (`Site.changeTaken`), what the state becomes after it, and the causes the OPEN record gains; without
an open passage `Site.netChanged_of_held_fall`. -/
theorem countedCrossings : Obligations.CountedCrossings := by
  intro t p old new f hne a r atGate rises falls moved k tally runs withdrawn agreed fault clears has
  have gate : t.atGate p = true ↔ atGate := t.atGate_iff p
  have fall : (t.atGate p = true ∧ new < old) ↔ falls := and_congr_left fun _ => gate
  have isMoved : t.rosterMoved p old new f = moved := by
    simp only [Site.rosterMoved, Site.atGate_iff]
    rfl
  have isTally : t.tallyMoved p old new f = tally := by
    simp only [Site.tallyMoved, Site.atGate_iff, tally]
    cases f.speed with
    | none => exact ite_self _
    | some v => rfl
  have isFault : (p.gate.isSome = true ∧ t.exitAbove = true) ↔ fault := and_congr p.gate_isSome_iff t.exitAbove_iff
  have isWithdrawn : t.Withdrawn p old new f ↔ withdrawn := by
    rw [Site.Withdrawn, fall, isMoved]
  have isAgreed : ¬withdrawn → (t.Agreed p ↔ agreed) := fun hw => by
    rw [Site.Agreed]
    exact and_congr_right fun _ => (and_iff_right hw).symm
  refine ⟨fun ho => ?_, fun ho hh hf => ?_, fun ho h => ?_⟩
  · obtain ⟨a', hr⟩ := Site.netChanged_frame (f := f) ho hne
    have record : ∀ i, r.recordAt i = (t.changeTaken p old new f).recordAt i := fun i => by
      rw [show r = _ from hr]; rfl
    have frame : ∃ train, r = (moved.setTrain train).setPassage a' := by
      obtain ⟨train, e⟩ := t.changeTaken_eq p old new f
      exact ⟨train, by rw [show r = _ from hr, e, isMoved]; rfl⟩
    obtain ⟨train, e⟩ := frame
    obtain ⟨roster, train', modules, e'⟩ := t.rosterMoved_eq p old new f
    rw [isMoved] at e'
    refine ⟨fun hw => ?_, fun ha => ?_, fun hw ha => ?_, by rw [e]; rfl, by rw [e]; rfl, fun i q hq open_ => ?_,
      fun i q hq closed => ?_, fun i hi => ?_, ?_⟩
    · rw [show r = _ from Site.netChanged_of_withdrawn ho hne (isWithdrawn.2 hw), Site.changeTaken_becomeClearing, isTally]
    · obtain ⟨-, hw, -⟩ := id ha
      rw [show r = _ from Site.netChanged_of_agreed ho hne (fun k => hw (isWithdrawn.1 k)) ((isAgreed hw).2 ha),
        Site.changeTaken_becomeClearing, isTally]
    · rw [show r = _ from Site.netChanged_of_neither ho hne (fun k => hw (isWithdrawn.1 k)) (fun k => ha ((isAgreed hw).1 k)),
        Site.changeTaken_passage, isTally]
    · rw [← isMoved] at hq
      obtain ⟨b, hb, gained⟩ := t.changeTaken_opened p old new f hq open_
      exact ⟨b, (record i).trans hb, fun c => by rw [← fall, ← isFault]; exact gained c⟩
    · rw [record, t.changeTaken_other p old new f, isMoved, hq]
      intro q' hq'
      rw [isMoved, hq, Option.some.injEq] at hq'
      exact hq' ▸ closed
    · rw [record, t.changeTaken_other p old new f, isMoved, hi]
      intro q' hq'
      rw [isMoved, hi] at hq'
      cases hq'
    · rw [e, e']
      exact ⟨rfl, rfl, rfl, rfl, rfl, rfl, rfl, rfl, rfl, rfl, rfl, rfl, rfl, rfl⟩
  · exact Site.netChanged_of_held_fall ho hh (fall.2 hf).1 (fall.2 hf).2 f
  · exact Site.netChanged_of_closed ho (h.imp_right fun hf k => hf (fall.1 k)) f

end Machine
end Sys2Proof
end

section
/-! PROOF. Crossings while an opening is held, and the held opening taking effect. -/

namespace Sys2Proof

/-! ### The roster filled axle by axle (R53, R85) -/

/-- An entry that the fill of a held opening appends: no crossing time, no speed, no gap (R53). -/
def AxleEntry.FilledIn (e : AxleEntry) (k : Nat) : Prop :=
  e.ordinal = k + 1 ∧ e.state = .present ∧ e.crossingTime = 0#32 ∧ e.speed = none ∧ e.gap = none ∧ e.gapClass = .unknown

/-- Every entry of the roster is one that the fill appends, in its place. -/
def RosterUnit.FilledIn (u : RosterUnit) : Prop := ∀ (k : Nat) (e : AxleEntry), u.entries[k]? = some e → e.FilledIn k

/-- Axle indexes are no part of what the fill writes. -/
theorem RosterUnit.FilledIn.of_sameButIndexes {u w : RosterUnit} (h : u.FilledIn) (k : u.SameButIndexes w) : w.FilledIn := by
  intro i e he
  have inside : i < u.entries.length := k.length ▸ (List.getElem?_eq_some_iff.1 he).1
  obtain ⟨x, hx⟩ := k.entry i _ (List.getElem?_eq_getElem inside)
  rw [hx, Option.some.injEq] at he
  have given : u.entries[i].FilledIn i := h i _ (List.getElem?_eq_getElem inside)
  rw [← he]
  exact given

theorem RosterUnit.FilledIn.concat {u : RosterUnit} (h : u.FilledIn) {e : AxleEntry} (he : e.FilledIn u.entries.length) :
    RosterUnit.FilledIn { u with entries := u.entries ++ [e] } := by
  intro i x hx
  have hx : (u.entries ++ [e])[i]? = some x := hx
  rw [List.getElem?_append] at hx
  split at hx
  · exact h i x hx
  · next out =>
    rw [List.getElem?_singleton] at hx
    split at hx
    · next last =>
      have place : i = u.entries.length := by omega
      rw [Option.some.injEq] at hx
      rw [← hx, place]
      exact he
    · cases hx

namespace Site

variable {t : Site}

/-- One axle filled in keeps the roster as the fill makes it, one entry longer (R53). -/
theorem appendAxle_filledIn (h : t.roster.FilledIn) : (t.appendAxle 0#32 none none).roster.FilledIn ∧
    (t.appendAxle 0#32 none none).roster.entries.length = t.roster.entries.length + 1 ∧
    (t.appendAxle 0#32 none none).roster.standing = t.roster.standing := by
  rw [appendAxle_roster]
  unfold rosterAppended
  simp only [ite_self, show gapClassOf t.passage.latched none = GapClass.unknown from rfl]
  have placed := t.roster.place_same (placementOf t.roster.current .unknown) (t.roster.entries.length + 1)
  obtain ⟨heading, -⟩ := t.roster.place_heading (placementOf t.roster.current .unknown) (t.roster.entries.length + 1)
  generalize t.roster.place (placementOf t.roster.current .unknown) (t.roster.entries.length + 1) = u at placed heading
  generalize t.roster.entries.length + 1 - (u.current.map Vehicle.firstOrdinal).getD (t.roster.entries.length + 1) + 1 = position
  generalize he : t.newEntry (t.roster.entries.length + 1) 0#32 none none .unknown u.vehicles.length position = e
  have entry : e.FilledIn u.entries.length := by
    rw [← he, placed.length]
    exact ⟨rfl, rfl, rfl, rfl, rfl, rfl⟩
  have closed := RosterUnit.closeAtTwelve_same { u with entries := u.entries ++ [e] }
  obtain ⟨-, -, standing, -⟩ := RosterUnit.closeAtTwelve_keeps { u with entries := u.entries ++ [e] }
  have filled := ((h.of_sameButIndexes placed).concat entry).of_sameButIndexes closed
  refine ⟨fun k x hx => filled k x hx, ?_, standing.trans heading⟩
  have length := closed.length
  rw [List.length_append, placed.length] at length
  exact length

/-- The roster after a fill (R53). -/
theorem fillAxles_filledIn (k : Nat) (h : t.roster.FilledIn) : (fillAxles k t).roster.FilledIn ∧
    (fillAxles k t).roster.entries.length = t.roster.entries.length + k ∧
    (fillAxles k t).roster.standing = t.roster.standing := by
  induction k generalizing t with
  | zero => exact ⟨h, rfl, rfl⟩
  | succ k ih =>
    obtain ⟨filled, length, standing⟩ := appendAxle_filledIn h
    obtain ⟨filled', length', standing'⟩ := ih filled
    exact ⟨filled', length'.trans (by rw [length]; omega), standing'.trans standing⟩

/-- A fill changes the roster, the records' causes and the module places alone. -/
theorem fillAxles_eq (k : Nat) (t : Site) : ∃ roster train modules,
    fillAxles k t = ((t.setRoster roster).setTrain train).setModules modules := by
  induction k generalizing t with
  | zero => exact ⟨t.roster, t.train, t.modules, rfl⟩
  | succ k ih =>
    obtain ⟨train, modules, e⟩ := t.appendAxle_eq 0#32 none none
    obtain ⟨roster', train', modules', e'⟩ := ih (t.appendAxle 0#32 none none)
    exact ⟨roster', train', modules', by rw [fillAxles, e', e]; rfl⟩

/-- The module places after a fill: as many axles in as stood beyond, at most the axles filled in (R85). -/
theorem fillAxles_line (k : Nat) (t : Site) (l : Fin 8) :
    ((fillAxles k t).line l).cursor = (t.line l).cursor + min (t.line l).beyond k ∧
      ((fillAxles k t).line l).beyond = (t.line l).beyond - k := by
  induction k generalizing t with
  | zero => exact ⟨by simp [fillAxles], rfl⟩
  | succ k ih =>
    obtain ⟨cursor, beyond⟩ := ih (t.appendAxle 0#32 none none)
    rw [fillAxles, cursor, beyond, appendAxle_line, ModuleLine.intoRoster]
    split
    · next inside =>
      dsimp only
      omega
    · next outside =>
      have none_ : (t.line l).beyond = 0 := by omega
      simp only [none_, Nat.zero_min, Nat.zero_sub, and_self]

/-- The fill of a held opening: at most 1,024 axles, ROSTER_FULL above (R53). -/
theorem fillRoster_eq_ite (t : Site) (n : Nat) : t.fillRoster n =
    if 1024 < n then (fillAxles (min n 1024) t).addRecordCause .rosterFull else fillAxles (min n 1024) t := by
  simp only [fillRoster, addRecordCauseIf, decide_eq_true_eq]

theorem fillRoster_eq (t : Site) (n : Nat) : ∃ train, t.fillRoster n = (fillAxles (min n 1024) t).setTrain train :=
  addRecordCauseIf_eq _ _ _

/-- A fill leaves the passage controller, the points and the running time. -/
theorem fillRoster_rest (t : Site) (n : Nat) :
    (t.fillRoster n).passage = t.passage ∧ (t.fillRoster n).points = t.points ∧ (t.fillRoster n).now = t.now := by
  obtain ⟨train, e⟩ := t.fillRoster_eq n
  obtain ⟨roster, train', modules, e'⟩ := fillAxles_eq (min n 1024) t
  rw [e, e']
  exact ⟨rfl, rfl, rfl⟩

/-! ### Crossings while an opening is held (R25, R31) -/

/-- A gate crossing under a held opening is taken at the counting gate and nowhere else (R31). -/
theorem takeCrossing_of_held_gate {p : PointId} (hp : p = .ga ∨ p = .gb) (ho : t.passageOpen = false) (hh : t.passage.held = true)
    (d : Dir) (i : Option Nat) : t.takeCrossing p d i = t.takeGateCrossing p d i := by
  have hn : p.gate.isNone = false := by rcases hp with rfl | rfl <;> rfl
  simp only [takeCrossing, ho, hh, hn, Bool.false_eq_true, if_false, if_true]

/-- An approach crossing under a held opening is tested as R25 gives (R31). -/
theorem takeCrossing_of_held_approach {p : PointId} (hp : p = .pa ∨ p = .pb) (ho : t.passageOpen = false)
    (hh : t.passage.held = true) (d : Dir) (i : Option Nat) :
    t.takeCrossing p d i = (t.testOpposing p d, { speed := none, gap := none }) := by
  have hn : p.gate.isNone = true := by rcases hp with rfl | rfl <;> rfl
  simp only [takeCrossing, ho, hh, hn, Bool.false_eq_true, if_false, if_true, takeGateCrossing_of_approach hp, takeApproach,
    Bool.true_eq_false, and_false]

/-- An inward crossing at the far approach of the expected direction is an opposing approach, any other is none (R25; log 40). -/
theorem testOpposing_of_not_opposing {p : PointId} {d : Dir}
    (h : ¬∃ e, t.passage.expected = some e ∧ p = e.farApproach ∧ d = p.inward) : t.testOpposing p d = t := by
  unfold testOpposing
  split
  · next e he => exact if_neg (fun k => h ⟨e, he, k⟩)
  · rfl

/-! ### The held opening (R32, R35, R53) -/

/-- The site a held opening opens the passage on (R32). -/
def heldOpened (t : Site) (d : Dir) : Site := (t.setPassage { t.passage with held := false }).openPassage d true

/-- The site after the fill of a held opening, before its counts are tested (R53). -/
def heldFilled (t : Site) (d : Dir) : Site := (t.heldOpened d).fillRoster (t.heldOpened d).gateNet

theorem effectHeld_of_direction {d : Dir} (hd : t.passage.direction = some d) : t.effectHeld =
    if (t.heldFilled d).gateNet = 0 then (t.heldFilled d).becomeClearing .withdrawn else (t.heldFilled d).testClearing := by
  simp only [effectHeld, hd]
  rfl

theorem heldOpened_gateNet (t : Site) (d : Dir) : (t.heldOpened d).gateNet =
    (t.point (if t.isOut d.entryGate.point then d.exitGate else d.entryGate).point).net := by
  have passage := (t.setPassage { t.passage with held := false }).openPassage_passage d true
  obtain ⟨-, -, -, points, -⟩ := (t.setPassage { t.passage with held := false }).openPassage_rest d true
  unfold heldOpened gateNet point
  rw [points, passage]
  rfl

/-- What an opening held and its fill leave of the site: the points and the running time. -/
theorem heldFilled_rest (t : Site) (d : Dir) : (t.heldFilled d).passage = (t.heldOpened d).passage ∧
    (t.heldFilled d).points = (t.heldOpened d).points ∧ (t.heldFilled d).points = t.points ∧ (t.heldFilled d).now = t.now := by
  obtain ⟨-, now, -, points, -⟩ := (t.setPassage { t.passage with held := false }).openPassage_rest d true
  obtain ⟨passage, points', now'⟩ := (t.heldOpened d).fillRoster_rest (t.heldOpened d).gateNet
  exact ⟨passage, points', points'.trans points, now'.trans now⟩

theorem heldFilled_gateNet (t : Site) (d : Dir) : (t.heldFilled d).gateNet = (t.heldOpened d).gateNet := by
  obtain ⟨passage, points, -⟩ := t.heldFilled_rest d
  unfold gateNet point
  rw [passage, points]

theorem heldFilled_phase (t : Site) (d : Dir) : (t.heldFilled d).passage.phase = .inPassage := by
  rw [(t.heldFilled_rest d).1, heldOpened, openPassage_passage]

/-- The roster of a held opening: one axle for each of the counting gate's net count, 1,024 at most (R46, R53). -/
theorem heldFilled_roster (t : Site) (d : Dir) : (t.heldFilled d).roster.FilledIn ∧
    (t.heldFilled d).roster.entries.length = min (t.heldOpened d).gateNet 1024 ∧ (t.heldFilled d).roster.standing = .live := by
  obtain ⟨train, e⟩ := (t.heldOpened d).fillRoster_eq (t.heldOpened d).gateNet
  have roster : (t.heldFilled d).roster = (fillAxles (min (t.heldOpened d).gateNet 1024) (t.heldOpened d)).roster := by
    unfold heldFilled
    rw [e]
    rfl
  have start := (t.setPassage { t.passage with held := false }).openRecord_startRoster d
  rw [← openPassage_roster _ d true] at start
  obtain ⟨live, entries, -⟩ := start
  have entries : (t.heldOpened d).roster.entries = [] := entries
  have empty : (t.heldOpened d).roster.FilledIn := fun k e h => by rw [entries] at h; cases h
  obtain ⟨filled, length, standing⟩ := fillAxles_filledIn (min (t.heldOpened d).gateNet 1024) empty
  rw [roster]
  exact ⟨filled, by rw [length, entries, List.length_nil, Nat.zero_add], standing.trans live⟩

/-- The module places of a held opening (R85). -/
theorem heldFilled_line (t : Site) (d : Dir) (l : Fin 8) :
    ((t.heldFilled d).line l).cursor = (t.line l).cursor + min (t.line l).beyond (min (t.heldOpened d).gateNet 1024) ∧
      ((t.heldFilled d).line l).beyond = (t.line l).beyond - min (t.heldOpened d).gateNet 1024 := by
  obtain ⟨train, e⟩ := (t.heldOpened d).fillRoster_eq (t.heldOpened d).gateNet
  obtain ⟨-, -, -, -, modules, -⟩ := (t.setPassage { t.passage with held := false }).openPassage_rest d true
  have opened : (t.heldOpened d).line l = t.line l := congrArg (fun m : ModuleUnit => m.lines[l]) modules
  have filled := fillAxles_line (min (t.heldOpened d).gateNet 1024) (t.heldOpened d) l
  rw [opened] at filled
  unfold heldFilled
  rw [e]
  exact filled

end Site

namespace Machine

/-- Settles O24: a crossing under a held opening by its point, the held opening by its fill (`Site.heldFilled`) and the test of the
counts as they stand, and the fill axle by axle. -/
theorem heldOpening : Obligations.HeldOpening := by
  refine ⟨fun t p d i hh ho => ?_, fun t d hd => ?_, fun t n => ?_, fun t time speed gap l => ?_⟩
  · intro r opposing
    refine ⟨fun hp => Site.takeCrossing_of_held_gate hp ho hh d i, fun hp => ?_, fun hp hn => ?_⟩
    · rintro ⟨e, he, far, inward⟩
      rw [show r = _ from Site.takeCrossing_of_held_approach hp ho hh d i, Site.testOpposing_of_far he far inward]
    · rw [show r = _ from Site.takeCrossing_of_held_approach hp ho hh d i, Site.testOpposing_of_not_opposing hn]
  · intro opened n filled clears agreed
    obtain ⟨passage, -, points, now⟩ := t.heldFilled_rest d
    obtain ⟨entries, length, standing⟩ := t.heldFilled_roster d
    have phase := t.heldFilled_phase d
    have net : filled.gateNet = n := t.heldFilled_gateNet d
    have cleared : ∀ o, filled.becomeClearing o = clears o := fun o => by
      show _ = filled.setPassage _
      rw [← now]
      rfl
    have isAgreed : (2 ≤ filled.passage.members ∧ ∃ m, 1 ≤ m ∧ ∀ q, filled.passage.watches q = true → (filled.point q).net = m) ↔
        agreed := by
      have point : ∀ q, filled.point q = t.point q := fun q => congrArg (PointUnit.get · q) points
      simp only [agreed, point]
    have effect : t.effectHeld = if n = 0 then filled.becomeClearing .withdrawn else filled.testClearing := by
      rw [← net]; exact Site.effectHeld_of_direction hd
    refine ⟨t.heldOpened_gateNet d, fun h0 => ?_, fun h0 ha => ?_, fun h0 ha => ?_, length, standing, passage, entries,
      t.heldFilled_line d⟩
    · rw [effect, if_pos h0, cleared]
    · have test : filled.testClearing = _ := Site.testClearing_of_agreed (.inl phase) (isAgreed.2 ha)
      rw [effect, if_neg h0, test, cleared]
    · have test : filled.testClearing = filled := Site.testClearing_of_not_agreed (fun k => ha (isAgreed.1 k.2))
      rw [effect, if_neg h0, test]
  · exact ⟨t.fillRoster_eq_ite n, rfl, rfl⟩
  · exact t.appendAxle_line time speed gap l

end Machine

end Sys2Proof
end

section
/-! PROOF. The opening of a passage: the slot, its old record reclaimed, and the new record. -/

namespace Sys2Proof

/-! ### Records that may be reclaimed (R148) -/

theorem TrainRecord.deferred_eq (k : TrainRecord) : k.deferred = (k.verdict.map Verdict.deferred).getD 0 := by
  unfold TrainRecord.deferred
  cases k.verdict <;> rfl

theorem TrainRecord.reclaimable_iff (k : TrainRecord) : k.reclaimable = true ↔ k.phase = .closed ∧ k.hold = none := by
  rw [TrainRecord.reclaimable, Bool.and_eq_true, beq_iff_eq, Option.isNone_iff_eq_none]

theorem TrainRecord.settled_iff (k : TrainRecord) : k.settled = true ↔ (k.phase = .closed ∧ k.hold = none) ∧ k.readMark = true ∧
    (k.verdict.map Verdict.deferred).getD 0 = 0 := by
  rw [TrainRecord.settled, Bool.and_eq_true, Bool.and_eq_true, beq_iff_eq, k.reclaimable_iff, k.deferred_eq, and_assoc]

namespace Site

variable {t : Site}

/-! ### The oldest record of a kind (R147) -/

/-- One slot looked at in the search for the oldest record of a kind. -/
def olderOf (t : Site) (p : TrainRecord → Bool) (best : Option (Fin 4)) (i : Fin 4) : Option (Fin 4) :=
  match t.recordAt i with
  | none => best
  | some r =>
    if p r then
      match best.bind t.recordAt with
      | none => some i
      | some b => if r.rank < b.rank then some i else best
    else best

theorem oldest_eq_foldl (t : Site) (p : TrainRecord → Bool) : t.oldest p = slotIds.foldl (t.olderOf p) none := rfl

/-- The slot holds a record of the kind, opened no later than any of the kind in the slots looked at. -/
def OldestAmong (t : Site) (p : TrainRecord → Bool) (seen : Fin 4 → Prop) (i : Fin 4) : Prop :=
  ∃ k, t.recordAt i = some k ∧ p k = true ∧ ∀ j q, seen j → t.recordAt j = some q → p q = true → k.rank ≤ q.rank

/-- What the search has found in the slots looked at: the oldest of the kind, or that there is none. -/
structure Found (t : Site) (p : TrainRecord → Bool) (seen : Fin 4 → Prop) (best : Option (Fin 4)) : Prop where
  without : best = none → ∀ j q, seen j → t.recordAt j = some q → ¬p q = true
  oldest : ∀ i, best = some i → t.OldestAmong p seen i

/-- A slot without a record of the kind leaves what was found. -/
theorem Found.skip {p : TrainRecord → Bool} {seen : Fin 4 → Prop} {best : Option (Fin 4)} (h : t.Found p seen best) {i : Fin 4}
    (hi : ∀ r, t.recordAt i = some r → ¬p r = true) : t.Found p (fun j => seen j ∨ j = i) best := by
  refine ⟨fun hb j q hj hq => ?_, fun b hb => ?_⟩
  · rcases hj with hj | rfl
    · exact h.without hb j q hj hq
    · exact hi q hq
  · obtain ⟨k, hk, kind, least⟩ := h.oldest b hb
    refine ⟨k, hk, kind, fun j q hj hq hp => ?_⟩
    rcases hj with hj | rfl
    · exact least j q hj hq hp
    · exact absurd hp (hi q hq)

/-- A slot with a record of the kind no younger than those found is the oldest so far. -/
theorem Found.take {p : TrainRecord → Bool} {seen : Fin 4 → Prop} {i : Fin 4} {r : TrainRecord} (hr : t.recordAt i = some r)
    (hp : p r = true) (least : ∀ j q, seen j → t.recordAt j = some q → p q = true → r.rank ≤ q.rank) :
    t.Found p (fun j => seen j ∨ j = i) (some i) := by
  refine ⟨fun h => (nomatch h), fun b hb => ?_⟩
  rw [← Option.some.inj hb]
  refine ⟨r, hr, hp, fun j q hj hq kind => ?_⟩
  rcases hj with hj | rfl
  · exact least j q hj hq kind
  · rw [hr, Option.some.injEq] at hq
    rw [hq]

/-- One slot more looked at. -/
theorem Found.olderOf {p : TrainRecord → Bool} {seen : Fin 4 → Prop} {best : Option (Fin 4)} (h : t.Found p seen best)
    (i : Fin 4) : t.Found p (fun j => seen j ∨ j = i) (t.olderOf p best i) := by
  unfold Site.olderOf
  split
  · next hr => exact h.skip (fun r k => by rw [hr] at k; cases k)
  · next r hr =>
    split
    · next hp =>
      cases best with
      | none => exact .take hr hp (fun j q hj hq kind => absurd kind (h.without rfl j q hj hq))
      | some b =>
        obtain ⟨k, hk, kind, least⟩ := h.oldest b rfl
        rw [Option.bind_some, hk]
        dsimp only
        split
        · next younger =>
          exact .take hr hp (fun j q hj hq pq => Nat.le_trans (Nat.le_of_lt younger) (least j q hj hq pq))
        · next older =>
          refine ⟨fun h => (nomatch h), fun b' hb => ?_⟩
          rw [← Option.some.inj hb]
          refine ⟨k, hk, kind, fun j q hj hq pq => ?_⟩
          rcases hj with hj | rfl
          · exact least j q hj hq pq
          · rw [hr, Option.some.injEq] at hq
            exact hq ▸ Nat.not_lt.1 older
    · next hp =>
      exact h.skip (fun q hq => by rw [hr, Option.some.injEq] at hq; exact hq ▸ hp)

/-- A slot list looked at. -/
theorem Found.foldl {p : TrainRecord → Bool} (l : List (Fin 4)) {seen : Fin 4 → Prop} {best : Option (Fin 4)}
    (h : t.Found p seen best) : t.Found p (fun j => seen j ∨ j ∈ l) (l.foldl (t.olderOf p) best) := by
  induction l generalizing seen best with
  | nil => simpa using h
  | cons i l ih => simpa [or_assoc] using ih (h.olderOf i)

/-- The search ends with the oldest record of the kind in the table, or none (R147). -/
theorem oldest_found (t : Site) (p : TrainRecord → Bool) : t.Found p (fun _ => True) (t.oldest p) := by
  have start : t.Found p (fun _ => False) none := ⟨fun _ _ _ h => h.elim, fun _ h => nomatch h⟩
  have all : ∀ j : Fin 4, j ∈ slotIds := by decide
  have ended := start.foldl slotIds
  rw [oldest_eq_foldl]
  simpa only [all, or_true] using ended

/-! ### The slot of an opening (R148) -/

theorem freeTrainSlot_of_free (h : ∃ j, t.recordAt j = none) :
    ∃ i, t.freeTrainSlot = some i ∧ t.recordAt i = none ∧ ∀ j, t.recordAt j = none → i ≤ j := by
  have all : ∀ j : Fin 4, j ∈ slotIds := by decide
  have sorted : slotIds.Pairwise (· ≤ ·) := by decide
  cases found : t.freeTrainSlot with
  | none =>
    obtain ⟨j, hj⟩ := h
    have := List.find?_eq_none.1 found j (all j)
    rw [hj] at this
    exact absurd rfl this
  | some i =>
    obtain ⟨free, before, after, split_, taken⟩ := List.find?_eq_some_iff_append.1 found
    refine ⟨i, rfl, Option.isNone_iff_eq_none.1 free, fun j hj => ?_⟩
    rw [split_] at all sorted
    rcases List.mem_append.1 (all j) with inBefore | inRest
    · have := taken j inBefore
      rw [hj] at this
      cases this
    · rcases List.mem_cons.1 inRest with rfl | inAfter
      · exact Nat.le_refl _
      · exact List.rel_of_pairwise_cons (List.pairwise_append.1 sorted).2.1 inAfter

theorem freeTrainSlot_of_full (h : ∀ j, ¬t.recordAt j = none) : t.freeTrainSlot = none := by
  refine List.find?_eq_none.2 (fun j _ k => h j ?_)
  exact Option.isNone_iff_eq_none.1 k

/-- A FREE slot is taken first, the lowest-numbered (R148). -/
theorem chooseSlot_of_free (h : ∃ j, t.recordAt j = none) :
    t.recordAt t.chooseSlot = none ∧ ∀ j, t.recordAt j = none → t.chooseSlot ≤ j := by
  obtain ⟨i, found, free, lowest⟩ := freeTrainSlot_of_free h
  have chosen : t.chooseSlot = i := by rw [chooseSlot, found]; rfl
  rw [chosen]
  exact ⟨free, lowest⟩

/-- The oldest record of a kind, in the terms of the records. -/
abbrev HoldsOldest (t : Site) (i : Fin 4) (p : TrainRecord → Prop) : Prop :=
  ∃ k, t.recordAt i = some k ∧ p k ∧ ∀ j q, t.recordAt j = some q → p q → k.rank ≤ q.rank

/-- Some slot holds a record of the kind, so the search finds the oldest of it. -/
theorem oldest_of_some {p : TrainRecord → Bool} {P : TrainRecord → Prop} (hP : ∀ k, p k = true ↔ P k)
    (h : ∃ j k, t.recordAt j = some k ∧ P k) : ∃ i, t.oldest p = some i ∧ t.HoldsOldest i P := by
  have found := t.oldest_found p
  cases hi : t.oldest p with
  | none =>
    obtain ⟨j, k, hk, kind⟩ := h
    exact absurd ((hP k).2 kind) (found.without hi j k trivial hk)
  | some i =>
    obtain ⟨k, hk, kind, least⟩ := found.oldest i hi
    exact ⟨i, rfl, k, hk, (hP k).1 kind, fun j q hq pq => least j q trivial hq ((hP q).2 pq)⟩

theorem oldest_of_none {p : TrainRecord → Bool} {P : TrainRecord → Prop} (hP : ∀ k, p k = true ↔ P k)
    (h : ¬∃ j k, t.recordAt j = some k ∧ P k) : t.oldest p = none := by
  cases hi : t.oldest p with
  | none => rfl
  | some i =>
    obtain ⟨k, hk, kind, -⟩ := (t.oldest_found p).oldest i hi
    exact absurd ⟨i, k, hk, (hP k).1 kind⟩ h

/-! ### The old record reclaimed (R149, R150) -/

theorem reclaim_of_free {i : Fin 4} (h : t.recordAt i = none) : t.reclaim i = t := by
  simp only [reclaim, h]

/-- A hold broken at an opening lowers its port's count (R149, R157). -/
theorem breakTrainHold_holds (t : Site) (k : TrainRecord) :
    (t.breakTrainHold k).holds = k.hold.elim t.holds (fun h => t.holds.dec h.port) := by
  unfold breakTrainHold
  cases k.hold <;> rfl

theorem breakTrainHold_counts (t : Site) (k : TrainRecord) : (t.breakTrainHold k).counts = t.counts := by
  unfold breakTrainHold
  cases k.hold <;> rfl

theorem breakTrainHold_has (t : Site) (k : TrainRecord) (f : Flag) :
    (t.breakTrainHold k).Has f ↔ t.Has f ∨ (f = .leaseExpired ∧ k.hold.isSome = true) := by
  unfold breakTrainHold
  cases k.hold with
  | none => simp
  | some h =>
    have same : (t.loseHold h.port).Has f ↔ t.Has f := Iff.rfl
    rw [raise_has, same, Option.isSome_some]
    simp

/-- A reclaim counts the record unread and its DEFERRED findings (R150). -/
theorem accountReclaim_counts (t : Site) (k : TrainRecord) : (t.accountReclaim k).counts =
    { t.counts with
      reclaimedUnread := if k.readMark then t.counts.reclaimedUnread else bump t.counts.reclaimedUnread
      deferredAbandoned := bumpBy ((k.verdict.map Verdict.deferred).getD 0) t.counts.deferredAbandoned } := by
  unfold accountReclaim abandonDeferred
  rw [k.deferred_eq]
  cases k.readMark <;> rfl

theorem accountReclaim_holds (t : Site) (k : TrainRecord) : (t.accountReclaim k).holds = t.holds := by
  unfold accountReclaim abandonDeferred
  cases k.readMark <;> rfl

theorem accountReclaim_has (t : Site) (k : TrainRecord) (f : Flag) :
    (t.accountReclaim k).Has f ↔ t.Has f ∨ (f = .recordLost ∧ k.readMark = false) := by
  cases read : k.readMark with
  | true =>
    have same : (t.accountReclaim k).Has f ↔ t.Has f := by unfold accountReclaim; rw [read]; rfl
    rw [same]
    simp
  | false =>
    have same : (t.accountReclaim k).Has f ↔ (t.raise .recordLost).Has f := by unfold accountReclaim; rw [read]; rfl
    rw [same, raise_has]
    simp

theorem reclaim_of_some {i : Fin 4} {k : TrainRecord} (h : t.recordAt i = some k) :
    t.reclaim i = (t.breakTrainHold k).accountReclaim k := by
  simp only [reclaim, h]

/-! ### The new record, and the rest of an opening (R27, R147, R190) -/

/-- The rank after a list of slots looked at. -/
def rankAfter (m : Nat) (r : Option TrainRecord) : Nat :=
  match r with
  | some r => max m (r.rank + 1)
  | none => m

theorem nextRank_eq_foldl (t : Site) : t.nextRank = t.train.toList.foldl rankAfter 0 := rfl

theorem foldl_rankAfter (l : List (Option TrainRecord)) (m : Nat) :
    m ≤ l.foldl rankAfter m ∧ ∀ k, some k ∈ l → k.rank < l.foldl rankAfter m := by
  induction l generalizing m with
  | nil => exact ⟨Nat.le_refl _, fun k h => nomatch h⟩
  | cons r l ih =>
    obtain ⟨above, ranks⟩ := ih (rankAfter m r)
    rw [List.foldl_cons]
    have raised : m ≤ rankAfter m r := by
      unfold rankAfter
      split <;> omega
    refine ⟨Nat.le_trans raised above, fun k hk => ?_⟩
    rcases List.mem_cons.1 hk with rfl | hk
    · have : k.rank < rankAfter m (some k) := by
        show k.rank < max m (k.rank + 1)
        omega
      omega
    · exact ranks k hk

/-- A new record is younger than every other (R147). -/
theorem rank_lt_nextRank {j : Fin 4} {k : TrainRecord} (h : t.recordAt j = some k) : k.rank < t.nextRank := by
  rw [nextRank_eq_foldl]
  refine (foldl_rankAfter _ 0).2 k ?_
  rw [Vector.mem_toList_iff, Vector.mem_iff_getElem]
  exact ⟨j.val, j.isLt, h⟩

theorem suspendSweep_watch (t : Site) : t.suspendSweep.watch =
    { t.watch with sweepState := if t.watch.sweepState = .running then .suspended else t.watch.sweepState } := by
  unfold suspendSweep
  split <;> rfl

/-- The last steps of an opening: the record's cause, the passage controller, the sweep (R27, R28, R190). -/
theorem openPassage_frame (t : Site) (d : Dir) (held : Bool) : ∃ a, t.openPassage d held =
    (((t.openRecord d).startRoster.addRecordCauseIf (t.chooseGate d != d.entryGate) .gateSubstituted).setPassage a).suspendSweep :=
  ⟨_, rfl⟩

/-- An opening up to its last steps: the records and the watch table after them. -/
theorem openPassage_train (t : Site) (d : Dir) (held : Bool) : ∃ train a w, t.openPassage d held =
    (((t.openRecord d).startRoster.setTrain train).setPassage a).setWatch w := by
  obtain ⟨a, e⟩ := t.openPassage_frame d held
  obtain ⟨train, e'⟩ := (t.openRecord d).startRoster.addRecordCauseIf_eq (t.chooseGate d != d.entryGate) .gateSubstituted
  rw [e'] at e
  obtain ⟨w, e''⟩ := (((t.openRecord d).startRoster.setTrain train).setPassage a).suspendSweep_eq
  exact ⟨train, a, w, e.trans e''⟩

/-- The holds, the counters and the flags of an opening are those of the reclaim (R149, R150). -/
theorem openPassage_reclaim (t : Site) (d : Dir) (held : Bool) :
    (t.openPassage d held).holds = (t.reclaim t.chooseSlot).holds ∧ (t.openPassage d held).counts = (t.reclaim t.chooseSlot).counts ∧
      (t.openPassage d held).flags = (t.reclaim t.chooseSlot).flags := by
  obtain ⟨train, a, w, e⟩ := t.openPassage_train d held
  rw [e]
  simp [openRecord, startRoster, putRecord]

/-- A RUNNING sweep is suspended at an opening (R190). -/
theorem openPassage_watch (t : Site) (d : Dir) (held : Bool) : (t.openPassage d held).watch =
    { t.watch with sweepState := if t.watch.sweepState = .running then .suspended else t.watch.sweepState } := by
  obtain ⟨a, e⟩ := t.openPassage_frame d held
  obtain ⟨train, e'⟩ := (t.openRecord d).startRoster.addRecordCauseIf_eq (t.chooseGate d != d.entryGate) .gateSubstituted
  have watch : (t.openRecord d).startRoster.watch = t.watch := (t.reclaim_only t.chooseSlot).watch
  rw [e, suspendSweep_watch, e', setPassage_watch, setTrain_watch, watch]

/-- A record in another slot stands, but for a cause that an OPEN one would gain (R27). -/
theorem openPassage_recordAt (t : Site) (d : Dir) (held : Bool) {j : Fin 4} (hj : j ≠ t.chooseSlot) :
    (t.openPassage d held).recordAt j =
      (t.addRecordCauseIf (t.chooseGate d != d.entryGate) .gateSubstituted).recordAt j := by
  obtain ⟨a, e⟩ := t.openPassage_frame d held
  have suspended : ∀ u : Site, u.suspendSweep.recordAt j = u.recordAt j := fun u => by
    obtain ⟨w, hw⟩ := u.suspendSweep_eq
    rw [hw]; rfl
  have controller : ∀ u : Site, (u.setPassage a).recordAt j = u.recordAt j := fun _ => rfl
  have reclaimed : (t.reclaim t.chooseSlot).recordAt j = t.recordAt j := by
    unfold recordAt
    rw [(t.reclaim_only t.chooseSlot).train]
  have started : (t.openRecord d).startRoster.recordAt j = t.recordAt j := by
    show ((t.reclaim t.chooseSlot).putRecord t.chooseSlot (some (t.newRecord d))).recordAt j = _
    rw [putRecord_recordAt, if_neg hj, reclaimed]
  rw [e, suspended, controller, addRecordCauseIf_recordAt, addRecordCauseIf_recordAt, started]

/-- The roster of an opening: LIVE and empty (R46). -/
theorem openPassage_roster_eq (t : Site) (d : Dir) (held : Bool) : (t.openPassage d held).roster =
    { t.roster with
      entries := [], vehicles := [], serial := t.passage.serial, standing := .live, generation := t.roster.generation + 1#16
      net := 0 } := by
  have only := t.reclaim_only t.chooseSlot
  rw [openPassage_roster]
  show ({ (t.reclaim t.chooseSlot).roster with
    entries := [], vehicles := [], serial := (t.reclaim t.chooseSlot).passage.serial, standing := .live
    generation := (t.reclaim t.chooseSlot).roster.generation + 1#16, net := 0 } : RosterUnit) = _
  rw [only.roster, only.passage]

end Site

namespace Machine

/-- Settles O23: the slot by R148's cases (`Site.oldest_found`), its old record reclaimed, the new record, and the rest of an opening
part by part. -/
theorem openingOfPassage : Obligations.OpeningOfPassage := by
  intro t d held r a gate has free loose deferred settled some4 oldest
  have passage := t.openPassage_passage d held
  obtain ⟨-, -, -, points, modules, -, composition, -, store⟩ := t.openPassage_rest d held
  obtain ⟨holds, counts, flags⟩ := t.openPassage_reclaim d held
  have isLoose : ∀ k : TrainRecord, k.reclaimable = true ↔ loose k := TrainRecord.reclaimable_iff
  have isSettled : ∀ k : TrainRecord, k.settled = true ↔ settled k := TrainRecord.settled_iff
  have isAny : ∀ k : TrainRecord, (fun _ => true : TrainRecord → Bool) k = true ↔ True := fun _ => iff_of_true rfl trivial
  have full : (∀ j, ¬free (t.recordAt j)) → t.chooseSlot = ((t.oldest TrainRecord.settled).or
      ((t.oldest TrainRecord.reclaimable).or (t.oldest (fun _ => true)))).getD 0 := fun h => by
    rw [Site.chooseSlot, Site.freeTrainSlot_of_full h, Option.none_or]
  have gateIs : t.chooseGate d = gate := rfl
  refine ⟨⟨t.chooseSlot, _, t.openPassage_record d held, Site.chooseSlot_of_free, fun h hs => ?_, fun h hn hs => ?_, fun h hn => ?_,
    fun j hj => ?_, fun j k hj hk hc => ?_, fun j k _ hk => Site.rank_lt_nextRank hk, rfl, rfl, rfl, rfl, rfl, rfl, rfl, rfl, rfl,
    fun c => t.openingCauses_has d c, fun h => ?_, fun k hk => ?_⟩, ?_, ?_, ?_, ?_, ?_, ?_, ?_, ?_, ?_, ?_, fun q => ?_,
    t.openPassage_roster_eq d held, t.openPassage_watch d held, points, modules, store, composition⟩
  -- the slot
  · obtain ⟨i, found, holdsOldest⟩ := Site.oldest_of_some isSettled hs
    rw [full h, found]
    exact holdsOldest
  · obtain ⟨i, found, holdsOldest⟩ := Site.oldest_of_some isLoose hs
    rw [full h, Site.oldest_of_none isSettled hn, found]
    exact holdsOldest
  · have noSettled : ¬some4 settled := fun ⟨j, k, hk, hs⟩ => hn ⟨j, k, hk, hs.1⟩
    have record : ∃ j k, t.recordAt j = some k ∧ True := by
      obtain ⟨k, hk⟩ := Option.ne_none_iff_exists'.1 (h 0)
      exact ⟨0, k, hk, trivial⟩
    obtain ⟨i, found, holdsOldest⟩ := Site.oldest_of_some isAny record
    rw [full h, Site.oldest_of_none isSettled noSettled, Site.oldest_of_none isLoose hn, found]
    exact holdsOldest
  -- the other records
  · rw [show r.recordAt j = _ from t.openPassage_recordAt d held hj, Site.addRecordCauseIf_recordAt]
    split
    · cases t.recordAt j with
      | none => rfl
      | some k =>
        unfold addCauseWhenOpen
        dsimp only
        split <;> rfl
    · rfl
  · rw [show r.recordAt j = _ from t.openPassage_recordAt d held hj, ← hk]
    rcases hc with closed | entry
    · exact Site.addRecordCauseIf_other (fun q hq => by
        rw [hk, Option.some.injEq] at hq
        exact hq ▸ closed) _ _
    · rw [gateIs, entry, bne_self_eq_false]
      rfl
  -- the old record
  · rw [Site.reclaim_of_free h] at holds counts flags
    exact ⟨holds, counts, flags⟩
  · rw [Site.reclaim_of_some hk] at holds counts flags
    refine ⟨?_, ?_, fun f => ?_⟩
    · rw [show r.holds = _ from holds, Site.accountReclaim_holds, Site.breakTrainHold_holds]
      cases k.hold <;> rfl
    · rw [show r.counts = _ from counts, Site.accountReclaim_counts, Site.breakTrainHold_counts]
    · have same : r.Has f ↔ ((t.breakTrainHold k).accountReclaim k).Has f := by
        unfold Site.Has Site.hasFlag
        rw [show r.flags = _ from flags]
      rw [same, Site.accountReclaim_has, Site.breakTrainHold_has, or_assoc]
  -- the passage controller
  · rw [passage]
  · rw [passage, gateIs]
  · rw [passage]
  · rw [passage]
  · rw [passage]
  · rw [passage]
  · rw [passage]
  · rw [passage]
  · rw [passage]; rfl
  · rw [passage]
  · rw [passage]
    refine (t.formCheckSet_has d t.passage.pending q).trans ?_
    rw [Site.leavesOutUpstream_iff, not_or]

end Machine

end Sys2Proof
end

section
/-! PROOF. The roster under the counting gate's count, and the vehicle of an appended axle. -/

namespace Sys2Proof

/-! ### One entry read and changed -/

namespace RosterUnit

variable {u : RosterUnit} {v : Vehicle} {c : GapClass} {m : Nat}

/-- The entry of an ordinal stands one place before it. -/
theorem entryAt_of_pos (h : m ≠ 0) : u.entryAt m = u.entries[m - 1]? := if_neg h

/-- The entry of an ordinal changed in place. -/
theorem updateEntry_of_some {e : AxleEntry} (h : m ≠ 0) (he : u.entries[m - 1]? = some e) (f : AxleEntry → AxleEntry) :
    u.updateEntry m f = { u with entries := u.entries.set (m - 1) (f e) } := by
  rw [updateEntry, if_neg h, updateAt_eq_set f _ _ _ he]

/-! ### Where an appended axle goes (R57 to R59) -/

/-- The first axle of a list opens a vehicle (R57). -/
theorem place_of_empty (h : u.vehicles = []) (c : GapClass) (m : Nat) :
    u.place (placementOf u.current c) m = u.openVehicle m := by
  simp [current, h, placementOf, place]

/-- A COUPLING gap closes the current vehicle and opens the next (R57). -/
theorem place_of_coupling (h : u.current = some v) (full : v.position ≠ 256) (state : v.state = .opened) (m : Nat) :
    u.place (placementOf u.current .coupling) m = (u.closeVehicle u.vehicles.length).openVehicle m := by
  simp [h, placementOf, full, state, place]

/-- Any other gap joins the axle to a current vehicle that is OPEN (R57). -/
theorem place_of_joined (h : u.current = some v) (full : v.position ≠ 256) (state : v.state = .opened) (hc : c ≠ .coupling)
    (m : Nat) : u.place (placementOf u.current c) m = u.joinVehicle u.vehicles.length := by
  simp [h, placementOf, full, state, hc, place]

/-- Behind a CLOSED vehicle a new one opens, whatever the gap (R57, R58). -/
theorem place_of_closed (h : u.current = some v) (full : v.position ≠ 256) (state : v.state = .closed) (c : GapClass) (m : Nat) :
    u.place (placementOf u.current c) m = u.openVehicle m := by
  simp [h, placementOf, full, state, place]

/-- Every further axle joins vehicle 256 (R59). -/
theorem place_of_full (h : u.current = some v) (full : v.position = 256) (c : GapClass) (m : Nat) :
    u.place (placementOf u.current c) m = u.joinVehicle u.vehicles.length := by
  simp [h, placementOf, full, place]

theorem openVehicle_getLast (u : RosterUnit) (m : Nat) :
    (u.openVehicle m).vehicles.getLast? = some (newVehicle (u.vehicles.length + 1) m) := by simp [openVehicle]

theorem joinVehicle_getLast (h : u.current = some v) :
    (u.joinVehicle u.vehicles.length).vehicles.getLast? = some { v with axleCount := v.axleCount + 1 } := by
  rw [joinVehicle_last u v h, List.getLast?_concat]

/-- After a placement there is a current vehicle. -/
theorem place_getLast (u : RosterUnit) (c : GapClass) (m : Nat) :
    ∃ w, (u.place (placementOf u.current c) m).vehicles.getLast? = some w := by
  cases h : u.current with
  | none => exact ⟨_, by rw [← h, place_of_empty (List.getLast?_eq_none_iff.mp h)]; exact openVehicle_getLast u m⟩
  | some v =>
    rw [← h]
    by_cases full : v.position = 256
    · exact ⟨_, by rw [place_of_full h full]; exact joinVehicle_getLast h⟩
    · cases state : v.state with
      | closed => exact ⟨_, by rw [place_of_closed h full state]; exact openVehicle_getLast u m⟩
      | opened =>
        by_cases hc : c = .coupling
        · exact ⟨_, by rw [hc, place_of_coupling h full state]; exact openVehicle_getLast _ m⟩
        · exact ⟨_, by rw [place_of_joined h full state hc]; exact joinVehicle_getLast h⟩

/-- A closing leaves how many vehicles there are. -/
theorem closeVehicle_length (u : RosterUnit) (p : Nat) : (u.closeVehicle p).vehicles.length = u.vehicles.length := by
  simpa using congrArg List.length (u.closeVehicle_positions p)

/-! ### The closing at twelve axles (R58) -/

end RosterUnit

/-- A closing of the last vehicle changes its state and its orientation at most. -/
theorem LastVehicleClosed.vehicles {vs vs' : List Vehicle} {es es' : List AxleEntry} {v : Vehicle}
    (h : LastVehicleClosed vs es v vs' es') :
    ∃ o : Orientation, vs' = vs.dropLast ++ [{ v with state := .closed, orientation := o }] := by
  obtain ⟨-, fixed, kept⟩ := h
  by_cases k : (v.tagState = .single ∨ v.tagState = .confirmed) ∧ v.axleCount ≤ 12
  · exact ⟨_, (fixed k).1⟩
  · exact ⟨v.orientation, (kept k).1⟩

namespace RosterUnit

variable {u : RosterUnit} {v : Vehicle} {m : Nat}

/-- The closing at twelve axles leaves how many vehicles there are and where the last one begins. -/
theorem closeAtTwelve_getLast (h : u.vehicles.getLast? = some v) : u.closeAtTwelve.vehicles.length = u.vehicles.length ∧
    ∃ w, u.closeAtTwelve.vehicles.getLast? = some w ∧ w.firstOrdinal = v.firstOrdinal := by
  obtain ⟨closes, keeps⟩ := u.closeAtTwelve_last v h
  by_cases k : v.state = .opened ∧ 12 ≤ v.axleCount ∧ v.position ≠ 256
  · obtain ⟨o, e⟩ := (closes k).vehicles
    have pos : 0 < u.vehicles.length := List.length_pos_iff.mpr (fun z => by rw [z] at h; cases h)
    rw [e]
    exact ⟨by simp; omega, _, List.getLast?_concat, rfl⟩
  · rw [keeps k]
    exact ⟨rfl, v, h, rfl⟩

end RosterUnit

namespace Site

variable {t : Site} {time : BitVec 32} {speed gap : Option Nat}

/-! ### The append taken apart (R47, R57) -/

/-- The gap of an appended axle: the entry of ordinal 1 has none (log 39). -/
def axleGap (t : Site) (gap : Option Nat) : Option Nat := if t.roster.entries.length = 0 then none else gap

/-- The class of an appended axle's gap (R56). -/
def axleClass (t : Site) (gap : Option Nat) : GapClass := gapClassOf t.passage.latched (t.axleGap gap)

/-- The roster once the vehicle of an appended axle is found, its entry not yet there (R57). -/
def placed (t : Site) (gap : Option Nat) : RosterUnit :=
  t.roster.place (placementOf t.roster.current (t.axleClass gap)) (t.roster.entries.length + 1)

/-- The entry that an append adds (R47). -/
def axleEntry (t : Site) (time : BitVec 32) (speed gap : Option Nat) : AxleEntry :=
  t.newEntry (t.roster.entries.length + 1) time speed (t.axleGap gap) (t.axleClass gap) (t.placed gap).vehicles.length
    (t.roster.entries.length + 1 -
      ((t.placed gap).current.map Vehicle.firstOrdinal).getD (t.roster.entries.length + 1) + 1)

/-- The roster of an append before the closing at twelve axles. -/
def withAxle (t : Site) (time : BitVec 32) (speed gap : Option Nat) : RosterUnit :=
  { t.placed gap with entries := (t.placed gap).entries ++ [t.axleEntry time speed gap] }

theorem rosterAppended_eq (t : Site) (time : BitVec 32) (speed gap : Option Nat) :
    t.rosterAppended time speed gap = (t.withAxle time speed gap).closeAtTwelve.newGeneration := by
  have first : (if t.roster.entries.length + 1 = 1 then none else gap) = t.axleGap gap := by simp [axleGap]
  unfold rosterAppended
  dsimp only
  rw [first]
  rfl

/-- An append adds one entry, and of the others it changes axle indexes alone (R47). -/
theorem rosterAppended_entries (t : Site) (time : BitVec 32) (speed gap : Option Nat) :
    (t.rosterAppended time speed gap).entries.length = t.roster.entries.length + 1 ∧
      (∀ (i : Nat) (e : AxleEntry), t.roster.entries[i]? = some e →
        ∃ x, (t.rosterAppended time speed gap).entries[i]? = some { e with axleIndex := x }) ∧
      ∃ x, (t.rosterAppended time speed gap).entries[t.roster.entries.length]? =
        some { t.axleEntry time speed gap with axleIndex := x } := by
  have before : t.roster.SameButIndexes (t.placed gap) := t.roster.place_same _ _
  have after : (t.withAxle time speed gap).SameButIndexes (t.withAxle time speed gap).closeAtTwelve :=
    (t.withAxle time speed gap).closeAtTwelve_same
  rw [rosterAppended_eq]
  refine ⟨?_, fun i e he => ?_, ?_⟩
  · calc (t.withAxle time speed gap).closeAtTwelve.entries.length
      _ = ((t.placed gap).entries ++ [t.axleEntry time speed gap]).length := after.length
      _ = t.roster.entries.length + 1 := by rw [List.length_append, before.length]; rfl
  · obtain ⟨x, hx⟩ := before.entry i e he
    have there : i < (t.placed gap).entries.length := (List.getElem?_eq_some_iff.mp hx).1
    obtain ⟨y, hy⟩ := after.entry i { e with axleIndex := x } ((List.getElem?_append_left there).trans hx)
    exact ⟨y, hy⟩
  · exact after.entry _ _ (by rw [← before.length]; exact List.getElem?_concat_length)

theorem rosterAppended_generation (t : Site) (time : BitVec 32) (speed gap : Option Nat) :
    (t.rosterAppended time speed gap).generation = t.roster.generation + 1#16 := by
  rw [rosterAppended_eq]
  exact congrArg (· + 1#16) ((t.withAxle time speed gap).closeAtTwelve_generation.trans (t.roster.place_generation _ _))

/-! ### Rises and falls (R48 to R51) -/

variable {m : Nat} {e : AxleEntry}

theorem rosterRise_of_full (h : 1024 < m) : t.rosterRise m time speed gap = t.addRecordCause .rosterFull := if_pos h

theorem rosterRise_of_above (h : t.roster.entries.length < m) (hm : m ≤ 1024) :
    t.rosterRise m time speed gap = t.appendAxle time speed gap :=
  (if_neg (Nat.not_lt.mpr hm)).trans (if_pos h)

/-- The entry of the new count's ordinal revived (R51). -/
theorem rosterRise_of_entry (h : m ≠ 0) (hm : m ≤ 1024) (he : t.roster.entries[m - 1]? = some e) :
    t.rosterRise m time speed gap = t.setRoster
      { t.roster with
        entries := t.roster.entries.set (m - 1) { e with state := .present, reversedOver := true }
        generation := t.roster.generation + 1#16 } := by
  have within : m - 1 < t.roster.entries.length := (List.getElem?_eq_some_iff.mp he).1
  rw [rosterRise, if_neg (Nat.not_lt.mpr hm), if_neg (by omega), RosterUnit.updateEntry_of_some h he]
  rfl

/-- The entry of the old count's ordinal RETRACTED (R50). -/
theorem rosterFall_of_entry (h : m ≠ 0) (he : t.roster.entries[m - 1]? = some e) :
    t.rosterFall m = t.setRoster
      { t.roster with
        entries := t.roster.entries.set (m - 1) { e with state := .retracted }
        generation := t.roster.generation + 1#16 } := by
  rw [rosterFall, RosterUnit.entryAt_of_pos h, he, RosterUnit.updateEntry_of_some h he]
  rfl

/-- A count past the roster has no entry to retract (R49). -/
theorem rosterFall_of_above (h : t.roster.entries.length < m) : t.rosterFall m = t := by
  have past : t.roster.entryAt m = none := by
    rw [RosterUnit.entryAt_of_pos (by omega)]
    exact List.getElem?_eq_none (by omega)
  rw [rosterFall, past]
  rfl

end Site

/-- Settles O31: a rise by its three cases, the append through `Site.rosterAppended_entries`, and a fall by its two. -/
theorem rosterFollowsGateCount : Obligations.RosterFollowsGateCount := by
  intro t m time speed gap u n r reason
  refine ⟨Site.rosterRise_of_full, fun e h1 hm he => Site.rosterRise_of_entry (by omega) hm he, fun hn hm => ?_,
    fun e h1 he => Site.rosterFall_of_entry (by omega) he, Site.rosterFall_of_above⟩
  have roster : r.roster = t.rosterAppended time speed gap :=
    (congrArg Site.roster (Site.rosterRise_of_above hn hm)).trans (t.appendAxle_roster time speed gap)
  obtain ⟨length, others, x, added⟩ := t.rosterAppended_entries time speed gap
  rw [roster]
  refine ⟨length, t.rosterAppended_generation time speed gap, others, _, added, rfl, rfl, rfl, rfl, rfl, ?_, fun k => ?_,
    fun k => ?_, rfl, rfl⟩
  · show gapClassOf t.passage.latched (t.axleGap gap) = _
    dsimp only [Site.axleEntry, Site.newEntry]
    cases t.axleGap gap <;> rfl
  · exact tableMapIdx_getElem _ _ k
  · exact tableMapIdx_getElem _ _ k

/-! ### The causes of an append (R57 to R59) -/

section Placement

variable (v : Vehicle) (c : GapClass)

theorem placementOf_uncertain : (placementOf (some v) c).uncertain = true ↔ c = .unknown := by
  unfold placementOf
  dsimp only
  split
  · exact beq_iff_eq
  · split <;> exact beq_iff_eq

theorem placementOf_limit : (placementOf (some v) c).limit = true ↔ v.position ≠ 256 ∧ v.state = .closed ∧ c ≠ .coupling := by
  unfold placementOf
  dsimp only
  split
  · next full => simp [full]
  · next full => split <;> next state => simp [full, state]

theorem placementOf_full :
    (placementOf (some v) c).full = true ↔ v.position = 256 ∧ (c = .coupling ∨ 12 ≤ v.axleCount) := by
  unfold placementOf
  dsimp only
  split
  · next full => simp [full]
  · next full => split <;> simp [full]

end Placement

namespace Site

variable {t : Site} {time : BitVec 32} {speed gap : Option Nat}

/-- The first axle of a list adds no cause. -/
theorem appendAxle_train_of_empty (h : t.roster.vehicles = []) : (t.appendAxle time speed gap).train = t.train := by
  have first : t.roster.current = none := by rw [RosterUnit.current, h]; rfl
  unfold appendAxle
  rw [first]
  rfl

/-- The causes that an append adds to the OPEN record (R57 to R59). -/
theorem appendAxle_causes {v : Vehicle} (h : t.roster.current = some v) {i : Fin 4} {k : TrainRecord}
    (hk : t.recordAt i = some k) (opened : k.phase = .opened) :
    ∃ q, (t.appendAxle time speed gap).recordAt i = some q ∧ q.phase = .opened ∧ ∀ x : Cause,
      q.causes.getLsbD x.bit = true ↔ k.causes.getLsbD x.bit = true ∨
        (x = .groupingUncertain ∧ t.axleClass gap = .unknown) ∨
        (x = .groupingLimit ∧ v.position ≠ 256 ∧ v.state = .closed ∧ t.axleClass gap ≠ .coupling) ∨
        (x = .vehicleFull ∧ v.position = 256 ∧ (t.axleClass gap = .coupling ∨ 12 ≤ v.axleCount)) := by
  have start : (t.setRoster (t.rosterAppended time speed gap)).recordAt i = some k := hk
  let p := placementOf (some v) (t.axleClass gap)
  obtain ⟨a, ha, causes1⟩ := addRecordCauseIf_opened start opened p.uncertain .groupingUncertain
  obtain ⟨b, hb, causes2⟩ := addRecordCauseIf_opened ha opened p.limit .groupingLimit
  obtain ⟨d, hd, causes3⟩ := addRecordCauseIf_opened hb opened p.full .vehicleFull
  refine ⟨{ k with causes := d }, ?_, opened, fun x => ?_⟩
  · rw [← hd]
    unfold appendAxle
    rw [h]
    rfl
  · rw [causes3, causes2, causes1, placementOf_uncertain, placementOf_limit, placementOf_full]
    simp only [or_assoc]

/-! ### The vehicles of an append (R57 to R59) -/

section Appended

variable {q : RosterUnit} {y : Vehicle}

/-- Where the axle's vehicle does not reach its closing: the vehicles as the placement leaves them, and one entry more. -/
theorem appendAxle_of_open (hq : t.placed gap = q) (hy : q.vehicles.getLast? = some y)
    (stays : ¬(y.state = .opened ∧ 12 ≤ y.axleCount ∧ y.position ≠ 256)) :
    (t.appendAxle time speed gap).roster.vehicles = q.vehicles ∧
      (t.appendAxle time speed gap).roster.entries = q.entries ++ [t.axleEntry time speed gap] := by
  subst hq
  rw [appendAxle_roster, rosterAppended_eq, ((t.withAxle time speed gap).closeAtTwelve_last y hy).2 stays]
  exact ⟨rfl, rfl⟩

/-- A vehicle opened with the axle stays OPEN. -/
theorem appendAxle_of_new (hq : t.placed gap = q.openVehicle (t.roster.entries.length + 1)) :
    (t.appendAxle time speed gap).roster.vehicles =
        q.vehicles ++ [newVehicle (q.vehicles.length + 1) (t.roster.entries.length + 1)] ∧
      (t.appendAxle time speed gap).roster.entries = q.entries ++ [t.axleEntry time speed gap] :=
  appendAxle_of_open hq (q.openVehicle_getLast _) (fun k => absurd (show 12 ≤ 1 from k.2.1) (by decide))

/-- The twelfth axle closes its vehicle (R58). -/
theorem appendAxle_of_twelve (hq : t.placed gap = q) (hy : q.vehicles.getLast? = some y)
    (closes : y.state = .opened ∧ 12 ≤ y.axleCount ∧ y.position ≠ 256) :
    LastVehicleClosed q.vehicles (q.entries ++ [t.axleEntry time speed gap]) y
      (t.appendAxle time speed gap).roster.vehicles (t.appendAxle time speed gap).roster.entries := by
  subst hq
  rw [appendAxle_roster, rosterAppended_eq]
  exact ((t.withAxle time speed gap).closeAtTwelve_last y hy).1 closes

end Appended

/-- The axle's vehicle is the last one, and its position counts from that vehicle's first ordinal (R57). -/
theorem appendAxle_getLast (t : Site) (time : BitVec 32) (speed gap : Option Nat) :
    (t.appendAxle time speed gap).roster.vehicles.length = (t.axleEntry time speed gap).vehicle ∧
      ∃ w, (t.appendAxle time speed gap).roster.vehicles.getLast? = some w ∧
        (t.axleEntry time speed gap).position = t.roster.entries.length + 1 - w.firstOrdinal + 1 := by
  obtain ⟨x, hx⟩ := t.roster.place_getLast (t.axleClass gap) (t.roster.entries.length + 1)
  obtain ⟨length, w, hw, first⟩ := (t.withAxle time speed gap).closeAtTwelve_getLast (v := x) hx
  have current : (t.placed gap).current = some x := hx
  rw [appendAxle_roster, rosterAppended_eq]
  refine ⟨length, w, hw, ?_⟩
  rw [axleEntry, current, first]
  rfl

end Site

/-- Settles O32: the placement case by case (`RosterUnit.place_of_coupling` and its neighbours), what the append makes of each
(`Site.appendAxle_of_open`, `Site.appendAxle_of_twelve`), and the causes (`Site.appendAxle_causes`). -/
theorem appendedAxleGrouped : Obligations.AppendedAxleGrouped := by
  intro t time speed gap u n c r vs es fresh has
  obtain ⟨length, w, hw, position⟩ := t.appendAxle_getLast time speed gap
  refine ⟨t.axleEntry time speed gap, w, hw, rfl, rfl, length.symm, position, fun empty => ?_, ?_⟩
  · obtain ⟨hvs, hes⟩ := t.appendAxle_of_new (time := time) (speed := speed) (RosterUnit.place_of_empty empty _ _)
    exact ⟨hvs.trans (congrArg (· ++ [fresh]) empty), hes, Site.appendAxle_train_of_empty empty⟩
  · intro v hv joined longer full uncertain limit overfull
    have joins : (u.joinVehicle u.vehicles.length).vehicles = longer := u.joinVehicle_last v hv
    have joinedLast := RosterUnit.joinVehicle_getLast (u := u) hv
    have joinedEntries : (u.joinVehicle u.vehicles.length).entries = u.entries := u.updateVehicle_entries _ _
    refine ⟨fun hf hs hc => ?_, fun hf hs hc few => ?_, fun hf hs hc twelve => ?_, fun hf hs => ?_, fun hf => ?_,
      fun i k hk opened => Site.appendAxle_causes hv hk opened⟩
    · have hp : t.placed gap = (u.closeVehicle u.vehicles.length).openVehicle (n + 1) := by
        rw [Site.placed, show t.axleClass gap = .coupling from hc]
        exact RosterUnit.place_of_coupling hv hf hs _
      obtain ⟨hvs, hes⟩ := Site.appendAxle_of_new (time := time) (speed := speed) hp
      rw [u.closeVehicle_length] at hvs
      exact ⟨_, _, u.closeVehicle_last v hv, hvs, hes⟩
    · rw [← joins, ← joinedEntries]
      exact Site.appendAxle_of_open (RosterUnit.place_of_joined hv hf hs hc _) joinedLast (fun k => Nat.not_le.mpr few k.2.1)
    · rw [← joins, ← joinedEntries]
      exact Site.appendAxle_of_twelve (RosterUnit.place_of_joined hv hf hs hc _) joinedLast ⟨hs, twelve, hf⟩
    · exact Site.appendAxle_of_new (RosterUnit.place_of_closed hv hf hs _ _)
    · rw [← joins, ← joinedEntries]
      exact Site.appendAxle_of_open (RosterUnit.place_of_full hv hf _ _) joinedLast (fun k => k.2.2 hf)

end Sys2Proof
end

section
/-! PROOF. ROSTER_READ and VEHICLE_READ. -/

namespace Sys2Proof

/-! ### An expected serial (R67, R68) -/

/-- The serial that a read expects, where it carries one. -/
def expectedSerial (body : List Byte) : Option Serial :=
  if natAt body 0 1 = 1 then some (BitVec.ofNat 32 (natAt body 1 4)) else none

/-- A presence byte above 1 names nothing (log 24). -/
theorem readOptLong_of_bad {body : List Byte} (h : 1 < natAt body 0 1) : readOptLong body 0 = none := by
  cases k : readYesNo body 0 with
  | none => rw [readOptLong, k]; rfl
  | some b =>
    rw [readYesNo_eq_some_iff] at k
    cases b <;> simp [k] at h

theorem readOptLong_of_good {body : List Byte} (h : ¬1 < natAt body 0 1) :
    readOptLong body 0 = some (expectedSerial body) := by
  unfold expectedSerial
  by_cases one : natAt body 0 1 = 1
  · have carried : readYesNo body 0 = some true := readYesNo_eq_some_iff.2 one
    rw [readOptLong, carried, if_pos one]
    rfl
  · have omitted : readYesNo body 0 = some false := readYesNo_eq_some_iff.2 (show natAt body 0 1 = 0 by omega)
    rw [readOptLong, omitted, if_neg one]
    rfl

/-- NOT_FOUND is answered with no roster, and where the serial expected is another's (R67, R68). -/
theorem RosterUnit.notFound_iff (u : RosterUnit) (body : List Byte) : u.notFound (expectedSerial body) = true ↔
    u.standing = .none ∨ (natAt body 0 1 = 1 ∧ u.serial ≠ some (BitVec.ofNat 32 (natAt body 1 4))) := by
  unfold RosterUnit.notFound expectedSerial
  split
  · next one => simpa [one] using or_congr_right ne_comm
  · next one => simp [one]

/-! ### The two reads (R67, R68) -/

namespace Site

variable {t : Site} {body : List Byte}

theorem rosterRead_of_bad (h : 1 < natAt body 0 1 ∨ natAt body 5 2 < 1 ∨ 1024 < natAt body 5 2 ∨ natAt body 7 1 < 1 ∨
    8 < natAt body 7 1) : t.rosterRead body = t.refuse .badValue := by
  rcases h with presence | range
  · simp only [rosterRead, readOptLong_of_bad presence]
  · unfold rosterRead
    split
    · rfl
    · exact if_pos range

theorem rosterRead_of_good (h : ¬(1 < natAt body 0 1 ∨ natAt body 5 2 < 1 ∨ 1024 < natAt body 5 2 ∨ natAt body 7 1 < 1 ∨
    8 < natAt body 7 1)) : t.rosterRead body =
      if t.roster.notFound (expectedSerial body) then t.refuse .notFound
      else t.answerOk (t.rosterHeading ++
        listField ((itemsFrom (natAt body 5 2) (natAt body 7 1) t.roster.entries).map AxleEntry.field)) := by
  obtain ⟨presence, range⟩ := not_or.mp h
  simp only [rosterRead, readOptLong_of_good presence, if_neg range]

theorem vehicleRead_of_bad (h : 1 < natAt body 0 1 ∨ natAt body 5 2 < 1 ∨ 256 < natAt body 5 2 ∨ natAt body 7 1 < 1 ∨
    16 < natAt body 7 1) : t.vehicleRead body = t.refuse .badValue := by
  rcases h with presence | range
  · simp only [vehicleRead, readOptLong_of_bad presence]
  · unfold vehicleRead
    split
    · rfl
    · exact if_pos range

theorem vehicleRead_of_good (h : ¬(1 < natAt body 0 1 ∨ natAt body 5 2 < 1 ∨ 256 < natAt body 5 2 ∨ natAt body 7 1 < 1 ∨
    16 < natAt body 7 1)) : t.vehicleRead body =
      if t.roster.notFound (expectedSerial body) then t.refuse .notFound
      else t.answerOk (t.vehicleHeading ++
        listField ((itemsFrom (natAt body 5 2) (natAt body 7 1) t.roster.vehicles).map t.roster.vehicleField)) := by
  obtain ⟨presence, range⟩ := not_or.mp h
  simp only [vehicleRead, readOptLong_of_good presence, if_neg range]

end Site

/-! ### Their answers' bytes (R67, R68, R195) -/

theorem RosterStanding.code_eq (x : RosterStanding) : x.code = if x = .final then 1 else 0 := by cases x <;> rfl

/-- The items of a list follow their count. -/
theorem listField_map {α : Type} (f : α → List Byte) (xs : List α) :
    listField (xs.map f) = leBytes 1 xs.length ++ xs.flatMap f := by
  rw [listField, List.length_map]
  rfl

namespace Machine

theorem exec_rosterRead (p : Port) (tag : Byte) (body : List Byte) (s : State) :
    exec (.rosterRead p tag body) s = request .rosterRead p tag body (fun t => t.rosterRead body) s := rfl

theorem exec_vehicleRead (p : Port) (tag : Byte) (body : List Byte) (s : State) :
    exec (.vehicleRead p tag body) s = request .vehicleRead p tag body (fun t => t.vehicleRead body) s := rfl

/-- Settles O33: each read is refused by its presence byte and ranges, or by the roster's standing and serial
(`RosterUnit.notFound_iff`); else its bytes are those of the fields. -/
theorem rosterAndVehicleReads : Obligations.RosterAndVehicleReads := by
  intro s p tag body u first count absent head bay bearing entry vehicle
  have notFound : u.notFound (expectedSerial body) = true ↔ absent := u.notFound_iff body
  have heading : head = u.serialField ++ byteField u.standing.code := by rw [RosterStanding.code_eq]; rfl
  have bays : ∀ v, bay v = v.field := fun v => by cases v <;> rfl
  have bearings : bearing = BearingValue.field := funext fun v => by cases v <;> rfl
  have entries : ∀ e, entry e = e.field := fun e => by
    simp only [entry, bays, bearings]
    rfl
  constructor
  · intro takes bad items
    refine ⟨fun h => request_refused takes tag (Site.rosterRead_of_bad h),
      fun h ha => request_refused takes tag ((Site.rosterRead_of_good h).trans (if_pos (notFound.2 ha))), fun h ha => ?_⟩
    refine request_granted takes tag (((Site.rosterRead_of_good h).trans (if_neg (mt notFound.1 ha))).trans ?_)
    rw [listField_map, ← List.append_assoc, heading, funext entries]
    rfl
  · intro takes bad items
    refine ⟨fun h => request_refused takes tag (Site.vehicleRead_of_bad h),
      fun h ha => request_refused takes tag ((Site.vehicleRead_of_good h).trans (if_pos (notFound.2 ha))), fun h ha => ?_⟩
    refine request_granted takes tag (((Site.vehicleRead_of_good h).trans (if_neg (mt notFound.1 ha))).trans ?_)
    rw [listField_map, ← List.append_assoc, heading]
    rfl

end Machine

end Sys2Proof
end

section
/-! PROOF. A bay or scanner report, and a tag report. -/

namespace Sys2Proof

/-! ### A report's frame (R69, R75) -/

theorem lineKind_eq_bay (n : Fin 8) : lineKind n = .bay ↔ n.val < 4 := by revert n; decide

/-- A report that is well made fits its frame (R69). -/
theorem WellMade.fits_of_report {n : Fin 8} {f : ModuleFrame} (h : WellMade n f) (code : f.code = 4#8) : f.fits = true := by
  obtain ⟨-, -, length, -⟩ := h
  rw [code] at length
  have bytes : ∀ (k : ModuleKind) (b : Nat), payloadBytes k 4#8 = some b → b ≤ 11 := fun k b hb => by
    cases k <;> cases hb <;> decide
  exact decide_eq_true (bytes _ _ length)

namespace Site

variable {t : Site} {n : Fin 8}

/-- Of a module that is not the ambient unit a READY changes the arming state alone (R74). -/
theorem moduleReady_of_other (hn : n ≠ 7) (payload : List Byte) :
    t.moduleReady n payload = t.putLine n { t.line n with arming := .ready } :=
  if_neg (mt (lineKind_eq_ambientUnit n).1 hn)

/-- A report taken first as a READY (R75), by the arming state of its module. -/
theorem takeReady_shownUp (hn : n ≠ 7) (fitted : (t.line n).arming ≠ .notFitted) (payload : List Byte) :
    t.ShownUp n (t.takeReady n payload) := by
  unfold ShownUp
  intro a up all still
  have moduleUp : t.moduleReady n payload = up := moduleReady_of_other hn payload
  unfold takeReady
  cases state : (t.line n).arming with
  | notFitted => exact absurd state fitted
  | ready => exact .inl ⟨.inl state, rfl⟩
  | idle => exact .inl ⟨.inr state, rfl⟩
  | arming =>
    dsimp only
    rw [moduleUp]
    refine .inr ?_
    by_cases ha : all
    · by_cases hp : a.phase = .arming
      · exact .inr (.inr (.inl ⟨state, ha, hp,
          (readyReported_of_all (t := up) ha).trans (becomeArmed_of_arming (t := up.stopArmTimer) hp)⟩))
      · exact .inr (.inl ⟨state, ha, hp,
          (readyReported_of_all (t := up) ha).trans (becomeArmed_of_other (t := up.stopArmTimer) hp)⟩)
    · exact .inl ⟨state, ha, readyReported_of_not_all (t := up) ha⟩
  | missing =>
    dsimp only
    rw [moduleUp]
    refine .inr (.inr (.inr (.inr ?_)))
    by_cases ho : t.HasOpenRecord
    · exact .inl ⟨state, ho, addCause_of_open (t := up) ho _⟩
    · exact .inr ⟨state, ho, addCause_of_not_open (t := up) ho _⟩

/-- The line of a current frame stands fitted once its receiver hunts. -/
theorem Hears.hunted_fitted {f : ModuleFrame} (h : t.Hears n f) : ((t.hunted n).line n).arming ≠ .notFitted := by
  obtain ⟨-, -, -, fitted, -⟩ := h
  rw [hunted_arming]
  exact fitted

end Site

namespace Machine

variable {s : State} {f : ModuleFrame}

/-- A bay's or a scanner's report is heard by its line (R75, R81). -/
theorem exec_bayScannerReport {n : Fin 8} (hn : n.val < 6) (code : f.code = 4#8) (h : s.site.Hears n f) :
    exec (.bayScannerReport n f) s = .next (s.setSite (((s.site.hunted n).takeReady n []).takeReport n f)) := by
  have wf : reportWf n f = true := by
    rw [reportWf, WellMade.fits_of_report h.2.1 code, code, decide_eq_true hn]; rfl
  have taken : s.site.reportFrame n f = _ := Site.takeFrame_of_hears h _
  rw [← taken]
  exact if_pos wf

/-- The tag reader's report is heard by its line (R61, R75). -/
theorem exec_tagReport (code : f.code = 4#8) (h : s.site.Hears 6 f) :
    exec (.tagReport f) s = .next (s.setSite (((s.site.hunted 6).takeReady 6 []).takeTag (tagReadOf f.payload))) := by
  have wf : tagWf f = true := by rw [tagWf, WellMade.fits_of_report h.2.1 code, code]; rfl
  have taken : s.site.tagFrame f = ((s.site.hunted 6).takeReady 6 []).takeTag (tagReadOf f.payload) :=
    Site.takeFrame_of_hears h _
  rw [← taken]
  exact if_pos wf

end Machine

namespace Site

variable {t : Site} {n : Fin 8}

/-! ### Missing crossings (R82) -/

theorem missingCrossing_of_roster (h : (t.line n).cursor < t.rosterLen) : t.missingCrossing n = t.putLine n
    { t.line n with missingReports := bump (t.line n).missingReports, cursor := (t.line n).cursor + 1 } := if_pos h

theorem missingCrossing_of_count (h : t.rosterLen ≤ (t.line n).cursor)
    (hc : (t.line n).cursor + (t.line n).beyond + 1 ≤ t.netAxles) : t.missingCrossing n = t.putLine n
      { t.line n with missingReports := bump (t.line n).missingReports, beyond := (t.line n).beyond + 1 } :=
  (if_neg (Nat.not_lt.mpr h)).trans (if_pos hc)

theorem missingCrossing_of_past (h : t.rosterLen ≤ (t.line n).cursor)
    (hc : t.netAxles < (t.line n).cursor + (t.line n).beyond + 1) : t.missingCrossing n = t.putLine n
      { t.line n with missingReports := bump (t.line n).missingReports } :=
  (if_neg (Nat.not_lt.mpr h)).trans (if_neg (Nat.not_le.mpr hc))

/-- Missing crossings leave the direction-reversed mark. -/
theorem missingCrossings_reversed (n : Fin 8) (k : Nat) (t : Site) :
    (missingCrossings n k t).modules.reversed = t.modules.reversed := by
  have one : ∀ t : Site, (t.missingCrossing n).modules.reversed = t.modules.reversed := fun t => by
    unfold missingCrossing
    dsimp only
    split
    · rfl
    · split <;> rfl
  induction k generalizing t with
  | zero => rfl
  | succ k ih => exact (ih _).trans (one t)

/-! ### The place of a report (R81, R83, R84, R86) -/

variable {f : ModuleFrame} {payload : List Byte} {v : ReportValues}

/-- A report too far ahead is out of sequence (R81). -/
theorem takeReport_of_far (h : 4096 < (f.sequence - (t.line n).expected).toNat) : t.takeReport n f = t.putLine n
    { t.line n with outOfSequence := bump (t.line n).outOfSequence } := if_neg (Nat.not_le.mpr h)

/-- A report in sequence is placed behind the missing crossings, and the next one expected after it (R81, R82). -/
theorem takeReport_of_near (h : (f.sequence - (t.line n).expected).toNat ≤ 4096) {r : Site}
    (hr : (missingCrossings n (f.sequence - (t.line n).expected).toNat t).placeReport n f.payload = r) :
    t.takeReport n f = r.putLine n { r.line n with expected := f.sequence + 1#16 } := by
  rw [← hr]
  exact if_pos h

/-- A report calls its crossing forward, or backward under a direction reversal (R86). -/
theorem isForward_iff (t : Site) (payload : List Byte) :
    t.isForward payload = true ↔ (natAt payload 0 1 = 1 ↔ t.modules.reversed = false) := by
  unfold isForward
  cases t.modules.reversed <;> simp

theorem placeReport_of_forward (h : t.isForward payload = true) :
    t.placeReport n payload = t.forwardReport n (reportValues n payload) := if_pos h

theorem placeReport_of_reverse (h : ¬t.isForward payload = true) : t.placeReport n payload = t.reverseReport n := if_neg h

theorem forwardReport_of_roster (h : (t.line n).beyond = 0 ∧ (t.line n).cursor + 1 ≤ t.rosterLen) : t.forwardReport n v =
    (t.putLine n { t.line n with cursor := (t.line n).cursor + 1 }).setRoster
      (t.roster.updateEntry ((t.line n).cursor + 1) (fun e => e.take n v)) := if_pos h

theorem forwardReport_of_count (h : ¬((t.line n).beyond = 0 ∧ (t.line n).cursor + 1 ≤ t.rosterLen))
    (hc : (t.line n).cursor + (t.line n).beyond + 1 ≤ t.netAxles) :
    t.forwardReport n v = t.putLine n { t.line n with beyond := (t.line n).beyond + 1 } := (if_neg h).trans (if_pos hc)

/-- A report past the net count is an orphan (R84). -/
theorem forwardReport_of_orphan (h : ¬((t.line n).beyond = 0 ∧ (t.line n).cursor + 1 ≤ t.rosterLen))
    (hc : ¬(t.line n).cursor + (t.line n).beyond + 1 ≤ t.netAxles) : t.forwardReport n v = (t.putLine n
      { t.line n with orphans := bump (t.line n).orphans, orphanTally := bump (t.line n).orphanTally }).addCause
        .orphanReports := (if_neg h).trans (if_neg hc)

theorem reverseReport_of_beyond (h : 0 < (t.line n).beyond) :
    t.reverseReport n = t.putLine n { t.line n with beyond := (t.line n).beyond - 1 } := if_pos h

theorem reverseReport_of_cursor (h : (t.line n).beyond = 0) (hc : 0 < (t.line n).cursor) : t.reverseReport n =
    (t.setRoster (t.roster.updateEntry (t.line n).cursor (fun e => { e with reversedOver := true }))).putLine n
      { t.line n with cursor := (t.line n).cursor - 1 } := (if_neg (by omega)).trans (if_pos hc)

theorem reverseReport_of_start (h : (t.line n).beyond = 0) (hc : (t.line n).cursor = 0) : t.reverseReport n = t :=
  (if_neg (by omega)).trans (if_neg (by omega))

end Site

/-! ### The values of a report (R87) -/

theorem qualityOf_eq_some_iff {q : Nat} {v : Quality} : qualityOf q = some v ↔ v.code + 1 = q := by
  refine ⟨fun h => ?_, fun h => by rw [← h]; cases v <;> rfl⟩
  unfold qualityOf at h
  split at h <;> cases h <;> rfl

section Values

variable {payload : List Byte} {i : Nat}

/-- A quality that is not FAILED brings the forces, where both lie in range (R87). -/
theorem bayRail_of_quality {v : Quality} (h : v.code + 1 = natAt payload (i + 4) 1) (hv : v ≠ .failed) : bayRail payload i =
    if natAt payload i 2 ≤ 10000 ∧ natAt payload (i + 2) 2 ≤ 10000 then .forces (natAt payload i 2) (natAt payload (i + 2) 2) v
    else .failed := by
  unfold bayRail
  rw [qualityOf_eq_some_iff.2 h]
  cases v with
  | failed => exact absurd rfl hv
  | good => rfl
  | noisy => rfl
  | clipped => rfl

/-- Any other quality code is FAILED (R87). -/
theorem bayRail_of_no_quality (h : natAt payload (i + 4) 1 < 1 ∨ 3 < natAt payload (i + 4) 1) : bayRail payload i = .failed := by
  unfold bayRail
  cases hq : qualityOf (natAt payload (i + 4) 1) with
  | none => rfl
  | some v =>
    rw [qualityOf_eq_some_iff] at hq
    cases v with
    | failed => rfl
    | good => simp [← hq, Quality.code] at h
    | noisy => simp [← hq, Quality.code] at h
    | clipped => simp [← hq, Quality.code] at h

/-- The quality codes that are not FAILED's. -/
theorem exists_quality_iff {q : Nat} : (∃ v : Quality, v ≠ .failed ∧ v.code + 1 = q) ↔ q = 1 ∨ q = 2 ∨ q = 3 := by
  constructor
  · rintro ⟨v, hv, rfl⟩
    cases v with
    | failed => exact absurd rfl hv
    | good => exact .inl rfl
    | noisy => exact .inr (.inl rfl)
    | clipped => exact .inr (.inr rfl)
  · rintro (rfl | rfl | rfl)
    · exact ⟨.good, by decide, rfl⟩
    · exact ⟨.noisy, by decide, rfl⟩
    · exact ⟨.clipped, by decide, rfl⟩

theorem bayRail_of_forces (hq : natAt payload (i + 4) 1 = 1 ∨ natAt payload (i + 4) 1 = 2 ∨ natAt payload (i + 4) 1 = 3)
    (range : natAt payload i 2 ≤ 10000 ∧ natAt payload (i + 2) 2 ≤ 10000) :
    ∃ v : Quality, v.code + 1 = natAt payload (i + 4) 1 ∧
      bayRail payload i = .forces (natAt payload i 2) (natAt payload (i + 2) 2) v := by
  obtain ⟨v, hv, code⟩ := exists_quality_iff.2 hq
  exact ⟨v, code, (bayRail_of_quality code hv).trans (if_pos range)⟩

theorem bayRail_of_failed (h : natAt payload (i + 4) 1 < 1 ∨ 3 < natAt payload (i + 4) 1 ∨ 10000 < natAt payload i 2 ∨
    10000 < natAt payload (i + 2) 2) : bayRail payload i = .failed := by
  by_cases hq : natAt payload (i + 4) 1 < 1 ∨ 3 < natAt payload (i + 4) 1
  · exact bayRail_of_no_quality hq
  · obtain ⟨v, hv, code⟩ := exists_quality_iff.2 (show natAt payload (i + 4) 1 = 1 ∨ natAt payload (i + 4) 1 = 2 ∨
      natAt payload (i + 4) 1 = 3 by omega)
    exact (bayRail_of_quality code hv).trans (if_neg (by omega))

theorem scannerValue_of_good (hq : natAt payload 3 1 = 1) (low : -600 ≤ intAt payload 1 2) (high : intAt payload 1 2 ≤ 2500) :
    scannerValue payload = .temp (intAt payload 1 2) .good := by
  simp only [scannerValue, hq, decide_eq_true low, decide_eq_true high, Bool.and_true]

theorem scannerValue_of_noisy (hq : natAt payload 3 1 = 2) (low : -600 ≤ intAt payload 1 2) (high : intAt payload 1 2 ≤ 2500) :
    scannerValue payload = .temp (intAt payload 1 2) .noisy := by
  simp only [scannerValue, hq, decide_eq_true low, decide_eq_true high, Bool.and_true]

theorem scannerValue_of_failed (h : natAt payload 3 1 < 1 ∨ 2 < natAt payload 3 1 ∨ intAt payload 1 2 < -600 ∨
    2500 < intAt payload 1 2) : scannerValue payload = .failed := by
  unfold scannerValue
  dsimp only
  split
  · next code range =>
    rw [Bool.and_eq_true, decide_eq_true_eq, decide_eq_true_eq] at range
    omega
  · next code range =>
    rw [Bool.and_eq_true, decide_eq_true_eq, decide_eq_true_eq] at range
    omega
  · rfl

end Values

/-! ### How an entry takes them (R54, R84) -/

namespace AxleEntry

variable {e : AxleEntry} {n : Fin 8}

/-- The first report of a bay is attached. -/
theorem take_bay_of_missing {h : n.val < 4} (missing : e.bays[n.val].rail1 = .unmeasured .missing) (a b : BayValue) :
    e.take n (.bay a b) = { e with bays := e.bays.set n.val ⟨a, b⟩ } := by
  simp only [take, dif_pos h, missing]

/-- A reason NOT_FITTED stands (R47). -/
theorem take_bay_of_barred {h : n.val < 4} {r : Reason} (barred : e.bays[n.val].rail1 = .unmeasured r) (hr : r ≠ .missing)
    (a b : BayValue) : e.take n (.bay a b) = e := by
  simp only [take, dif_pos h, barred]

/-- A later report of a bay is counted as a re-crossing. -/
theorem take_bay_of_taken {h : n.val < 4} (h6 : n.val < 6) (taken : ∀ r, e.bays[n.val].rail1 ≠ .unmeasured r) (a b : BayValue) :
    e.take n (.bay a b) = { e with recross := e.recross.set n.val (min 15 (e.recross[n.val] + 1)) } := by
  cases value : e.bays[n.val].rail1 with
  | unmeasured r => exact absurd value (taken r)
  | forces k m q => simp only [take, dif_pos h, dif_pos h6, value]
  | failed => simp only [take, dif_pos h, dif_pos h6, value]

/-- The first report of a scanner is attached. -/
theorem take_bearing_of_missing {h : n.val - 4 < 2} (missing : e.bearings[n.val - 4] = .unmeasured .missing)
    (b : BearingValue) : e.take n (.bearing b) = { e with bearings := e.bearings.set (n.val - 4) b } := by
  simp only [take, dif_pos h, missing]

/-- A reason NOT_FITTED stands (R47). -/
theorem take_bearing_of_barred {h : n.val - 4 < 2} {r : Reason} (barred : e.bearings[n.val - 4] = .unmeasured r)
    (hr : r ≠ .missing) (b : BearingValue) : e.take n (.bearing b) = e := by
  simp only [take, dif_pos h, barred]

/-- A later report of a scanner is counted as a re-crossing. -/
theorem take_bearing_of_taken {h : n.val - 4 < 2} (h6 : n.val < 6) (taken : ∀ r, e.bearings[n.val - 4] ≠ .unmeasured r)
    (b : BearingValue) :
    e.take n (.bearing b) = { e with recross := e.recross.set n.val (min 15 (e.recross[n.val] + 1)) } := by
  cases value : e.bearings[n.val - 4] with
  | unmeasured r => exact absurd value (taken r)
  | temp x q => simp only [take, dif_pos h, dif_pos h6, value]
  | failed => simp only [take, dif_pos h, dif_pos h6, value]

end AxleEntry

namespace Machine

/-- Settles O36: the report is heard (`exec_bayScannerReport`) and taken as a READY (`Site.takeReady_shownUp`), its place is that of
`Site.forwardReport` or `Site.reverseReport` case by case, and its values those of `bayRail`, `scannerValue` and
`AxleEntry.take`. -/
theorem reportsPlaced : Obligations.ReportsPlaced := by
  refine ⟨fun s n f hn code hears => ?_, fun t n k => ⟨rfl, fun h => ?_, fun h hc => ?_, fun h hc => ?_⟩,
    fun payload i => ⟨fun ⟨hq, range⟩ => bayRail_of_forces hq range, bayRail_of_failed⟩,
    fun payload => ⟨scannerValue_of_good, scannerValue_of_noisy, scannerValue_of_failed⟩,
    fun e n v h6 => ⟨fun h4 a b hv => ?_, fun h2 b h4 hv => ?_⟩, fun n payload => ⟨fun h => ?_, fun h => ?_⟩⟩
  · have fitted := Site.Hears.hunted_fitted hears
    refine ⟨(s.site.hunted n).takeReady n [], Site.takeReady_shownUp (by omega) fitted [], ?_⟩
    generalize ht : (s.site.hunted n).takeReady n [] = t
    intro d w l fwd inRoster inCount gives
    have heard : exec (.bayScannerReport n f) s = .next (s.setSite (t.takeReport n f)) := by
      rw [← ht]; exact exec_bayScannerReport hn code hears
    have direction : w.isForward f.payload = true ↔ fwd := by
      rw [Site.isForward_iff, Site.missingCrossings_reversed]
    have placed : ∀ {r}, d ≤ 4096 → w.placeReport n f.payload = r → gives r := fun near hr =>
      heard.trans (congrArg (fun x => Host.Outcome.next (s.setSite x)) (Site.takeReport_of_near near hr))
    have forward : fwd → w.placeReport n f.payload = w.forwardReport n (reportValues n f.payload) := fun hf =>
      Site.placeReport_of_forward (direction.2 hf)
    have reverse : ¬fwd → w.placeReport n f.payload = w.reverseReport n := fun hf =>
      Site.placeReport_of_reverse (mt direction.1 hf)
    refine ⟨fun far => ?_, fun near hf h => ?_, fun near hf h hc => ?_, fun near hf h hc => ?_, fun near hf h => ?_,
      fun near hf h hc => ?_, fun near hf h hc => ?_⟩
    · rw [heard, Site.takeReport_of_far far]
    · exact placed near ((forward hf).trans (Site.forwardReport_of_roster h))
    · exact placed near ((forward hf).trans (Site.forwardReport_of_count h hc))
    · exact placed near ((forward hf).trans (Site.forwardReport_of_orphan h hc))
    · exact placed near ((reverse hf).trans (Site.reverseReport_of_beyond h))
    · exact placed near ((reverse hf).trans (Site.reverseReport_of_cursor h hc))
    · exact placed near ((reverse hf).trans (Site.reverseReport_of_start h hc))
  · exact congrArg (Site.missingCrossings n k) (Site.missingCrossing_of_roster h)
  · exact congrArg (Site.missingCrossings n k) (Site.missingCrossing_of_count h hc)
  · exact congrArg (Site.missingCrossings n k) (Site.missingCrossing_of_past h hc)
  · subst hv
    exact ⟨fun h => AxleEntry.take_bay_of_missing h a b, fun r h hr => AxleEntry.take_bay_of_barred h hr a b,
      fun h => AxleEntry.take_bay_of_taken h6 h a b⟩
  · subst hv
    exact ⟨fun h => AxleEntry.take_bearing_of_missing h b, fun r h hr => AxleEntry.take_bearing_of_barred h hr b,
      fun h => AxleEntry.take_bearing_of_taken h6 h b⟩
  · exact if_pos ((lineKind_eq_bay n).2 h)
  · exact if_neg (mt (lineKind_eq_bay n).1 (by omega))

end Machine

end Sys2Proof
end

section
/-! PROOF. A tag report, what a vehicle makes of it, and the sides. -/

namespace Sys2Proof

/-! ### Vehicles by position (R57, R64, R65) -/

namespace RosterUnit

variable {u : RosterUnit} {v : Vehicle} {p : Nat}

theorem vehicleAt_updateVehicle (h : u.vehicleAt p = some v) (f : Vehicle → Vehicle) :
    (u.updateVehicle p f).vehicleAt p = some (f v) := by
  have pos : p ≠ 0 := fun z => by rw [vehicleAt, if_pos z] at h; cases h
  rw [vehicleAt, if_neg pos] at h
  rw [vehicleAt, if_neg pos, updateVehicle_vehicles u p f pos, updateAt_getElem?, if_pos rfl, h]
  rfl

/-- The orientation fixed, with the axle indexes of the vehicle's run (R64, R65). -/
theorem fixOrientation_of_orientable (h : u.vehicleAt p = some v) (k : v.orientable = true) : u.fixOrientation p =
    (u.updateVehicle p (fun v => { v with orientation := v.orientationFromTag })).setIndexes p
      (axleIndexOf v.orientationFromTag v.axleCount) := by
  simp only [fixOrientation, h, k, if_true]

theorem fixOrientation_of_not_orientable (h : u.vehicleAt p = some v) (k : ¬v.orientable = true) : u.fixOrientation p = u := by
  simp only [fixOrientation, h, k, if_false, Bool.false_eq_true]

end RosterUnit

/-- The axle index counts from the leading end or from the other (R65). -/
theorem axleIndexOf_of_known {o : Orientation} (h : o ≠ .unknown) (count position : Nat) :
    axleIndexOf o count position = some (if o = .end1Leading then position else count + 1 - position) := by
  cases o with
  | end1Leading => rfl
  | end2Leading => rfl
  | unknown => exact absurd rfl h

/-! ### A vehicle that takes its first tag (R62 to R65) -/

namespace Vehicle

/-- The orientation that a tag read at a position gives (R64). -/
def tagWay (v : Vehicle) (d : TagRead) (position : Nat) : Orientation :=
  if d.taggedEnd = .one ↔ 2 * position ≤ v.axleCount then .end1Leading else .end2Leading

variable (v : Vehicle) (d : TagRead) (position : Nat) (snapshot : Vector (Option WatchLevel) 13)

theorem tagWay_known : v.tagWay d position ≠ .unknown := by
  unfold tagWay
  split <;> decide

theorem takeTag_orientable : (v.takeTag d position snapshot).orientable = true ↔ v.state = .closed ∧ v.axleCount ≤ 12 := by
  unfold orientable takeTag
  simp

theorem takeTag_orientationFromTag : (v.takeTag d position snapshot).orientationFromTag = v.tagWay d position := by
  unfold orientationFromTag taggedEndLeads tagWay takeTag
  dsimp only [Option.getD_some]
  by_cases leads : 2 * position ≤ v.axleCount <;> cases d.taggedEnd <;> simp [leads]

end Vehicle

namespace Site

variable {t : Site} {d : TagRead} {e : AxleEntry} {v : Vehicle}

/-- The snapshot holds the level of each key of the tag as it stands (R63). -/
theorem snapshotOf_getElem (t : Site) (code : TagCode) (i : Fin 13) :
    (t.snapshotOf code)[i] = t.levelOf { tag := code, index := i.val } := tableMapIdx_getElem _ _ i

/-! ### A tag on the vehicle of an axle (R62) -/

/-- The first tag of a vehicle, which fixes the orientation of one that is CLOSED (R62 to R64). -/
theorem assignTag_of_untagged (hv : t.roster.vehicleAt e.vehicle = some v) (h : v.tagState = .untagged) :
    (t.assignTag d e).roster = (t.roster.updateVehicle e.vehicle
      (fun v => v.takeTag d e.position (t.snapshotOf d.code))).fixOrientation e.vehicle := by
  simp only [assignTag, hv, h, setRoster_roster]

/-- The same tag again confirms it (R62). -/
theorem assignTag_of_same (hv : t.roster.vehicleAt e.vehicle = some v) (h : v.tagState = .single)
    (code : v.tagCode = some d.code) : t.assignTag d e =
      t.setRoster (t.roster.updateVehicle e.vehicle (fun v => { v with tagState := .confirmed })) := by
  simp only [assignTag, hv, h, if_pos code]

/-- Another tag is a conflict (R62). -/
theorem assignTag_of_other (hv : t.roster.vehicleAt e.vehicle = some v) (h : v.tagState = .single ∨ v.tagState = .confirmed)
    (code : v.tagCode ≠ some d.code) : t.assignTag d e = t.tagConflict e.vehicle := by
  rcases h with h | h
  · simp only [assignTag, hv, h, if_neg code]
  · simp only [assignTag, hv, h, if_neg code]

theorem assignTag_of_confirmed (hv : t.roster.vehicleAt e.vehicle = some v) (h : v.tagState = .confirmed)
    (code : v.tagCode = some d.code) : t.assignTag d e = t := by
  simp only [assignTag, hv, h, if_pos code]

theorem assignTag_of_conflict (hv : t.roster.vehicleAt e.vehicle = some v) (h : v.tagState = .conflict) :
    t.assignTag d e = t := by
  simp only [assignTag, hv, h]

/-- The first tag of a CLOSED vehicle of at most twelve axles fixes its orientation and axle indexes (R64, R65). -/
theorem assignTag_of_fixed (hv : t.roster.vehicleAt e.vehicle = some v) (h : v.tagState = .untagged)
    (fixes : v.state = .closed ∧ v.axleCount ≤ 12) :
    (t.assignTag d e).roster.vehicleAt e.vehicle =
        some { v.takeTag d e.position (t.snapshotOf d.code) with orientation := v.tagWay d e.position } ∧
      (t.assignTag d e).roster.entries = t.roster.entries.map (fun x =>
        if x.vehicle = e.vehicle then
          { x with
            axleIndex := some (if v.tagWay d e.position = .end1Leading then x.position else v.axleCount + 1 - x.position) }
        else x) := by
  have tagged := RosterUnit.vehicleAt_updateVehicle hv (fun v => v.takeTag d e.position (t.snapshotOf d.code))
  rw [assignTag_of_untagged hv h,
    RosterUnit.fixOrientation_of_orientable tagged ((v.takeTag_orientable d e.position _).2 fixes)]
  constructor
  · rw [← v.takeTag_orientationFromTag d e.position (t.snapshotOf d.code)]
    exact RosterUnit.vehicleAt_updateVehicle tagged _
  · simp only [RosterUnit.setIndexes, RosterUnit.updateVehicle_entries, Vehicle.takeTag_orientationFromTag,
      axleIndexOf_of_known (v.tagWay_known d e.position)]
    rfl

/-- The first tag of any other vehicle leaves its orientation and the entries (R64). -/
theorem assignTag_of_unfixed (hv : t.roster.vehicleAt e.vehicle = some v) (h : v.tagState = .untagged)
    (fixes : ¬(v.state = .closed ∧ v.axleCount ≤ 12)) :
    (t.assignTag d e).roster.vehicleAt e.vehicle = some (v.takeTag d e.position (t.snapshotOf d.code)) ∧
      (t.assignTag d e).roster.entries = t.roster.entries := by
  have tagged := RosterUnit.vehicleAt_updateVehicle hv (fun v => v.takeTag d e.position (t.snapshotOf d.code))
  rw [assignTag_of_untagged hv h,
    RosterUnit.fixOrientation_of_not_orientable tagged (mt (v.takeTag_orientable d e.position _).1 fixes)]
  exact ⟨tagged, RosterUnit.updateVehicle_entries _ _ _⟩

/-- A conflict takes the vehicle's tag and the axle indexes of its run away (R62). -/
theorem tagConflict_roster {p : Nat} (hv : t.roster.vehicleAt p = some v) :
    (t.tagConflict p).roster.vehicleAt p = some v.conflictTag ∧ (t.tagConflict p).roster.entries =
      t.roster.entries.map (fun x => if x.vehicle = p then { x with axleIndex := none } else x) := by
  refine ⟨RosterUnit.vehicleAt_updateVehicle hv Vehicle.conflictTag, ?_⟩
  show ((t.roster.updateVehicle p Vehicle.conflictTag).setIndexes p (fun _ => none)).entries = _
  rw [RosterUnit.setIndexes, RosterUnit.updateVehicle_entries]

/-! ### R61's order -/

theorem takeTag_of_failed (h : d.good = false) :
    t.takeTag d = t.setRoster { t.roster with failedReads := bump t.roster.failedReads } := if_pos h

variable (good : d.good = true)

include good

theorem takeTag_of_late (h : t.roster.standing ≠ .live) :
    t.takeTag d = t.setRoster { t.roster with lateTags := bump t.roster.lateTags } :=
  (if_neg (by rw [good]; decide)).trans (if_pos h)

variable (live : t.roster.standing = .live)

include live

theorem takeTag_of_early (h : t.gateNet < t.latchedSetting .readerLag + 1) :
    t.takeTag d = t.setRoster { t.roster with earlyTags := bump t.roster.earlyTags } :=
  (if_neg (by rw [good]; decide)).trans ((if_neg (not_not.mpr live)).trans (if_pos h))

variable (deep : t.latchedSetting .readerLag + 1 ≤ t.gateNet)

include deep

theorem takeTag_of_unplaced (h : t.roster.entries.length < t.gateNet - t.latchedSetting .readerLag) :
    t.takeTag d = t.setRoster { t.roster with unplacedTags := bump t.roster.unplacedTags } := by
  have past : t.roster.entryAt (t.gateNet - t.latchedSetting .readerLag) = none := by
    rw [RosterUnit.entryAt_of_pos (by omega)]
    exact List.getElem?_eq_none (by omega)
  simp only [takeTag, good, Bool.true_eq_false, if_false, live, ne_eq, not_true_eq_false, Nat.not_lt.mpr deep, past]

/-- A tag deep enough in the passage goes to the vehicle of the axle that lies the reader's lag behind the gate (R61). -/
theorem takeTag_of_placed (h : t.roster.entries[t.gateNet - t.latchedSetting .readerLag - 1]? = some e) :
    t.takeTag d = t.assignTag d e := by
  have there : t.roster.entryAt (t.gateNet - t.latchedSetting .readerLag) = some e := by
    rwa [RosterUnit.entryAt_of_pos (by omega)]
  simp only [takeTag, good, Bool.true_eq_false, if_false, live, ne_eq, not_true_eq_false, Nat.not_lt.mpr deep, there]

end Site

/-! ### A tag report's payload (R88) and the sides (R66) -/

theorem tagReadOf_good_iff (payload : List Byte) : (tagReadOf payload).good = true ↔
    (natAt payload 8 1 = 1 ∨ natAt payload 8 1 = 2) ∧ natAt payload 9 1 = 1 := by
  simp only [tagReadOf, Bool.and_eq_true, Bool.or_eq_true, beq_iff_eq]

/-- With no orientation there is no side. -/
theorem sideOver_unknown (d : Dir) (r : Rail) : sideOver d .unknown r = none := by
  have rail1 : sideOverRail1 d .unknown = none := by cases d <;> rfl
  cases r with
  | one => exact rail1
  | two => rw [sideOver, rail1]; rfl

namespace Machine

/-- Settles O37: the report is heard (`exec_tagReport`), taken as a READY (`Site.takeReady_shownUp`) and then in R61's order; what the
vehicle makes of it is decided by its tag state (`Site.assignTag_of_untagged` and its neighbours). -/
theorem tagReportsTaken : Obligations.TagReportsTaken := by
  refine ⟨fun s f code hears => ?_, fun t d e v hv => ?_, rfl, rfl, rfl, rfl, rfl, rfl, rfl, rfl, sideOver_unknown⟩
  · have fitted := Site.Hears.hunted_fitted hears
    refine ⟨(s.site.hunted 6).takeReady 6 [], Site.takeReady_shownUp (by decide) fitted [], ?_⟩
    generalize ht : (s.site.hunted 6).takeReady 6 [] = t
    intro u lag side good d gives
    have heard : ∀ {r}, t.takeTag (tagReadOf f.payload) = r → gives r := fun hr => by
      rw [← hr, ← ht]; exact exec_tagReport code hears
    have isGood : (tagReadOf f.payload).good = true ↔ good := tagReadOf_good_iff f.payload
    have read : good → tagReadOf f.payload = d := fun h => congrArg (TagRead.mk _ _) (isGood.2 h)
    refine ⟨fun h => ?_, fun h late => ?_, fun h live early => ?_, fun h live deep past => ?_, fun h live deep e he => ?_⟩
    · exact heard (Site.takeTag_of_failed (Bool.eq_false_iff.2 (mt isGood.1 h)))
    · exact heard (Site.takeTag_of_late (isGood.2 h) late)
    · exact heard (Site.takeTag_of_early (isGood.2 h) live early)
    · exact heard (Site.takeTag_of_unplaced (isGood.2 h) live deep past)
    · rw [← read h]
      exact heard (Site.takeTag_of_placed (isGood.2 h) live deep he)
  · intro r leads way index fixes
    refine ⟨fun h => ?_, fun h code => ?_, fun h code => ?_, Site.assignTag_of_confirmed hv, Site.assignTag_of_conflict hv⟩
    · by_cases k : fixes
      · obtain ⟨vehicle, entries⟩ := Site.assignTag_of_fixed (d := d) hv h k
        exact ⟨_, vehicle, rfl, rfl, rfl, rfl, t.snapshotOf_getElem d.code, fun _ => ⟨rfl, entries⟩, fun n => absurd k n⟩
      · obtain ⟨vehicle, entries⟩ := Site.assignTag_of_unfixed (d := d) hv h k
        exact ⟨_, vehicle, rfl, rfl, rfl, rfl, t.snapshotOf_getElem d.code, fun y => absurd y k, fun _ => ⟨rfl, entries⟩⟩
    · have same : r = _ := Site.assignTag_of_same hv h code
      rw [same]
      exact ⟨RosterUnit.vehicleAt_updateVehicle hv _, RosterUnit.updateVehicle_entries _ _ _, rfl⟩
    · have other : r = _ := Site.assignTag_of_other hv h code
      obtain ⟨vehicle, entries⟩ := Site.tagConflict_roster hv
      rw [other]
      exact ⟨vehicle, entries, rfl⟩

end Machine

end Sys2Proof
end

section
/-! PROOF. Frames and gaps of the module lines that are counted and discarded. -/

namespace Sys2Proof

/-! ### The checks of a frame (R70) -/

theorem crcOk_iff (f : ModuleFrame) : crcOk f = true ↔ f.crc = f.rightCrc := beq_iff_eq

/-- A bay or scanner report that passes the direction check calls its crossing FWD or REV (R70). -/
theorem directionOk_report {n : Fin 8} {f : ModuleFrame} (h : directionOk (lineKind n) f = true) (hn : n.val < 6)
    (code : f.code = 4#8) : natAt f.payload 0 1 = 1 ∨ natAt f.payload 0 1 = 2 := by
  have report : f.code = reportCode := code
  rcases (lineKind_of_lt n).2 hn with k | k
  · simpa [directionOk, k, report] using h
  · simpa [directionOk, k, report] using h

/-- A frame is well made exactly when it passes the CRC and form checks (R70). -/
theorem wellMade_iff {n : Fin 8} {f : ModuleFrame} : WellMade n f ↔ crcOk f = true ∧ formOk n f = true := by
  refine ⟨fun h => ⟨(crcOk_iff f).2 h.1, h.formOk⟩, fun ⟨crc, form⟩ => ?_⟩
  rw [formOk, Bool.and_eq_true, Bool.and_eq_true, beq_iff_eq, beq_iff_eq] at form
  obtain ⟨⟨kind, length⟩, direction⟩ := form
  exact ⟨(crcOk_iff f).1 crc, kind, length, directionOk_report direction⟩

/-! ### A line that counts what it discards -/

namespace ModuleLine

theorem inPassage_iff (l : ModuleLine) :
    l.inPassage = true ↔ l.arming = .arming ∨ l.arming = .ready ∨ l.arming = .missing := by
  simp only [inPassage, Bool.or_eq_true, beq_iff_eq, or_assoc]

/-- A bad CRC joins the passage tally of a module armed for a passage (R70). -/
theorem crcError_eq (l : ModuleLine) : l.crcError =
    { l with
      crcErrors := bump l.crcErrors
      crcTally := if l.arming = .arming ∨ l.arming = .ready ∨ l.arming = .missing then bump l.crcTally else l.crcTally } := by
  rw [crcError, if_congr l.inPassage_iff rfl rfl]

end ModuleLine

namespace Site

variable {t : Site} {n : Fin 8} {f : ModuleFrame}

theorem putLine_putLine (t : Site) (n : Fin 8) (k l : ModuleLine) : (t.putLine n k).putLine n l = t.putLine n l := by
  have lines : (t.modules.lines.set n k).set n l = t.modules.lines.set n l := Vector.set_set ..
  exact congrArg (fun v => t.setModules { t.modules with lines := v }) lines

theorem updateLine_updateLine (t : Site) (n : Fin 8) (f g : ModuleLine → ModuleLine) :
    (t.updateLine n f).updateLine n g = t.updateLine n (fun l => g (f l)) := by
  simp only [updateLine, putLine_putLine, putLine_line, if_true]

/-- A READY or REPORT that is not current is stale (R72). -/
theorem stale_of_not_current (code : f.code = 3#8 ∨ f.code = 4#8) (h : ¬t.Current n f) : (t.hunted n).stale n f = true := by
  have number : (t.hunted n).modules.passageNumber = t.modules.passageNumber := rfl
  simp only [stale, hunted_arming, number, Bool.or_eq_true, Bool.and_eq_true, beq_iff_eq, bne_iff_ne, ne_eq,
    lineKind_eq_tagReader]
  by_contra fresh
  obtain ⟨⟨same, fitted⟩, reader⟩ : (t.modules.passageNumber = some f.passage ∧ (t.line n).arming ≠ .notFitted) ∧
      ((t.line n).arming = .idle → f.code ≠ readyCode ∧ n = 6) := by
    rwa [not_or, not_or, not_not, not_and, not_or, not_not] at fresh
  refine h ⟨same, fitted, fun idle => ?_⟩
  obtain ⟨other, line⟩ := reader idle
  exact ⟨line, code.resolve_left other⟩

/-! ### A frame taken whole, check by check (R70) -/

theorem takeFrame_of_not_running (h : t.mode ≠ .running) (take : Site → Site) : t.takeFrame n f take = t := if_pos h

variable (running : t.mode = .running)

include running

theorem takeFrame_of_crc (crc : f.crc ≠ f.rightCrc) (take : Site → Site) :
    t.takeFrame n f take = t.updateLine n (fun l => l.crcError.receive .hunting) := by
  have bad : crcOk f = false := Bool.eq_false_iff.2 (mt (crcOk_iff f).1 crc)
  rw [takeFrame, if_neg (not_not.2 running), if_pos bad]
  exact updateLine_updateLine _ _ _ _

theorem takeFrame_of_malformed (crc : f.crc = f.rightCrc) (made : ¬WellMade n f) (take : Site → Site) :
    t.takeFrame n f take = t.updateLine n (fun l => l.malformedFrame.receive .hunting) := by
  have sound : crcOk f = true := (crcOk_iff f).2 crc
  have form : formOk n f = false := Bool.eq_false_iff.2 (fun k => made (wellMade_iff.2 ⟨sound, k⟩))
  rw [takeFrame, if_neg (not_not.2 running), if_neg (by rw [sound]; decide), if_pos form]
  exact updateLine_updateLine _ _ _ _

theorem takeFrame_of_stale (code : f.code = 3#8 ∨ f.code = 4#8) (made : WellMade n f) (current : ¬t.Current n f)
    (take : Site → Site) : t.takeFrame n f take = t.updateLine n (fun l => l.staleFrame.receive .hunting) := by
  obtain ⟨sound, form⟩ := wellMade_iff.1 made
  have late : (t.updateLine n (fun l => l.receive .hunting)).stale n f = true := stale_of_not_current code current
  simp only [takeFrame, running, sound, form, late, ne_eq, not_true_eq_false, Bool.true_eq_false, if_false, if_true]
  exact updateLine_updateLine _ _ _ _

end Site

/-! ### The byte after a gap (R69) -/

theorem moduleHunt_of_other {b : Byte} (h : b ≠ 0xC3#8) : moduleHunt b = .hunting := if_neg h

/-! ### A discard that names a fault (R69, R70) -/

theorem ModuleDiscard.wf_length {n : Fin 8} {b : Byte} (h : b.toNat < 6 ∨ 17 < b.toNat) :
    (ModuleDiscard.length b).wf n = true := by
  simpa only [wf, Bool.or_eq_true, decide_eq_true_eq] using h

theorem ModuleDiscard.wf_frame {n : Fin 8} {f : ModuleFrame} (short : f.payload.length ≤ 11) (h : ¬WellMade n f) :
    (ModuleDiscard.frame f).wf n = true := by
  rw [wellMade_iff, not_and_or] at h
  simpa only [wf, ModuleFrame.fits, short, decide_true, Bool.true_and, Bool.or_eq_true, Bool.not_eq_true',
    Bool.not_eq_true] using h

namespace Machine

variable {s : State} {n : Fin 8} {f : ModuleFrame}

/-- The commands that carry a frame taken whole differ in what they do with one that passes R70's checks. -/
theorem exec_wholeFrame {c : Instr} (short : f.payload.length ≤ 11)
    (carries : (c = .moduleReady n f ∧ f.code = 3#8) ∨ (c = .bayScannerReport n f ∧ n.val < 6 ∧ f.code = 4#8) ∨
      (c = .tagReport f ∧ n = 6 ∧ f.code = 4#8)) :
    ∃ take, exec c s = .next (s.setSite (s.site.takeFrame n f take)) := by
  have fits : f.fits = true := decide_eq_true short
  rcases carries with ⟨rfl, code⟩ | ⟨rfl, hn, code⟩ | ⟨rfl, rfl, code⟩
  · have wf : readyWf f = true := by rw [readyWf, fits, code]; rfl
    exact ⟨_, if_pos wf⟩
  · have wf : reportWf n f = true := by rw [reportWf, fits, code, decide_eq_true hn]; rfl
    exact ⟨_, if_pos wf⟩
  · have wf : tagWf f = true := by rw [tagWf, fits, code]; rfl
    exact ⟨_, if_pos wf⟩

theorem exec_moduleByteGap (n : Fin 8) (b : Byte) (s : State) :
    exec (.moduleByteGap n b) s = .next (s.setSite (s.site.whenRunning (·.moduleGap n b))) := rfl

theorem exec_moduleByteGap_of_running (running : s.Running) (b : Byte) :
    exec (.moduleByteGap n b) s = .next (s.setSite (s.site.moduleGap n b)) := by
  rw [exec_moduleByteGap, Site.whenRunning_of_running running]

theorem exec_moduleByteGap_of_not_running (idle : s.site.mode ≠ .running) (b : Byte) :
    exec (.moduleByteGap n b) s = .next s := by
  rw [exec_moduleByteGap, Site.whenRunning_of_not_running idle, State.setSite_self]

section Discards

variable {d : ModuleDiscard} (wf : d.wf n = true)

include wf

theorem exec_moduleFrameDiscard (s : State) :
    exec (.moduleFrameDiscard n d) s = .next (s.setSite (s.site.whenRunning (·.discardModuleFrame n d))) := if_pos wf

theorem exec_moduleFrameDiscard_of_running (running : s.Running) :
    exec (.moduleFrameDiscard n d) s = .next (s.setSite (s.site.discardModuleFrame n d)) := by
  rw [exec_moduleFrameDiscard wf, Site.whenRunning_of_running running]

theorem exec_moduleFrameDiscard_of_not_running (idle : s.site.mode ≠ .running) :
    exec (.moduleFrameDiscard n d) s = .next s := by
  rw [exec_moduleFrameDiscard wf, Site.whenRunning_of_not_running idle, State.setSite_self]

end Discards

/-- Settles O34: a whole frame meets R70's checks in their order (`exec_wholeFrame`, `Site.takeFrame_of_crc` and its neighbours); a
discard or a gap is an event of the running site alone, and its line counts as the same check does. -/
theorem moduleFramesChecked : Obligations.ModuleFramesChecked := by
  refine ⟨fun s n f c short carries => ?_, fun s n idle => ?_, fun s n running => ?_⟩
  · intro l armed sets
    obtain ⟨take, taken⟩ := exec_wholeFrame (s := s) short carries
    have code : f.code = 3#8 ∨ f.code = 4#8 := by
      rcases carries with ⟨-, code⟩ | ⟨-, -, code⟩ | ⟨-, -, code⟩
      · exact .inl code
      · exact .inr code
      · exact .inr code
    have gives : ∀ {r}, s.site.takeFrame n f take = r → exec c s = .next (s.setSite r) := fun hr => hr ▸ taken
    refine ⟨fun idle => ?_, fun running crc => ?_, fun running crc made => ?_, fun running made current => ?_⟩
    · exact gives (Site.takeFrame_of_not_running idle take)
    · show exec c s = _
      rw [gives (Site.takeFrame_of_crc running crc take), Site.updateLine, ModuleLine.crcError_eq]
      rfl
    · exact gives (Site.takeFrame_of_malformed running crc made take)
    · exact gives (Site.takeFrame_of_stale running code made current take)
  · refine ⟨exec_moduleByteGap_of_not_running idle, exec_moduleFrameDiscard_of_not_running rfl idle, fun b range => ?_,
      fun f short fault => ?_⟩
    · exact exec_moduleFrameDiscard_of_not_running (ModuleDiscard.wf_length range) idle
    · have bad : ¬WellMade n f := fault.elim (fun crc made => crc made.1) id
      exact exec_moduleFrameDiscard_of_not_running (ModuleDiscard.wf_frame short bad) idle
  · intro l armed broken
    have gap : ∀ b, exec (.moduleByteGap n b) s = .next (broken (moduleHunt b)) := exec_moduleByteGap_of_running running
    have length : ∀ b : Byte, b.toNat < 6 ∨ 17 < b.toNat →
        exec (.moduleFrameDiscard n (.length b)) s = .next (broken (moduleHunt b)) := fun b range =>
      exec_moduleFrameDiscard_of_running (ModuleDiscard.wf_length range) running
    refine ⟨gap _, fun b other => ?_, length _ (by decide), fun b range other => ?_,
      exec_moduleFrameDiscard_of_running rfl running, fun f short crc => ?_, fun f short crc made => ?_⟩
    · rw [gap, moduleHunt_of_other other]
    · rw [length b range, moduleHunt_of_other other]
    · have bad : ¬crcOk f = true := mt (crcOk_iff f).1 crc
      have wf := ModuleDiscard.wf_frame (n := n) short (fun made => crc made.1)
      rw [exec_moduleFrameDiscard_of_running wf running, Site.discardModuleFrame, Site.updateLine, if_neg bad,
        ModuleLine.crcError_eq]
      rfl
    · have sound : crcOk f = true := (crcOk_iff f).2 crc
      rw [exec_moduleFrameDiscard_of_running (ModuleDiscard.wf_frame short made) running, Site.discardModuleFrame,
        Site.updateLine, if_pos sound]
      rfl

end Machine

end Sys2Proof
end

section
/-! PROOF. The first five steps of a composition. -/

namespace Sys2Proof

namespace Site

variable {t : Site} {c : Composition}

/-! ### The steps on a composition in flight (R132) -/

theorem composeStep_eq_ite (hc : t.composition = some c) (k : CompStep) (f : Composition → Site) :
    t.composeStep k f = if c.step = k then f c else t := by
  simp only [composeStep, hc]

/-- A cause is added to the record in composition where its condition holds (R137, R139). -/
theorem addClosingCause_decide (t : Site) (p : Prop) [Decidable p] (x : Cause) :
    t.addClosingCause (decide p) x =
      if p then t.updateRecord .closing (fun r => { r with causes := setAdd r.causes x.bit }) else t := by
  simp only [addClosingCause, decide_eq_true_eq]

end Site

namespace Machine

variable {s : State} {c : Composition}

/-- A command that takes step `k` of a running composition takes it when it is the next one (R132), and has no effect otherwise
(log 1). -/
theorem next_composeStep (running : s.Running) (hc : s.site.composition = some c) (k : CompStep)
    (f : Site → Composition → Site) :
    onSite (fun t => t.whenRunning (fun t => t.composeStep k (f t))) s =
      .next (if c.step = k then s.setSite (f s.site c) else s) := by
  rw [onSite, Site.whenRunning_of_running running, Site.composeStep_eq_ite hc, apply_ite s.setSite, State.setSite_self]

/-- Settles O38: each command takes its own step alone (`next_composeStep`); the causes of steps 4 and 5 are added where findings
are left over, and where some are DEFERRED (`Site.addClosingCause_decide`). -/
theorem compositionSteps : Obligations.CompositionSteps := by
  intro s c running hc t put cause v written selected sent
  have select : exec .composeSelect s = .next (if c.step = .select then s.setSite (((t.putComposition selected).addClosingCause
      (decide (0 < c.made.length - 96)) .findingsOverflow)) else s) := next_composeStep running hc .select _
  have verdict : exec .composeVerdict s = .next (if c.step = .verdict then s.setSite ((written.addClosingCause
      (decide (0 < v.deferred)) .deferredPresent).putComposition sent) else s) := next_composeStep running hc .verdict _
  refine ⟨next_composeStep running hc .derive _, next_composeStep running hc .test _, next_composeStep running hc .watched _,
    select.trans ?_, verdict.trans ?_⟩
  · rw [Site.addClosingCause_decide]
    by_cases few : c.made.length ≤ 96
    · rw [if_neg (show ¬0 < c.made.length - 96 by omega), if_pos few]
      rfl
    · rw [if_pos (show 0 < c.made.length - 96 by omega), if_neg few]
      rfl
  · rw [Site.addClosingCause_decide]
    by_cases settled : v.deferred = 0
    · rw [if_neg (show ¬0 < v.deferred by omega), if_pos settled]
      rfl
    · rw [if_pos (show 0 < v.deferred by omega), if_neg settled]
      rfl

end Machine

end Sys2Proof
end

section
/-! PROOF. The verdict of a composition, and its contributions. -/

namespace Sys2Proof

/-! ### The highest of a list (R136, R138) -/

/-- A list folded by keeping the higher of two values ends with one that bounds the start and every element, and is the start or
an element's. -/
theorem foldl_higher {α β : Type} {rank : α → Nat} {pick : α → β → α} {f : β → α}
    (hpick : ∀ a x, (pick a x = a ∧ rank (f x) ≤ rank a) ∨ (pick a x = f x ∧ rank a ≤ rank (f x))) (l : List β) (m : α) :
    rank m ≤ rank (l.foldl pick m) ∧ (∀ x ∈ l, rank (f x) ≤ rank (l.foldl pick m)) ∧
      (l.foldl pick m = m ∨ ∃ x ∈ l, f x = l.foldl pick m) := by
  induction l generalizing m with
  | nil => exact ⟨le_rfl, fun x hx => absurd hx List.not_mem_nil, .inl rfl⟩
  | cons y l ih =>
    obtain ⟨start, bound, attained⟩ := ih (pick m y)
    rw [List.foldl_cons]
    have step : rank m ≤ rank (pick m y) ∧ rank (f y) ≤ rank (pick m y) := by
      rcases hpick m y with ⟨kept, le⟩ | ⟨taken, le⟩
      · rw [kept]; exact ⟨le_rfl, le⟩
      · rw [taken]; exact ⟨le, le_rfl⟩
    refine ⟨step.1.trans start, fun x hx => ?_, ?_⟩
    · rcases List.mem_cons.1 hx with rfl | hx
      · exact step.2.trans start
      · exact bound x hx
    · rcases attained with h | ⟨x, hx, h⟩
      · rcases hpick m y with ⟨kept, -⟩ | ⟨taken, -⟩
        · exact .inl (h.trans kept)
        · exact .inr ⟨y, List.mem_cons_self, (h.trans taken).symm⟩
      · exact .inr ⟨x, List.mem_cons_of_mem y hx, h⟩

/-! ### Grades of findings (R138, R141) -/

theorem Grade.max_cases (g h : Grade) : (g.max h = g ∧ h.code ≤ g.code) ∨ (g.max h = h ∧ g.code ≤ h.code) := by
  by_cases le : h.code ≤ g.code
  · exact .inl ⟨if_pos (decide_eq_true le), le⟩
  · exact .inr ⟨if_neg (mt of_decide_eq_true le), by omega⟩

/-- The worst grade bounds every effective grade, and is CLEAR or a finding's (R138). -/
theorem worstGrade_spec (fs : List Finding) :
    (∀ f ∈ fs, f.effective.code ≤ (worstGrade fs).code) ∧ (worstGrade fs = .clear ∨ ∃ f ∈ fs, f.effective = worstGrade fs) :=
  (foldl_higher (rank := Grade.code) (fun g (f : Finding) => g.max_cases f.effective) fs .clear).2

theorem Finding.effective_of_final {f : Finding} (h : f.state = .final) : f.effective = f.grade := by
  simp only [effective, h]

theorem mem_finals_iff {f : Finding} {fs : List Finding} :
    f ∈ fs.filter (fun f => f.state == .final) ↔ f ∈ fs ∧ f.state = .final := by
  rw [List.mem_filter, beq_iff_eq]

/-- The grade of an item bounds the grades of its FINAL findings, and is CLEAR or one of these (R141). -/
theorem itemGrade_spec (fs : List Finding) :
    (∀ f ∈ fs, f.state = .final → f.grade.code ≤ (itemGrade fs).code) ∧
      (itemGrade fs = .clear ∨ ∃ f ∈ fs, f.state = .final ∧ f.grade = itemGrade fs) := by
  obtain ⟨bound, attained⟩ := worstGrade_spec (fs.filter (fun f => f.state == .final))
  refine ⟨fun f hf final => ?_, attained.imp_right ?_⟩
  · rw [← Finding.effective_of_final final]
    exact bound f (mem_finals_iff.2 ⟨hf, final⟩)
  · rintro ⟨f, hf, grade⟩
    obtain ⟨hf, final⟩ := mem_finals_iff.1 hf
    exact ⟨f, hf, final, (Finding.effective_of_final final).symm.trans grade⟩

theorem itemDeferred_iff (fs : List Finding) : itemDeferred fs = true ↔ ∃ f ∈ fs, f.state = .deferred := by
  simp only [itemDeferred, List.any_eq_true, beq_iff_eq]

/-! ### The watched level of a vehicle (R136) -/

/-- The place of a watch level, no level lowest. -/
def levelRank : Option WatchLevel → Nat
  | none => 0
  | some l => l.code + 1

theorem WatchLevel.max_cases (a b : WatchLevel) : (a.max b = a ∧ b.code ≤ a.code) ∨ (a.max b = b ∧ a.code ≤ b.code) := by
  by_cases above : b.code < a.code
  · exact .inl ⟨if_pos (decide_eq_true above), by omega⟩
  · exact .inr ⟨if_neg (mt of_decide_eq_true above), by omega⟩

namespace Vehicle

variable {v : Vehicle} {l : WatchLevel}

/-- The highest level bounds the snapshot's, and is one of them when there is one. -/
theorem highest_spec (v : Vehicle) :
    (∀ x ∈ v.snapshot.toList, levelRank x ≤ levelRank v.highest) ∧ (v.highest = none ∨ v.highest ∈ v.snapshot.toList) := by
  obtain ⟨-, bound, attained⟩ : _ ∧ (∀ x ∈ v.snapshot.toList, levelRank (id x) ≤ levelRank v.highest) ∧
      (v.highest = none ∨ ∃ x ∈ v.snapshot.toList, id x = v.highest) := by
    refine foldl_higher (fun a b => ?_) v.snapshot.toList none
    cases a with
    | none => exact .inr ⟨rfl, Nat.zero_le _⟩
    | some a =>
      cases b with
      | none => exact .inl ⟨rfl, Nat.zero_le _⟩
      | some b =>
        exact (a.max_cases b).imp (fun ⟨kept, le⟩ => ⟨congrArg some kept, Nat.succ_le_succ le⟩)
          (fun ⟨taken, le⟩ => ⟨congrArg some taken, Nat.succ_le_succ le⟩)
  exact ⟨bound, attained.imp_right fun ⟨x, hx, e⟩ => e ▸ hx⟩

theorem mem_snapshot_of_highest (h : v.highest = some l) : some l ∈ v.snapshot.toList := by
  rcases v.highest_spec.2 with none | mem
  · rw [h] at none; cases none
  · exact h ▸ mem

theorem exists_highest_of_mem (h : some l ∈ v.snapshot.toList) : ∃ m, v.highest = some m ∧ l.code ≤ m.code := by
  have bound := v.highest_spec.1 _ h
  cases top : v.highest with
  | none => rw [top] at bound; exact absurd bound (Nat.not_succ_le_zero _)
  | some m => rw [top] at bound; exact ⟨m, rfl, Nat.le_of_succ_le_succ bound⟩

/-- WITHDRAW is the highest level of a snapshot that holds it. -/
theorem highest_of_withdraw (h : some .withdraw ∈ v.snapshot.toList) : v.highest = some .withdraw := by
  obtain ⟨m, top, le⟩ := exists_highest_of_mem h
  cases m with
  | withdraw => exact top
  | observe | restrict => exact absurd le (by decide)

/-- RESTRICT is the highest level of a snapshot that holds it without WITHDRAW. -/
theorem highest_of_restrict (h : some .restrict ∈ v.snapshot.toList) (below : some .withdraw ∉ v.snapshot.toList) :
    v.highest = some .restrict := by
  obtain ⟨m, top, le⟩ := exists_highest_of_mem h
  cases m with
  | restrict => exact top
  | withdraw => exact absurd (mem_snapshot_of_highest top) below
  | observe => exact absurd le (by decide)

/-! ### The watched-vehicle finding (R136) -/

/-- The watched-vehicle finding of a grade (R136). -/
def watchedAs (v : Vehicle) (g : Grade) : Finding :=
  { number := 0, kind := .watchedVehicle, vehicle := some v.position, ordinal := none, rail := none, side := none
    index := none, measure := none, threshold := .watched, grade := g, state := .final, resolvedGrade := none }

/-- A watched vehicle gives ALARM at WITHDRAW, NOTE at RESTRICT, and no finding otherwise (R136). -/
theorem watchedFinding_eq (v : Vehicle) : watchedFinding v =
    if some .withdraw ∈ v.snapshot.toList then some (v.watchedAs .alarm)
    else if some .restrict ∈ v.snapshot.toList then some (v.watchedAs .note)
    else none := by
  by_cases withdraw : some .withdraw ∈ v.snapshot.toList
  · rw [if_pos withdraw]
    simp only [watchedFinding, highest_of_withdraw withdraw]
    rfl
  · rw [if_neg withdraw]
    by_cases restrict : some .restrict ∈ v.snapshot.toList
    · rw [if_pos restrict]
      simp only [watchedFinding, highest_of_restrict restrict withdraw]
      rfl
    · rw [if_neg restrict]
      cases top : v.highest with
      | none => simp only [watchedFinding, top]
      | some l =>
        cases l with
        | observe => simp only [watchedFinding, top]
        | restrict => exact absurd (mem_snapshot_of_highest top) restrict
        | withdraw => exact absurd (mem_snapshot_of_highest top) withdraw

end Vehicle

/-! ### What the record takes (R139) -/

theorem EntryState.not_present_eq (x : EntryState) : (!(x == .present)) = (x == .retracted) := by cases x <;> rfl

/-- A copied vehicle is that of the list at its place, with its quantities (R109, R139). -/
theorem makeVerdict_vehicle {u : RosterUnit} {q : Derived} {kept : List Finding} {overflow k : Nat} {c : Vehicle}
    {x : VehicleQuantities} (hc : u.vehicles[k]? = some c) (hx : q.vehicles[k]? = some x) :
    (makeVerdict u q kept overflow).vehicles[k]? = some (copyVehicle kept (c, x)) := by
  have pair : (u.vehicles.zip q.vehicles)[k]? = some (c, x) := List.getElem?_zip_eq_some.2 ⟨hc, hx⟩
  simp only [makeVerdict, List.getElem?_map, pair, Option.map_some]

/-! ### The sides of an axle (R66, R103, R122) -/

section Sides

variable {d : Dir} {o : Orientation}

/-- The two rails lie under different sides (R66). -/
theorem sideOver_two (d : Dir) (o : Orientation) : sideOver d o .two = (sideOver d o .one).map Side.flip := rfl

theorem AxleQuantities.under_of_rail1 (a : AxleQuantities) {side : Side} (h : sideOver d o .one = some side) :
    a.under d o side = some a.wheel1 := if_pos h

theorem AxleQuantities.under_of_rail2 (a : AxleQuantities) {side : Side} (h : sideOver d o .one = some side.flip) :
    a.under d o side = some a.wheel2 := by
  have one : sideOver d o .one ≠ some side := by rw [h]; cases side <;> decide
  have two : sideOver d o .two = some side := by rw [sideOver_two, h]; cases side <;> rfl
  rw [under, if_neg one, if_pos two]

theorem AxleQuantities.under_unknown (a : AxleQuantities) (side : Side) : a.under d .unknown side = none := by
  simp only [under, sideOver_unknown, reduceCtorEq, if_false]

theorem sideValues_unknown (d : Dir) (a : AxleQuantities) : sideValues d .unknown a = .empty := by
  simp only [sideValues, AxleQuantities.under_unknown, Option.bind_none]
  rfl

/-- The view shows the rises and excesses of the wheels under S1 and S2 (R103, R122). -/
theorem sideValues_of_under {a : AxleQuantities} {w1 w2 : WheelQuantities} (h1 : a.under d o .s1 = some w1)
    (h2 : a.under d o .s2 = some w2) : sideValues d o a =
      { rise1 := w1.rise.number, rise2 := w2.rise.number, excess1 := w1.excess.number, excess2 := w2.excess.number } := by
  simp only [sideValues, h1, h2, Option.bind_some]

end Sides

/-! ### The contributions (R140 to R142) -/

/-- The contributions of a composition are made with the direction, serial and closed date of its record (R140). -/
theorem Site.contributionsNow_of_closed {t : Site} {r : TrainRecord} {f : CloseFigures} (hr : t.recordIn .closing = some r)
    (hf : r.close = some f) (c : Composition) : t.contributionsNow c =
      contributionsOf { direction := r.direction, roster := t.roster, derived := c.derived } c.made r.serial
        { year := f.closed.year, month := f.closed.month, day := f.closed.day } := by
  have record : t.closingRecord = some r := hr
  simp only [contributionsNow, judgeInputs, closingDirection, record, TrainRecord.closedDate, hf]

/-- Settles O41, by the highest level of a snapshot (`Vehicle.watchedFinding_eq`), the verdict's fields as copied
(`makeVerdict_vehicle`), the grade of an item (`itemGrade_spec`), the wheel under each side (`sideValues_of_under`), and the
contributions vehicle by vehicle. -/
theorem verdictAndContributions : Obligations.VerdictAndContributions := by
  refine ⟨fun u => ?_, fun u q kept overflow => ?_, fun fs => ?_, fun d o a => ⟨fun unknown => ?_, fun w1 w2 rails => ?_⟩,
    fun j made n date => ?_, fun t c r f hr hf => Site.contributionsNow_of_closed hr hf c⟩
  · exact List.filterMap_congr fun v _ => v.watchedFinding_eq
  · refine ⟨rfl, rfl, rfl, rfl, rfl, rfl, rfl, rfl, ?_, rfl, fun k c x hc hx => ?_⟩
    · exact congrArg (u.entries.countP ·) (funext fun e => EntryState.not_present_eq e.state)
    · exact ⟨_, makeVerdict_vehicle hc hx, rfl, rfl, rfl, rfl, rfl, rfl, rfl, rfl, fun l => Vehicle.mem_snapshot_of_highest,
        fun l => Vehicle.exists_highest_of_mem⟩
  · obtain ⟨bound, attained⟩ := itemGrade_spec fs
    exact ⟨bound, attained, itemDeferred_iff fs⟩
  · rw [unknown]; exact sideValues_unknown d a
  · rcases rails with ⟨s1, rfl, rfl⟩ | ⟨s2, rfl, rfl⟩
    · exact sideValues_of_under (a.under_of_rail1 s1) (a.under_of_rail2 s1)
    · exact sideValues_of_under (a.under_of_rail2 s2) (a.under_of_rail1 s2)
  · refine congrArg (List.flatMap · _) (funext fun v => ?_)
    cases tag : v.tagCode with
    | none => simp only [vehicleContributions, tag]
    | some code => simp only [vehicleContributions, tag]; rfl

end Sys2Proof
end

section
/-! PROOF. The quantities of a wheel and of an axle. -/

namespace Sys2Proof

/-! ### Numbers: nearest whole, difference without sign, greatest (R93) -/

/-- A quotient is rounded to the whole number it lies within half a unit of, a half towards the higher value (R93, R112). -/
theorem roundDiv_eq {a b x : Int} (hb : 0 < b) (low : (2 * x - 1) * b ≤ 2 * a) (high : 2 * a < (2 * x + 1) * b) :
    roundDiv a b = x := by
  rw [roundDiv, Int.ediv_eq_iff_of_pos (by omega)]
  constructor <;> linarith

theorem natAbs_sub_eq (a b : Int) : ((a - b).natAbs : Int) = if a ≤ b then b - a else a - b := by
  split <;> omega

theorem perMille_zero (part : Int) : perMille part 0 = 0 := if_pos rfl

theorem perMille_eq {part whole x : Int} (hw : 0 < whole) (low : (2 * x - 1) * whole ≤ 2 * (1000 * part))
    (high : 2 * (1000 * part) < (2 * x + 1) * whole) : perMille part whole = x := by
  rw [perMille, if_neg hw.ne', roundDiv_eq hw low high]

theorem greatest_eq_max? (xs : List Nat) : greatest xs = xs.max? := by
  cases xs with
  | nil => rfl
  | cons x xs => exact List.max?_cons'.symm

theorem greatest_eq_some_iff {xs : List Nat} {x : Nat} : greatest xs = some x ↔ x ∈ xs ∧ ∀ y ∈ xs, y ≤ x := by
  rw [greatest_eq_max?, List.max?_eq_some_iff]

/-! ### Presence and the speed bands (R52, R94, R96, R114) -/

theorem inBand_some_iff {v low high : Nat} : inBand (some v) low high = true ↔ low ≤ v ∧ v ≤ high := by
  rw [inBand, Option.any_some, Bool.and_eq_true, decide_eq_true_eq, decide_eq_true_eq]

/-- An absent speed is outside both bands, and a speed is inside from the least to the greatest (R96, R114). -/
theorem bands_spec (b : SettingsBlock) (e : AxleEntry) :
    (e.speed = none → inLoadBand b e = false ∧ inHeatBand b e = false) ∧
      ∀ v, e.speed = some v → (inLoadBand b e = true ↔ b.nat .loadSpeedMin ≤ v ∧ v ≤ b.nat .loadSpeedMax) ∧
        (inHeatBand b e = true ↔ b.nat .heatSpeedMin ≤ v ∧ v ≤ b.nat .heatSpeedMax) := by
  unfold inLoadBand inHeatBand
  refine ⟨fun absent => ?_, fun v speed => ?_⟩
  · rw [absent]; exact ⟨rfl, rfl⟩
  · rw [speed]; exact ⟨inBand_some_iff, inBand_some_iff⟩

section Entry

variable {e : AxleEntry} {b : SettingsBlock} {r : Rail}

theorem AxleEntry.isPresent_iff : e.isPresent = true ↔ e.state = .present := by rw [isPresent, beq_iff_eq]

theorem AxleEntry.isPresent_of_present (h : e.state = .present) : e.isPresent = true := AxleEntry.isPresent_iff.2 h

theorem AxleEntry.isPresent_of_retracted (h : e.state = .retracted) : e.isPresent = false := by rw [isPresent, h]; rfl

/-! ### The bay values of a wheel (R95) -/

/-- The bay values of a rail are those of the four bays in order, each with its module's SUSPECT mark (R95). -/
theorem AxleEntry.railValues_eq (e : AxleEntry) (suspect : BitVec 8) (r : Rail) :
    e.railValues suspect r = (List.finRange 4).map (fun k => (e.bays[k].on r, suspect.getLsbD k.val)) := by
  refine List.ext_getElem (by simp [railValues, mapFrom_length]) fun k hk _ => ?_
  have bays : k < e.bays.toList.length := by rwa [railValues, mapFrom_length] at hk
  simp only [railValues, mapFrom_getElem _ _ _ _ bays, List.getElem_map, List.getElem_finRange, Nat.zero_add]
  rfl

/-! ### The load and impact of a wheel (R94, R96 to R98) -/

theorem wheelLoads_of_retracted (h : e.state = .retracted) (suspect : BitVec 8) :
    wheelLoads b suspect e r = .unmeasured .retracted := if_pos (AxleEntry.isPresent_of_retracted h)

theorem wheelLoads_of_outOfBand (present : e.state = .present) (out : inLoadBand b e = false) (suspect : BitVec 8) :
    wheelLoads b suspect e r = .unmeasured .outOfBand := by
  simp only [wheelLoads, AxleEntry.isPresent_of_present present, out, Bool.true_eq_false, if_true, if_false]

/-- Inside the band the bay values of the rail give load and impact, and these the excess and the ratio. -/
theorem wheelLoads_of_inBand (present : e.state = .present) (inside : inLoadBand b e = true) (suspect : BitVec 8) :
    let w := wheelLoads b suspect e r
    w.load = wheelLoad ((e.railValues suspect r).filterMap (fun p => p.1.goodMean p.2)) (b.nat .minGoodBays) ∧
      w.impact = wheelImpact ((e.railValues suspect r).map Prod.fst) ∧ w.excess = impactExcess w.impact w.load ∧
      w.ratio = impactRatio w.impact w.load := by
  simp only [wheelLoads, AxleEntry.isPresent_of_present present, inside, Bool.true_eq_false, if_false, and_self]

/-- Too few bays that serve leave no wheel load (R97). -/
theorem wheelLoad_of_few {means : List Nat} {k : Nat} (few : means.length < k) : wheelLoad means k = .unmeasured .tooFew :=
  if_neg (Nat.not_le.2 few)

/-- The wheel load is the mean of the values that serve, rounded (R97). -/
theorem wheelLoad_of_enough {means : List Nat} {k : Nat} {x : Int} (hk : 0 < k) (enough : k ≤ means.length)
    (low : (2 * x - 1) * means.length ≤ 2 * ((means.sum : Nat) : Int))
    (high : 2 * ((means.sum : Nat) : Int) < (2 * x + 1) * means.length) : wheelLoad means k = .value x := by
  rw [wheelLoad, if_pos enough, ← List.sum_eq_foldl, roundDiv_eq (by omega) low high]

section Impact

variable {values : List BayValue}

/-- The wheel impact is the greatest peak that serves (R98). -/
theorem wheelImpact_of_greatest {x : Nat} (mem : x ∈ values.filterMap BayValue.usablePeak)
    (bound : ∀ y ∈ values.filterMap BayValue.usablePeak, y ≤ x) : wheelImpact values = .value x := by
  rw [wheelImpact, greatest_eq_some_iff.2 ⟨mem, bound⟩]

theorem wheelImpact_of_no_peak (h : values.filterMap BayValue.usablePeak = []) : wheelImpact values =
    if values.all (fun v => v == .unmeasured .notFitted) then .unmeasured .notFitted else .unmeasured .missing := by
  rw [wheelImpact, h]
  rfl

theorem all_notFitted_iff :
    values.all (fun v => v == .unmeasured .notFitted) = true ↔ ∀ v ∈ values, v = .unmeasured .notFitted := by
  simp only [List.all_eq_true, beq_iff_eq]

end Impact

/-! ### The temperature of a bearing (R114 to R116) -/

theorem inHeat_of_retracted (h : e.state = .retracted) (formed : Measure) : inHeat b e formed = .unmeasured .retracted :=
  if_pos (AxleEntry.isPresent_of_retracted h)

theorem inHeat_of_outOfBand (present : e.state = .present) (out : inHeatBand b e = false) (formed : Measure) :
    inHeat b e formed = .unmeasured .outOfBand := by
  simp only [inHeat, AxleEntry.isPresent_of_present present, out, Bool.true_eq_false, if_true, if_false]

theorem inHeat_of_inBand (present : e.state = .present) (inside : inHeatBand b e = true) (formed : Measure) :
    inHeat b e formed = formed := by
  simp only [inHeat, AxleEntry.isPresent_of_present present, inside, Bool.true_eq_false, if_false]

/-- GOOD and NOISY temperatures serve alike, and the others serve as a missing value does (R116). -/
theorem bearingTempOf_temp (x : Int) (q : Quality) :
    (q = .good ∨ q = .noisy → bearingTempOf (.temp x q) = .value x) ∧
      (q = .clipped ∨ q = .failed → bearingTempOf (.temp x q) = .unmeasured .missing) := by
  cases q with
  | good | noisy => exact ⟨fun _ => rfl, fun h => absurd h (by decide)⟩
  | clipped | failed => exact ⟨fun h => absurd h (by decide), fun _ => rfl⟩

theorem bearingTempOf_unmeasured {q : Reason} (h : q ≠ .notFitted) : bearingTempOf (.unmeasured q) = .unmeasured .missing := by
  cases q with
  | notFitted => exact absurd rfl h
  | missing | outOfBand | tooFew | noAmbient | partialItem | retracted => rfl

/-! ### The rise, the train excess and the cross difference (R118, R119, R121) -/

theorem bearingRise_of_no_ambient (present : e.state = .present) (inside : inHeatBand b e = true) :
    bearingRise b none e r = .unmeasured .noAmbient := inHeat_of_inBand present inside _

theorem bearingRise_of_ambient (present : e.state = .present) (inside : inHeatBand b e = true) (a : Int) :
    bearingRise b (some a) e r = (bearingTemp b e r).map (fun t => t - a) := inHeat_of_inBand present inside _

theorem wheelTrainExcess_of_unmeasured {q : Reason} (h : bearingTemp b e r = .unmeasured q) (mean : Option Int) :
    wheelTrainExcess b mean e r = .unmeasured q := by
  simp only [wheelTrainExcess, h]

/-- With no train mean a measured temperature has no train excess (R121). -/
theorem wheelTrainExcess_of_no_mean {x : Int} (h : bearingTemp b e r = .value x) :
    wheelTrainExcess b none e r = .unmeasured .tooFew := by simp only [wheelTrainExcess, h]

theorem wheelTrainExcess_of_mean {x : Int} (h : bearingTemp b e r = .value x) (m : Int) :
    wheelTrainExcess b (some m) e r = .value (x - m) := by simp only [wheelTrainExcess, h]

/-- The cross difference carries the reason of rail 1 where its bearing is unmeasured (R119). -/
theorem bearingCross_of_rail1 {q : Reason} (h : bearingTemp b e .one = .unmeasured q) : bearingCross b e = .unmeasured q := by
  rw [bearingCross, h]
  rfl

end Entry

/-! ### A wheel of an axle (chapters 5 and 6) -/

section Wheel

variable {i : DeriveInputs} {e : AxleEntry} {r : Rail}

/-- The four quantities of chapter 5 of a wheel share the reason of its entry. -/
theorem deriveWheel_loads_of_unmeasured {q : Reason} (h : wheelLoads i.latched i.suspect e r = .unmeasured q) :
    let w := deriveWheel i e r
    ∀ m ∈ [w.load, w.impact, w.excess, w.ratio], m = .unmeasured q := by
  simp only [deriveWheel, h, WheelLoads.unmeasured, List.forall_mem_cons, List.not_mem_nil, false_implies, implies_true,
    and_self]

/-- The three quantities of chapter 6 of a wheel share the reason of its entry. -/
theorem deriveWheel_heats_of_unmeasured {q : Reason} (h : ∀ formed, inHeat i.latched e formed = .unmeasured q) :
    let w := deriveWheel i e r
    ∀ m ∈ [w.temp, w.rise, w.trainExcess], m = .unmeasured q := by
  have temp : bearingTemp i.latched e r = .unmeasured q := h _
  have rise : bearingRise i.latched i.ambient e r = .unmeasured q := h _
  simp only [deriveWheel, temp, rise, wheelTrainExcess_of_unmeasured temp, List.forall_mem_cons, List.not_mem_nil,
    false_implies, implies_true, and_self]

/-- The rise is the temperature less the ambient, measured or not as the temperature is (R118). -/
theorem deriveWheel_rise {a : Int} (present : e.state = .present) (inside : inHeatBand i.latched e = true)
    (ambient : i.ambient = some a) : (deriveWheel i e r).rise = (deriveWheel i e r).temp.map (fun t => t - a) := by
  show bearingRise i.latched i.ambient e r = _
  rw [ambient]
  exact bearingRise_of_ambient present inside a

theorem deriveWheel_temp (present : e.state = .present) (inside : inHeatBand i.latched e = true) :
    (deriveWheel i e r).temp = bearingTempOf (e.bearing r) := inHeat_of_inBand present inside _

end Wheel

/-- Settles O43: the bands (`bands_spec`), a wheel by its entry's state and band (`deriveWheel_loads_of_unmeasured`,
`wheelLoads_of_inBand`, `deriveWheel_temp` and the lemmas beside them), and the quantities of an axle from those of its wheels. -/
theorem wheelAndAxleQuantities : Obligations.WheelAndAxleQuantities := by
  refine ⟨bands_spec, fun i e r => ?_, fun i e => ⟨rfl, rfl, rfl, rfl, rfl, rfl⟩, fun m n a b q r => ?_,
    fun means k hk => ⟨wheelLoad_of_few, fun enough x => wheelLoad_of_enough hk enough⟩, fun a b => ?_,
    fun q r a => ⟨rfl, rfl, rfl, rfl, rfl, rfl, rfl, rfl, rfl⟩, fun b e x y q => ?_⟩
  · intro w loads heats
    refine ⟨fun retracted => List.forall_mem_append.2 ⟨?_, ?_⟩, fun present out => ?_, fun present out => ?_,
      fun present inside ambient => ?_, fun present inside a x ambient temp => ?_, fun present inside => ?_,
      fun present inside => ?_⟩
    · exact deriveWheel_loads_of_unmeasured (wheelLoads_of_retracted retracted i.suspect)
    · exact deriveWheel_heats_of_unmeasured (inHeat_of_retracted retracted)
    · exact deriveWheel_loads_of_unmeasured (wheelLoads_of_outOfBand present out i.suspect)
    · exact deriveWheel_heats_of_unmeasured (inHeat_of_outOfBand present out)
    · show bearingRise i.latched i.ambient e r = _
      rw [ambient]
      exact bearingRise_of_no_ambient present inside
    · rw [deriveWheel_rise present inside ambient, temp]
      rfl
    · intro values means peaks
      have onRail : e.railValues i.suspect r = values := by
        rw [e.railValues_eq]
        cases r <;> rfl
      have serving : values.filterMap (fun p => p.1.goodMean p.2) = means := by
        refine List.filterMap_congr fun ⟨v, suspect⟩ _ => ?_
        rcases v with ⟨k, m, q⟩ | _ | _
        · cases q <;> cases suspect <;> rfl
        · rfl
        · rfl
      have usable : (values.map Prod.fst).filterMap BayValue.usablePeak = peaks := by
        rw [List.filterMap_map]
        refine List.filterMap_congr fun ⟨v, suspect⟩ _ => ?_
        rcases v with ⟨k, m, q⟩ | _ | _
        · cases q <;> rfl
        · rfl
        · rfl
      obtain ⟨load, impact, excess, ratio⟩ := wheelLoads_of_inBand (r := r) present inside i.suspect
      rw [onRail, serving] at load
      rw [onRail] at impact
      replace impact : w.impact = wheelImpact (values.map Prod.fst) := impact
      refine ⟨load, fun x mem bound => ?_, fun empty fitted => ?_, fun empty fitted => ?_, excess, ratio⟩
      · rw [impact]
        exact wheelImpact_of_greatest (usable ▸ mem) (usable ▸ bound)
      · rw [impact, wheelImpact_of_no_peak (usable.trans empty), if_pos]
        exact all_notFitted_iff.2 (List.forall_mem_map.2 fitted)
      · rw [impact, wheelImpact_of_no_peak (usable.trans empty), if_neg]
        exact fun all => fitted (List.forall_mem_map.1 (all_notFitted_iff.1 all))
    · intro b mean
      have temp : w.temp = bearingTempOf b := by
        rw [deriveWheel_temp present inside]
        cases r <;> rfl
      have excess : w.trainExcess = wheelTrainExcess i.latched mean e r := by cases r <;> rfl
      refine ⟨fun x q value => ?_, fun x q value => ?_, fun failed => ?_,
        fun unfitted => ?_, fun q value missing => ?_, fun q unmeasured => wheelTrainExcess_of_unmeasured unmeasured _,
        fun x measured noMean => ?_, fun x m measured formed => ?_, fun q ambient unmeasured => ?_⟩
      · rw [temp, value]; exact (bearingTempOf_temp x q).1
      · rw [temp, value]; exact (bearingTempOf_temp x q).2
      · rw [temp, failed]; rfl
      · rw [temp, unfitted]; rfl
      · rw [temp, value]; exact bearingTempOf_unmeasured missing
      · rw [excess, noMean]; exact wheelTrainExcess_of_no_mean measured
      · rw [excess, formed]; exact wheelTrainExcess_of_mean measured m
      · obtain ⟨a, ambient⟩ := Option.isSome_iff_exists.1 ambient
        rw [deriveWheel_rise present inside ambient, unmeasured]
        rfl
  · have split : axleSideSplit (.value a) (.value b) = .value (perMille (a - b).natAbs (a + b)) := rfl
    refine ⟨fun zero => ?_, fun x d pos diff low high => ?_, fun unmeasured => ?_, ?_, rfl, rfl, rfl⟩
    · rw [split, zero, perMille_zero]
    · rw [← natAbs_sub_eq] at diff
      rw [split, ← diff, perMille_eq pos (by linarith) (by linarith)]
    · rw [axleSideSplit, unmeasured]
      rfl
    · rw [← max_def]
      rfl
  · refine ⟨rfl, rfl, fun x pos low high => ?_, rfl⟩
    have ratio : impactRatio (.value a) (.value b) =
        .value (if b = 0 then (if 0 < a then 10000 else 0) else min 10000 (roundDiv (1000 * a) b)) := rfl
    rw [ratio, if_neg pos.ne', roundDiv_eq (x := x) pos (by linarith) (by linarith)]
  · refine ⟨fun one two => ?_, bearingCross_of_rail1, fun one two => ?_, fun retracted => ?_, fun present out => ?_⟩
    · rw [bearingCross, one, two, ← natAbs_sub_eq]
      rfl
    · rw [bearingCross, one, two]
      rfl
    · exact bearingCross_of_rail1 (inHeat_of_retracted retracted _)
    · exact bearingCross_of_rail1 (inHeat_of_outOfBand present out _)

end Sys2Proof
end

section
/-! PROOF. The quantities of the vehicles and the train. -/

namespace Sys2Proof

/-! ### Measured numbers and their sums (R104, R107) -/

theorem intSum_eq_sum (xs : List Int) : intSum xs = xs.sum := List.sum_eq_foldl.symm

theorem numbersOf_map_value (xs : List Int) : numbersOf (xs.map .value) = xs := by
  rw [numbersOf, List.filterMap_map]
  exact List.filterMap_some

theorem sumMeasured_map_value (xs : List Int) : sumMeasured (xs.map .value) = some xs.sum := by
  induction xs with
  | nil => rfl
  | cons x xs ih => simp only [List.map_cons, sumMeasured, ih, Option.map_some, List.sum_cons]

/-- One unmeasured quantity leaves no sum. -/
theorem sumMeasured_of_unmeasured {loads : List Measure} {q : Reason} (h : .unmeasured q ∈ loads) : sumMeasured loads = none := by
  induction loads with
  | nil => exact absurd h List.not_mem_nil
  | cons m loads ih =>
    cases m with
    | unmeasured r => rfl
    | value x =>
      have later : .unmeasured q ∈ loads := by simpa only [List.mem_cons, reduceCtorEq, false_or] using h
      rw [sumMeasured, ih later, Option.map_none]

theorem firstReason_map_value (xs : List Int) : firstReason (xs.map .value) = none := by
  induction xs with
  | nil => rfl
  | cons x xs ih => exact ih

/-- Measured quantities are passed over to the first unmeasured one. -/
theorem firstReason_append_unmeasured (xs : List Int) (q : Reason) (rest : List Measure) :
    firstReason (xs.map .value ++ .unmeasured q :: rest) = some q := by
  induction xs with
  | nil => rfl
  | cons x xs ih => exact ih

/-! ### The vehicle load and its splits (R104 to R106) -/

section Vehicles

variable {run : List AxleEntry} {loads : List Measure}

theorem vehicleLoad_of_partial (h : ∃ e ∈ run, ¬e.state = .present) : vehicleLoad run loads = .unmeasured .partialItem := by
  obtain ⟨e, mem, absent⟩ := h
  exact if_pos (List.all_eq_false.2 ⟨e, mem, mt AxleEntry.isPresent_iff.1 absent⟩)

theorem all_isPresent (h : ∀ e ∈ run, e.state = .present) : run.all AxleEntry.isPresent = true :=
  List.all_eq_true.2 fun e mem => AxleEntry.isPresent_iff.2 (h e mem)

theorem vehicleLoad_of_unmeasured (whole : ∀ e ∈ run, e.state = .present) (h : ∃ q, .unmeasured q ∈ loads) :
    vehicleLoad run loads = .unmeasured .tooFew := by
  obtain ⟨q, mem⟩ := h
  simp only [vehicleLoad, all_isPresent whole, sumMeasured_of_unmeasured mem, Bool.true_eq_false, if_false]

theorem vehicleLoad_of_measured (whole : ∀ e ∈ run, e.state = .present) (xs : List Int) :
    vehicleLoad run (xs.map .value) = .value xs.sum := by
  simp only [vehicleLoad, all_isPresent whole, sumMeasured_map_value, Bool.true_eq_false, if_false]

/-- The end split compares the loads of the front and the rear half of the axles (R105). -/
theorem vehicleEndSplit_value (w : Int) (xs : List Int) : vehicleEndSplit (.value w) (xs.map .value) =
    .value (perMille ((xs.take (xs.length / 2)).sum - (xs.drop (xs.length - xs.length / 2)).sum).natAbs w) := by
  simp only [vehicleEndSplit, Measure.map, List.length_map, ← List.map_take, ← List.map_drop, numbersOf_map_value, intSum_eq_sum]

/-- The side split compares the wheel loads of the two rails (R106). -/
theorem vehicleSideSplit_value (w : Int) (ys zs : List Int) :
    vehicleSideSplit (.value w) (ys.map .value) (zs.map .value) = .value (perMille (ys.sum - zs.sum).natAbs w) := by
  simp only [vehicleSideSplit, Measure.map, numbersOf_map_value, intSum_eq_sum]

end Vehicles

/-! ### The train load and speed (R107, R108) -/

section Train

variable {net : Nat} {entries : List AxleEntry} {loads : List Measure}

theorem trainLoad_of_short (h : entries.length < net) : trainLoad net entries loads = .unmeasured .partialItem := if_pos h

theorem trainLoad_of_no_loads (full : net ≤ entries.length) :
    trainLoad net entries [] = if entries = [] then .unmeasured .missing else .unmeasured .retracted := by
  rw [trainLoad, if_neg (Nat.not_lt.2 full), if_pos rfl]

/-- The train load carries the reason of the first unmeasured vehicle load (R107). -/
theorem trainLoad_of_unmeasured (full : net ≤ entries.length) (xs : List Int) (q : Reason) (rest : List Measure) :
    trainLoad net entries (xs.map .value ++ .unmeasured q :: rest) = .unmeasured q := by
  have filled : xs.map .value ++ .unmeasured q :: rest ≠ [] := List.append_ne_nil_of_right_ne_nil _ (List.cons_ne_nil _ _)
  rw [trainLoad, if_neg (Nat.not_lt.2 full), if_neg filled, firstReason_append_unmeasured]

theorem trainLoad_of_measured (full : net ≤ entries.length) {xs : List Int} (filled : xs.map Measure.value ≠ []) :
    trainLoad net entries (xs.map .value) = .value xs.sum := by
  rw [trainLoad, if_neg (Nat.not_lt.2 full), if_neg filled, firstReason_map_value, numbersOf_map_value, intSum_eq_sum]

/-- The speeds that the train speed looks at are those of the PRESENT entries (R108). -/
theorem mem_presentSpeeds_iff {v : Nat} : v ∈ (entries.filter AxleEntry.isPresent).filterMap AxleEntry.speed ↔
    ∃ e ∈ entries, e.state = .present ∧ e.speed = some v := by
  simp only [List.mem_filterMap, List.mem_filter, AxleEntry.isPresent_iff, and_assoc]

theorem trainSpeed_of_greatest {e : AxleEntry} {v : Nat} (mem : e ∈ entries) (present : e.state = .present)
    (speed : e.speed = some v) (bound : ∀ f ∈ entries, f.state = .present → ∀ x, f.speed = some x → x ≤ v) :
    trainSpeed entries = .value v := by
  have top : greatest ((entries.filter AxleEntry.isPresent).filterMap AxleEntry.speed) = some v := by
    refine greatest_eq_some_iff.2 ⟨mem_presentSpeeds_iff.2 ⟨e, mem, present, speed⟩, fun x hx => ?_⟩
    obtain ⟨f, hf, present, speed⟩ := mem_presentSpeeds_iff.1 hx
    exact bound f hf present x speed
  rw [trainSpeed, top]

theorem trainSpeed_of_none (h : ∀ e ∈ entries, e.state = .present → e.speed = none) :
    trainSpeed entries = .unmeasured .missing := by
  have noSpeed : (entries.filter AxleEntry.isPresent).filterMap AxleEntry.speed = [] :=
    List.filterMap_eq_nil_iff.2 fun e mem =>
      h e (List.mem_filter.1 mem).1 (AxleEntry.isPresent_iff.1 (List.mem_filter.1 mem).2)
  rw [trainSpeed, noSpeed]
  rfl

/-! ### The train means (R120) -/

theorem trainMean_of_few {b : SettingsBlock} {r : Rail}
    (few : (numbersOf (entries.map (fun e => bearingTemp b e r))).length < b.nat .trainMeanMin) :
    trainMean b entries r = none := if_neg (Nat.not_le.2 few)

theorem trainMean_of_enough {b : SettingsBlock} {r : Rail} {xs : List Int}
    (temps : numbersOf (entries.map (fun e => bearingTemp b e r)) = xs) (enough : b.nat .trainMeanMin ≤ xs.length) :
    trainMean b entries r = some (roundDiv xs.sum xs.length) := by
  subst temps
  rw [← intSum_eq_sum]
  exact if_pos enough

end Train

/-- Settles O44: each quantity by the case of its inputs (`vehicleLoad_of_partial`, `vehicleEndSplit_value`,
`trainLoad_of_unmeasured`, `trainSpeed_of_greatest`, `trainMean_of_enough` and the lemmas beside them); the derivation forms each
over the items the statement names. -/
theorem vehicleAndTrainQuantities : Obligations.VehicleAndTrainQuantities := by
  unfold Obligations.VehicleAndTrainQuantities
  intro nearest sum present
  refine ⟨fun run loads xs => ⟨vehicleLoad_of_partial, vehicleLoad_of_unmeasured, fun whole measured => ?_⟩,
    fun q loads loads1 loads2 => ⟨rfl, rfl⟩, fun w xs ys zs => ?_,
    fun net entries loads xs => ⟨trainLoad_of_short, fun full empty entered => ?_, fun full empty noEntry => ?_,
      fun q rest full reason => ?_, fun full filled measured => ?_⟩,
    fun entries e v mem present speed => trainSpeed_of_greatest mem present speed, fun entries => trainSpeed_of_none,
    fun b entries r xs temps => ?_, fun b suspect ambient u => ⟨rfl, rfl, rfl, rfl, rfl, rfl⟩⟩
  · rw [measured]
    exact vehicleLoad_of_measured whole xs
  · intro half front rear apart
    refine ⟨?_, ?_, fun x pos ⟨low, high⟩ => ?_, fun x pos ⟨low, high⟩ => ?_⟩
    · rw [vehicleEndSplit_value, perMille_zero]
    · rw [vehicleSideSplit_value, perMille_zero]
    · rw [vehicleEndSplit_value, natAbs_sub_eq]
      exact congrArg Measure.value (perMille_eq pos low high)
    · rw [vehicleSideSplit_value, natAbs_sub_eq]
      exact congrArg Measure.value (perMille_eq pos low high)
  · rw [empty, trainLoad_of_no_loads full, if_neg entered]
  · rw [empty, trainLoad_of_no_loads full, if_pos noEntry]
  · rw [reason]
    exact trainLoad_of_unmeasured full xs q rest
  · subst measured
    exact trainLoad_of_measured full filled
  · have numbers : numbersOf (entries.map (fun e => bearingTemp b e r)) = xs := by
      rw [temps, numbersOf, List.filterMap_map]
      refine List.filterMap_congr fun e _ => ?_
      show (bearingTemp b e r).number = _
      cases bearingTemp b e r <;> rfl
    refine ⟨fun few => trainMean_of_few (numbers.symm ▸ few), fun x enough pos ⟨low, high⟩ => ?_⟩
    rw [trainMean_of_enough numbers enough]
    exact congrArg some (roundDiv_eq (Int.natCast_pos.2 pos) low high)

end Sys2Proof
end

section
/-! PROOF. The tests of the criteria. -/

namespace Sys2Proof

/-! ### The predicates (R127) -/

theorem Predicate.met_ge {v x : Int} : Predicate.met .ge v x = true ↔ x ≤ v := decide_eq_true_iff

theorem Predicate.met_gt {v x : Int} : Predicate.met .gt v x = true ↔ x < v := decide_eq_true_iff

theorem Predicate.met_le {v x : Int} : Predicate.met .le v x = true ↔ v ≤ x := decide_eq_true_iff

theorem Predicate.met_lt {v x : Int} : Predicate.met .lt v x = true ↔ v < x := decide_eq_true_iff

/-! ### The threshold the watch snapshot chooses (R131) -/

theorem countsWatched_iff (l : Option WatchLevel) : countsWatched l = true ↔ l = some .restrict ∨ l = some .withdraw := by
  rcases l with _ | _ | _ | _ <;> decide

theorem watched_ite_iff (p : Prop) [Decidable p] : (if p then ThresholdKind.watched else .normal) = .watched ↔ p := by
  by_cases h : p
  · rw [if_pos h]; exact iff_of_true rfl h
  · rw [if_neg h]; exact iff_of_false nofun h

/-- A snapshot holds no level outside 0 to 12, so a counting level at an index is one at 0 to 12. -/
theorem Vehicle.countsWatched_levelAt_iff (v : Vehicle) (k : Nat) :
    countsWatched (v.levelAt k) = true ↔ ∃ i : Fin 13, k = i.val ∧ countsWatched v.snapshot[i] = true := by
  rw [levelAt]
  by_cases inside : k < 13
  · rw [dif_pos inside]
    exact ⟨fun h => ⟨⟨k, inside⟩, rfl, h⟩, fun ⟨i, at_i, h⟩ => by subst at_i; exact h⟩
  · rw [dif_neg inside]
    exact iff_of_false Bool.false_ne_true fun ⟨i, at_i, _⟩ => inside (at_i ▸ i.isLt)

theorem axleThreshold_eq_watched_iff (v : Vehicle) (e : AxleEntry) : axleThreshold v e = .watched ↔
    countsWatched v.snapshot[0] = true ∨
      ∃ i : Fin 13, e.axleIndex = some i.val ∧ countsWatched v.snapshot[i] = true := by
  rw [axleThreshold, watched_ite_iff, Bool.or_eq_true]
  refine or_congr Iff.rfl ?_
  rw [Option.any_eq_true]
  simp only [Vehicle.countsWatched_levelAt_iff]
  exact ⟨fun ⟨k, index, i, at_i, h⟩ => ⟨i, at_i ▸ index, h⟩, fun ⟨i, index, h⟩ => ⟨i, index, i, rfl, h⟩⟩

theorem vehicleThreshold_eq_watched_iff (v : Vehicle) :
    vehicleThreshold v = .watched ↔ ∃ i : Fin 13, countsWatched v.snapshot[i] = true := by
  rw [vehicleThreshold, watched_ite_iff, List.any_eq_true]
  constructor
  · rintro ⟨l, mem, h⟩
    obtain ⟨i, hi, rfl⟩ := Vector.mem_iff_getElem.1 (Vector.mem_toList_iff.1 mem)
    exact ⟨⟨i, hi⟩, h⟩
  · rintro ⟨i, h⟩
    exact ⟨_, Vector.mem_toList_iff.2 (Vector.getElem_mem i.isLt), h⟩

/-! ### One test (R134) -/

section TestItem

variable {n : Fin 24} {c : Criterion} {i : Item} {m : Measure} {v : Int} {r : Reason}

theorem testItem_of_met (h : c.predicate.met v (c.threshold i.threshold) = true) :
    testItem n c i (.value v) = some (i.finding n c (.value v) .final) := if_pos h

theorem testItem_of_unmet (h : c.predicate.met v (c.threshold i.threshold) = false) : testItem n c i (.value v) = none :=
  if_neg (Bool.eq_false_iff.1 h)

theorem testItem_of_ignore (h : c.treatment = .ignore) : testItem n c i (.unmeasured r) = none := by
  simp only [testItem, h]

theorem testItem_of_meet (h : c.treatment = .meet) :
    testItem n c i (.unmeasured r) = some (i.finding n c (.unmeasured r) .final) := by
  simp only [testItem, h]

theorem testItem_of_defer (h : c.treatment = .defer) :
    testItem n c i (.unmeasured r) = some (i.finding n c (.unmeasured r) .deferred) := by
  simp only [testItem, h]

end TestItem

/-! ### The items of a criterion (R133) -/

section Items

variable {j : JudgeInputs} {n : Fin 24} {c : Criterion}

theorem testCriterion_of_disabled (h : c.enabled = false) : testCriterion j n c = [] := if_neg (Bool.eq_false_iff.1 h)

theorem testCriterion_of_wheel (on : c.enabled = true) (h : c.quantity.scope = .wheel) :
    testCriterion j n c = j.axles.flatMap (testWheels j n c) := by
  rw [testCriterion, if_pos on, h]

theorem testCriterion_of_axle (on : c.enabled = true) (h : c.quantity.scope = .axle) :
    testCriterion j n c = j.axles.flatMap (testAxle j n c) := by
  rw [testCriterion, if_pos on, h]

theorem testCriterion_of_vehicle (on : c.enabled = true) (h : c.quantity.scope = .vehicle) :
    testCriterion j n c = j.vehicles.flatMap (testVehicle n c) := by
  rw [testCriterion, if_pos on, h]

theorem testCriterion_of_train (on : c.enabled = true) (h : c.quantity.scope = .train) :
    testCriterion j n c = (testItem n c trainItem (j.derived.of c.quantity)).toList := by
  rw [testCriterion, if_pos on, h]

end Items

theorem QuantityName.scope_rows (q : QuantityName) :
    (q.scope = .wheel ↔ q = .wheelLoad ∨ q = .wheelImpact ∨ q = .impactExcess ∨ q = .impactRatio ∨ q = .bearingTemp ∨
      q = .bearingRise) ∧
    (q.scope = .axle ↔ q = .axleLoad ∨ q = .axleSideSplit ∨ q = .bearingCross ∨ q = .bearingTrainExcess) ∧
    (q.scope = .vehicle ↔ q = .vehicleLoad ∨ q = .vehicleEndSplit ∨ q = .vehicleSideSplit) ∧
    (q.scope = .train ↔ q = .trainLoad ∨ q = .trainSpeed) := by
  cases q <;> decide

/-- Settles O39: the predicates (`Predicate.met_ge` and its siblings), the chosen threshold (`axleThreshold_eq_watched_iff`,
`vehicleThreshold_eq_watched_iff`), one test by its measure and treatment (`testItem_of_met` and the lemmas beside it), and the
items of a criterion by the scope of its quantity (`testCriterion_of_wheel` and the lemmas beside it). -/
theorem criteriaTested : Obligations.CriteriaTested := by
  refine ⟨fun v x => ⟨Predicate.met_ge, Predicate.met_gt, Predicate.met_le, Predicate.met_lt⟩, fun v e => ?_,
    fun n c i m => ?_, fun d v e r => ⟨rfl, rfl, rfl, rfl⟩,
    fun w a v q => ⟨rfl, rfl, rfl, rfl, rfl, rfl, rfl, rfl, rfl, rfl, rfl, rfl, rfl, rfl, rfl⟩, QuantityName.scope_rows,
    fun b j => ?_⟩
  · simp only [← countsWatched_iff]
    exact ⟨axleThreshold_eq_watched_iff v e, vehicleThreshold_eq_watched_iff v, rfl⟩
  · intro x makes
    have threshold_eq : c.threshold i.threshold = x := by
      simp only [x]
      cases i.threshold <;> rfl
    rw [← threshold_eq]
    refine ⟨?_, ?_, ?_⟩
    · rintro v rfl met
      exact testItem_of_met met
    · rintro v rfl unmet
      exact testItem_of_unmet unmet
    · rintro r rfl
      exact ⟨testItem_of_ignore, testItem_of_meet, testItem_of_defer⟩
  · intro present standing one wheels axle
    refine congrArg (List.flatMap · _) (funext fun n => ?_)
    generalize b.criteria[n] = c
    dsimp only
    cases on : c.enabled with
    | false => exact testCriterion_of_disabled on
    | true =>
      rw [if_neg (nomatch ·)]
      cases scope : c.quantity.scope with
      | wheel => exact testCriterion_of_wheel on scope
      | axle => exact testCriterion_of_axle on scope
      | vehicle => exact testCriterion_of_vehicle on scope
      | train => exact testCriterion_of_train on scope

end Sys2Proof
end

section
/-! PROOF. The selection of findings, and the worst grade. -/

namespace Sys2Proof

/-! ### Keys in order (R137) -/

/-- Between lists of one length `keyBefore` is their lexicographic order. -/
theorem keyBefore_iff_lt {as bs : List Nat} (same : as.length = bs.length) : keyBefore as bs = true ↔ as < bs := by
  induction as generalizing bs with
  | nil =>
    obtain rfl : bs = [] := List.length_eq_zero_iff.1 same.symm
    exact ⟨fun h => absurd h Bool.false_ne_true, fun h => absurd h (lt_irrefl _)⟩
  | cons a as ih =>
    cases bs with
    | nil => exact absurd same (Nat.succ_ne_zero _)
    | cons b bs =>
      rw [keyBefore, List.cons_lt_cons_iff]
      by_cases eq : a = b
      · simp only [eq, if_true, lt_irrefl, true_and, false_or, ih (Nat.succ.inj same)]
      · simp only [eq, if_false, decide_eq_true_eq, false_and, or_false]

theorem Grade.code_le_four (g : Grade) : g.code ≤ 4 := by cases g <;> decide

/-- A finding stands before another at the first of R137's five keys that differs. -/
theorem Finding.rankKey_lt_iff (f g : Finding) : f.rankKey < g.rankKey ↔
    g.effective.code < f.effective.code ∨ (g.effective.code = f.effective.code ∧
      (f.scopeRank < g.scopeRank ∨ (f.scopeRank = g.scopeRank ∧
        ((f.ordinal.or f.vehicle).getD 0 < (g.ordinal.or g.vehicle).getD 0 ∨
          ((f.ordinal.or f.vehicle).getD 0 = (g.ordinal.or g.vehicle).getD 0 ∧
            (f.kindRank < g.kindRank ∨ (f.kindRank = g.kindRank ∧
              (f.rail.map Rail.number).getD 0 < (g.rail.map Rail.number).getD 0))))))) := by
  have hf := f.effective.code_le_four
  have hg := g.effective.code_le_four
  have less : 4 - f.effective.code < 4 - g.effective.code ↔ g.effective.code < f.effective.code := by omega
  have same : 4 - f.effective.code = 4 - g.effective.code ↔ g.effective.code = f.effective.code := by omega
  simp only [rankKey, List.cons_lt_cons_iff, less, same, lt_irrefl, and_false, or_false]

/-! ### The ranking (R137) -/

theorem insertRanked_perm (f : Finding) (gs : List Finding) : (insertRanked f gs).Perm (f :: gs) := by
  induction gs with
  | nil => exact .refl _
  | cons g gs ih =>
    rw [insertRanked]
    split
    · exact .refl _
    · exact (ih.cons g).trans (.swap f g gs)

/-- Findings stand in the ranking's order: none has keys below those of a finding before it (R137). -/
def Ranked (fs : List Finding) : Prop := fs.Pairwise (fun f g => f.rankKey ≤ g.rankKey)

theorem insertRanked_ranked (f : Finding) {gs : List Finding} (h : Ranked gs) : Ranked (insertRanked f gs) := by
  induction gs with
  | nil => exact List.pairwise_singleton _ f
  | cons g gs ih =>
    obtain ⟨first, rest⟩ := List.pairwise_cons.1 h
    have lt_iff : keyBefore f.rankKey g.rankKey = true ↔ f.rankKey < g.rankKey := keyBefore_iff_lt rfl
    rw [insertRanked]
    by_cases before : f.rankKey < g.rankKey
    · rw [if_pos (lt_iff.2 before)]
      refine List.pairwise_cons.2 ⟨fun x hx => ?_, h⟩
      rcases List.mem_cons.1 hx with rfl | hx
      · exact before.le
      · exact before.le.trans (first x hx)
    · rw [if_neg (mt lt_iff.1 before)]
      refine List.pairwise_cons.2 ⟨fun x hx => ?_, ih rest⟩
      rcases List.mem_cons.1 ((insertRanked_perm f gs).mem_iff.1 hx) with rfl | hx
      · exact not_lt.1 before
      · exact first x hx

/-- Findings put one by one into a ranked list leave it ranked, and all of them stand in it once. -/
theorem foldl_insertRanked (fs : List Finding) {acc : List Finding} (h : Ranked acc) :
    (fs.foldl (fun acc f => insertRanked f acc) acc).Perm (fs ++ acc) ∧
      Ranked (fs.foldl (fun acc f => insertRanked f acc) acc) := by
  induction fs generalizing acc with
  | nil => exact ⟨.refl _, h⟩
  | cons f fs ih =>
    obtain ⟨perm, ranked⟩ := ih (insertRanked_ranked f h)
    exact ⟨perm.trans (((insertRanked_perm f acc).append_left fs).trans List.perm_middle), ranked⟩

theorem rankFindings_perm (fs : List Finding) : (rankFindings fs).Perm fs :=
  (foldl_insertRanked fs List.Pairwise.nil).1.trans (.of_eq (List.append_nil fs))

theorem rankFindings_ranked (fs : List Finding) : Ranked (rankFindings fs) :=
  (foldl_insertRanked fs List.Pairwise.nil).2

/-! ### The findings kept (R137) -/

theorem mapFrom_eq_map_zipIdx {α β : Type} (f : Nat → α → β) (k : Nat) (xs : List α) :
    mapFrom f k xs = (xs.zipIdx k).map (fun p => f p.2 p.1) := by
  induction xs generalizing k with
  | nil => rfl
  | cons x xs ih => rw [mapFrom, ih, List.zipIdx_cons, List.map_cons]

/-- The findings kept are the first 96 of the ranking, numbered from 1 (R137). -/
theorem selectFindings_eq (fs : List Finding) :
    selectFindings fs = ((rankFindings fs).take 96).zipIdx.map (fun p => { p.1 with number := p.2 + 1 }) := by
  rw [selectFindings, numberFrom, mapFrom_eq_map_zipIdx, List.zipIdx_eq_map_add, List.map_map]
  exact List.map_congr_left fun p _ => congrArg (fun k => { p.1 with number := k }) (Nat.add_comm 1 p.2)

theorem selectFindings_length (fs : List Finding) : (selectFindings fs).length = min fs.length 96 := by
  rw [selectFindings, numberFrom, mapFrom_length, List.length_take, (rankFindings_perm fs).length_eq, Nat.min_comm]

/-- A finding kept is one of those found, given its place as its number (R137). -/
theorem selectFindings_getElem? {fs : List Finding} {i : Nat} {f : Finding} (h : (selectFindings fs)[i]? = some f) :
    ∃ g ∈ fs, f = { g with number := i + 1 } := by
  rw [selectFindings_eq, List.getElem?_map, List.getElem?_zipIdx, Option.map_map, Option.map_eq_some_iff] at h
  obtain ⟨g, kept, numbered⟩ := h
  refine ⟨g, (rankFindings_perm fs).mem_iff.1 (List.mem_of_mem_take (List.mem_of_getElem? kept)), ?_⟩
  rw [← numbered, Function.comp_apply, Nat.zero_add]

/-! ### Effective grades (R138) -/

theorem Finding.effective_of_unresolved {f : Finding} (h : f.state ≠ .resolved) : f.effective = f.grade := by
  cases state : f.state with
  | resolved => exact absurd state h
  | final | deferred => simp only [effective, state]

theorem Finding.effective_of_resolved {f : Finding} {g : Grade} (h : f.state = .resolved) (hg : f.resolvedGrade = some g) :
    f.effective = g := by
  simp only [effective, h, hg, Option.getD_some]

/-- Settles O40: the ranking holds each finding once (`rankFindings_perm`) in the order of its keys (`rankFindings_ranked`), which
is R137's (`Finding.rankKey_lt_iff`); its first 96 are kept with their places (`selectFindings_eq`), and the worst grade is the
highest effective one (`worstGrade_spec`). -/
theorem selectionAndWorstGrade : Obligations.SelectionAndWorstGrade := by
  refine ⟨fun fs => ?_, fun fs => ⟨selectFindings_length fs, fun i f h => ?_⟩, worstGrade_spec,
    fun f => ⟨Finding.effective_of_unresolved, fun g => Finding.effective_of_resolved⟩⟩
  · intro kind place criterion rail before
    have kindRank_eq (f : Finding) : f.kindRank = criterion f + 1 := by
      simp only [Finding.kindRank, criterion]; cases f.kind <;> rfl
    have railNumber_eq (f : Finding) : (f.rail.map Rail.number).getD 0 = rail f := by
      simp only [rail]; rcases f.rail with _ | _ | _ <;> rfl
    have rankKey_lt (f g : Finding) : f.rankKey < g.rankKey ↔ before f g := by
      simp only [Finding.rankKey_lt_iff, kindRank_eq, railNumber_eq, Nat.add_lt_add_iff_right, Nat.add_right_cancel_iff]
      exact Iff.rfl
    refine ⟨rankFindings fs, rankFindings_perm fs, ?_, selectFindings_eq fs⟩
    exact (rankFindings_ranked fs).imp fun {f g} le => mt (rankKey_lt g f).2 (not_lt.2 le)
  · obtain ⟨g, mem, rfl⟩ := selectFindings_getElem? h
    exact ⟨rfl, g, mem, rfl⟩

end Sys2Proof
end

section
/-! PROOF. A record named by its serial; the holds of the train table and the end of a record's lease. -/

namespace Sys2Proof

/-! ### Whose hold it is (R157) -/

theorem heldBy_of_port {r : Option Hold} {p : Port} {h : Hold} (hold : r = some h) (same : h.port = p) : heldBy r p = true := by
  rw [hold, ← same]
  exact beq_self_eq_true h.port

/-- A hold is not the port's where no hold of it is. -/
theorem heldBy_of_others {r : Option Hold} {p : Port} (others : ∀ h, r = some h → h.port ≠ p) : heldBy r p = false := by
  cases r with
  | none => rfl
  | some h => exact beq_eq_false_iff_ne.2 (others h rfl)

theorem heldByOther_of_port {r : Option Hold} {p : Port} {h : Hold} (hold : r = some h) (other : h.port ≠ p) :
    heldByOther r p = true := by
  rw [hold]
  exact bne_iff_ne.2 other

/-- No other port holds what none but the port may hold. -/
theorem heldByOther_of_own {r : Option Hold} {p : Port} (own : ∀ h, r = some h → h.port = p) : heldByOther r p = false := by
  cases r with
  | none => rfl
  | some h =>
    rw [heldByOther, Option.any_some, own h rfl]
    exact bne_self_eq_false p

/-- What no other port holds is the port's exactly when it is held at all. -/
theorem heldBy_eq_isSome {r : Option Hold} {p : Port} (own : ∀ h, r = some h → h.port = p) : heldBy r p = r.isSome := by
  cases r with
  | none => rfl
  | some h => exact heldBy_of_port rfl (own h rfl)

namespace Site

variable {t : Site} {i : Fin 4} {r : TrainRecord} {h : Hold} {p : Port} {body : List Byte}

/-! ### The record of a serial (R153) -/

theorem withRecord_of_none {n : Serial} (absent : t.findRecord n = none) (f : Fin 4 → TrainRecord → Handled) :
    t.withRecord n f = t.refuse .notFound := by
  simp only [withRecord, absent]

theorem withRecord_of_some {n : Serial} (found : t.findRecord n = some i) (there : t.recordAt i = some r)
    (f : Fin 4 → TrainRecord → Handled) : t.withRecord n f = f i r := by
  simp only [withRecord, found, there]

/-- No slot is found exactly where no record has the serial. -/
theorem findRecord_eq_none_iff {n : Serial} : t.findRecord n = none ↔ ∀ i r, t.recordAt i = some r → r.serial ≠ n := by
  have every : ∀ i, i ∈ slotIds := by decide
  simp only [findRecord, List.find?_eq_none, Option.any_eq_true, beq_iff_eq, not_exists, not_and, every, forall_const]

/-- The slot found holds a record of the serial. -/
theorem recordAt_of_findRecord {n : Serial} (found : t.findRecord n = some i) : ∃ r, t.recordAt i = some r ∧ r.serial = n := by
  rw [findRecord] at found
  obtain ⟨r, there, serial⟩ := (Option.any_eq_true _ _).1 (List.find?_some found :)
  exact ⟨r, there, beq_iff_eq.1 serial⟩

/-! ### TRAIN_HOLD (R158) -/

/-- A lease taken now has the whole of HOLD_LEASE left (R157). -/
theorem leaseLeft_newHold (t : Site) (p : Port) : t.leaseLeft (t.newHold p) = t.setting .holdLease := by
  show (t.now + 10000 * t.setting .holdLease - t.now + 10000 - 1) / 10000 = t.setting .holdLease
  omega

theorem grantTrainHold_eq (t : Site) (i : Fin 4) (r : TrainRecord) (p : Port) : t.grantTrainHold i r p =
    (t.putRecord i (some { r with hold := some (t.newHold p) })).answerOk (leBytes 2 (t.setting .holdLease)) := by
  rw [grantTrainHold, leaseLeft_newHold]

section Hold

variable (found : t.findRecord (serialAt body) = some i) (there : t.recordAt i = some r)

include found there

theorem trainHold_of_not_closed (active : r.phase ≠ .closed) : t.trainHold p body = t.refuse .notClosed :=
  (withRecord_of_some found there _).trans (if_pos active)

variable (closed : r.phase = .closed)

include closed

theorem trainHold_of_other (hold : r.hold = some h) (other : h.port ≠ p) : t.trainHold p body = t.refuse .heldByOther := by
  rw [trainHold, withRecord_of_some found there, if_neg (not_not_intro closed), if_pos (heldByOther_of_port hold other)]

/-- The holder's TRAIN_HOLD renews the lease. -/
theorem trainHold_of_own (hold : r.hold = some h) (same : h.port = p) : t.trainHold p body = t.grantTrainHold i r p := by
  have own : ¬heldByOther r.hold p = true := by simp [hold, same, heldByOther]
  rw [trainHold, withRecord_of_some found there, if_neg (not_not_intro closed), if_neg own, if_pos (heldBy_of_port hold same)]

theorem trainHold_of_free (free : r.hold = none) : t.trainHold p body =
    if 4 ≤ t.holds.get p then t.refuse .holdLimit else (t.gainHold p).grantTrainHold i r p := by
  have nobody : ¬heldByOther r.hold p = true ∧ ¬heldBy r.hold p = true := by simp [free, heldByOther, heldBy]
  rw [trainHold, withRecord_of_some found there, if_neg (not_not_intro closed), if_neg nobody.1, if_neg nobody.2]

/-! ### TRAIN_RELEASE (R159) -/

omit closed in
theorem trainRelease_of_not_closed (active : r.phase ≠ .closed) : t.trainRelease p body = t.refuse .notClosed :=
  (withRecord_of_some found there _).trans (if_pos active)

theorem trainRelease_of_others (others : ∀ h, r.hold = some h → h.port ≠ p) :
    t.trainRelease p body = t.refuse .notHeld := by
  rw [trainRelease, withRecord_of_some found there, if_neg (not_not_intro closed),
    if_neg (Bool.eq_false_iff.1 (heldBy_of_others others))]

theorem trainRelease_of_own (hold : r.hold = some h) (same : h.port = p) :
    t.trainRelease p body = (t.endTrainHold i r p).answerOk [] := by
  rw [trainRelease, withRecord_of_some found there, if_neg (not_not_intro closed), if_pos (heldBy_of_port hold same)]

end Hold

/-! ### A lease at its end (R159) -/

theorem trainLeaseExpiry_of_due (there : t.recordAt i = some r) (hold : r.hold = some h) (due : h.expiry ≤ t.now) :
    t.trainLeaseExpiry i = (t.endTrainHold i r h.port).raise .leaseExpired := by
  simp only [trainLeaseExpiry, there, hold, if_pos due]

/-- No lease at its end, no effect (log 10). -/
theorem trainLeaseExpiry_of_not_due (early : ∀ r h, t.recordAt i = some r → r.hold = some h → t.now < h.expiry) :
    t.trainLeaseExpiry i = t := by
  unfold trainLeaseExpiry
  split
  · next r there =>
    split
    · next h hold => exact if_neg (Nat.not_le.2 (early r h there hold))
    · rfl
  · rfl

end Site

namespace Machine

theorem exec_trainLeaseExpiry {s : State} (running : s.Running) (i : Fin 4) :
    exec (.trainLeaseExpiry i) s = .next (s.setSite (s.site.trainLeaseExpiry i)) := by
  rw [← Site.whenRunning_of_running running (fun t => t.trainLeaseExpiry i)]
  rfl

/-- Settles O46: the record is found by its serial (`Site.withRecord_of_some`), and each request answers by its phase and holder
(`Site.trainHold_of_not_closed`, `Site.trainRelease_of_not_closed` and their neighbours); a lease ends when it is due
(`Site.trainLeaseExpiry_of_due`). -/
theorem trainHolds : Obligations.TrainHolds := by
  intro s p tag body t n lease hold held
  refine ⟨fun takes => ?_, fun takes => ?_, fun running i => ⟨fun r h there own due => ?_, fun early => ?_⟩⟩
  · intro refuses
    have refused {st : Status} (h : t.trainHold p body = t.refuse st) : refuses st := request_refused takes tag h
    have granted {i : Fin 4} {r : TrainRecord} {u : Site} (h : t.trainHold p body = u.grantTrainHold i r p)
        (lease : u.setting .holdLease = lease) (new : u.newHold p = hold) :
        exec (.trainHold p tag body) s = .next (held i r u) := by
      rw [Site.grantTrainHold_eq, lease, new] at h
      exact request_granted takes tag h
    refine ⟨fun absent => refused (Site.withRecord_of_none absent _), fun i r found there => ?_⟩
    refine ⟨fun active => refused (Site.trainHold_of_not_closed found there active),
      fun h closed hold other => refused (Site.trainHold_of_other found there closed hold other),
      fun h closed hold same => granted (Site.trainHold_of_own found there closed hold same) rfl rfl,
      fun closed free full => refused ((Site.trainHold_of_free found there closed free).trans (if_pos full)),
      fun closed free room =>
        granted ((Site.trainHold_of_free found there closed free).trans (if_neg (Nat.not_le.2 room))) rfl rfl⟩
  · intro refuses
    have refused {st : Status} (h : t.trainRelease p body = t.refuse st) : refuses st := request_refused takes tag h
    refine ⟨fun absent => refused (Site.withRecord_of_none absent _), fun i r found there => ?_⟩
    exact ⟨fun active => refused (Site.trainRelease_of_not_closed found there active),
      fun closed others => refused (Site.trainRelease_of_others found there closed others),
      fun h closed hold same => request_granted takes tag (Site.trainRelease_of_own found there closed hold same)⟩
  · rw [exec_trainLeaseExpiry running, Site.trainLeaseExpiry_of_due there own due]
    rfl
  · rw [exec_trainLeaseExpiry running, Site.trainLeaseExpiry_of_not_due early, State.setSite_self]

end Machine

end Sys2Proof
end

section
/-! PROOF. Settling a deferred finding and retiring a record. -/

namespace Sys2Proof

/-! ### The request's grade (R160) -/

/-- The grades have the codes 0 to 4 (R195). -/
theorem Grade.ofCode_of_past {n : Nat} (past : 4 < n) : Grade.ofCode n = none := by
  refine Option.eq_none_iff_forall_not_mem.2 (fun g named => ?_)
  have code : n = g.code := Grade.ofCode_eq_some_iff.1 named
  have := g.code_le_four
  omega

theorem Grade.exists_ofCode {n : Nat} (inside : n ≤ 4) : ∃ g, Grade.ofCode n = some g := by
  interval_cases n <;> exact ⟨_, rfl⟩

theorem Grade.atLeast_alarm_iff_code (g : Grade) : g.atLeast .alarm = true ↔ 3 ≤ g.code := decide_eq_true_iff

/-- The axle index that a criterion's finding gives its watch key: of a wheelset the index from end 1, of a vehicle 0 (R162). -/
def Finding.keyIndex (f : Finding) : Option Nat :=
  match f.ordinal, f.index with
  | some _, some ⟨i, .fromEnd1⟩ => some i
  | some _, _ => none
  | none, _ => some 0

/-! ### The verdict taken again (R138, R161) -/

namespace Verdict

variable {v : Verdict} {f : Finding}

theorem resolve_vehicle {k : Nat} {g : Grade} {i : Nat} {c : VehicleCopy} (there : v.vehicles[i]? = some c) :
    (v.resolve k g).vehicles[i]? = some (if ∃ f ∈ v.findings, f.number = k ∧ f.vehicle = some c.position then
      c.regrade (v.resolve k g).findings else c) := by
  have named : (v.findings.any (fun f => f.number == k && f.vehicle == some c.position)) = true ↔
      ∃ f ∈ v.findings, f.number = k ∧ f.vehicle = some c.position := by
    simp only [List.any_eq_true, Bool.and_eq_true, beq_iff_eq]
  simp only [resolve, List.getElem?_map, there, Option.map_some, named]

/-! ### The watch key of a finding (R162) -/

/-- The key of a criterion's finding on a vehicle that carries one tag. -/
theorem keyOf_of_tagged {n : Fin 24} {c : VehicleCopy} {x : TagCode} (criterion : f.kind = .criterion n)
    (copy : v.vehicles.find? (fun c => some c.position == f.vehicle) = some c) (vehicle : f.vehicle.isSome = true)
    (tagged : c.tagState = .single ∨ c.tagState = .confirmed) (code : c.tagCode = some x) :
    v.keyOf f = f.keyIndex.map (fun i => { tag := x, index := i }) := by
  obtain ⟨p, hp⟩ := Option.isSome_iff_exists.1 vehicle
  rw [hp] at copy
  have copy : v.vehicles.find? (fun c => c.position == p) = some c := copy
  simp only [keyOf, criterion, hp, copy, if_pos tagged, code]
  unfold Finding.keyIndex
  rcases f.ordinal with _ | axle
  · rfl
  · rcases f.index with _ | ⟨i, _ | _⟩ <;> rfl

theorem keyOf_of_no_vehicle (nowhere : f.vehicle = none) : v.keyOf f = none := by
  unfold keyOf
  split
  · next p _ hp => rw [nowhere] at hp; cases hp
  · rfl

/-- No key names a vehicle without a tag, or with tags in conflict. -/
theorem keyOf_of_untagged (untagged : ∀ c, v.vehicles.find? (fun c => some c.position == f.vehicle) = some c →
    c.tagState = .untagged ∨ c.tagState = .conflict) : v.keyOf f = none := by
  unfold keyOf
  split
  · next p _ hp =>
    rw [hp] at untagged
    split
    · next c copy =>
      refine if_neg (fun tagged => ?_)
      rcases untagged c copy with state | state <;> rw [state] at tagged <;> exact absurd tagged (by decide)
    · rfl
  · rfl

/-- No key names the vehicle of a WATCHED_VEHICLE finding. -/
theorem keyOf_of_watched (watched : ¬∃ n, f.kind = .criterion n) : v.keyOf f = none := by
  unfold keyOf
  split
  · next n _ kind _ => exact absurd ⟨n, kind⟩ watched
  · rfl

end Verdict

namespace Site

variable {t : Site} {i : Fin 4} {r : TrainRecord} {p : Port} {body : List Byte}

/-! ### TRAIN_RESOLVE (R160 to R162) -/

theorem trainResolve_of_bad (bad : natAt body 4 1 < 1 ∨ 96 < natAt body 4 1 ∨ 4 < natAt body 5 1) :
    t.trainResolve p body = t.refuse .badValue := by
  unfold trainResolve
  split
  · rfl
  · next g named =>
    have inside : ¬4 < natAt body 5 1 := fun past => by rw [Grade.ofCode_of_past past] at named; cases named
    exact if_pos (by omega)

/-- The finding's number and the grade in range, the record decides. -/
theorem trainResolve_of_good (good : ¬(natAt body 4 1 < 1 ∨ 96 < natAt body 4 1 ∨ 4 < natAt body 5 1)) :
    ∃ g : Grade, natAt body 5 1 = g.code ∧ t.trainResolve p body = t.withRecord (serialAt body) (fun i r =>
      if r.phase ≠ .closed then t.refuse .notClosed
      else if heldByOther r.hold p then t.refuse .heldByOther
      else t.resolveNumber i r (natAt body 4 1) g) := by
  obtain ⟨g, named⟩ := Grade.exists_ofCode (n := natAt body 5 1) (by omega)
  refine ⟨g, Grade.ofCode_eq_some_iff.1 named, ?_⟩
  have number : ¬(natAt body 4 1 < 1 ∨ 96 < natAt body 4 1) := by omega
  simp only [trainResolve, named, if_neg number]

theorem resolveNumber_of_past {v : Verdict} {k : Nat} (verdict : r.verdict = some v) (past : v.findings[k - 1]? = none)
    (g : Grade) : t.resolveNumber i r k g = t.refuse .notFound := by
  simp only [resolveNumber, verdict, past]

theorem resolveNumber_of_settled {v : Verdict} {k : Nat} {f : Finding} (verdict : r.verdict = some v)
    (there : v.findings[k - 1]? = some f) (settled : f.state ≠ .deferred) (g : Grade) :
    t.resolveNumber i r k g = t.refuse .wrongState := by
  simp only [resolveNumber, verdict, there, if_neg settled]

theorem resolveNumber_of_deferred {v : Verdict} {k : Nat} {f : Finding} (verdict : r.verdict = some v)
    (there : v.findings[k - 1]? = some f) (deferred : f.state = .deferred) (g : Grade) :
    t.resolveNumber i r k g = t.resolveFinding i r v f g := by
  simp only [resolveNumber, verdict, there, if_pos deferred]

/-- GRADE_ALARM is set where the grade comes to ALARM or STOP from below (R161). -/
theorem raiseIf_gradeRises (t : Site) (g w : Grade) : t.raiseIf (!(g.atLeast .alarm) && w.atLeast .alarm) .gradeAlarm =
    if g.code < 3 ∧ 3 ≤ w.code then t.raise .gradeAlarm else t := by
  have rises : (!(g.atLeast .alarm) && w.atLeast .alarm) = true ↔ g.code < 3 ∧ 3 ≤ w.code := by
    rw [Bool.and_eq_true, Bool.not_eq_true', ← Bool.not_eq_true, Grade.atLeast_alarm_iff_code, Grade.atLeast_alarm_iff_code,
      Nat.not_le]
  simp only [raiseIf, rises]

/-! ### TRAIN_RETIRE (R163) -/

theorem retireRecord_of_own (own : ∀ h, r.hold = some h → h.port = p) : t.retireRecord i r p =
    ((t.setHolds (if r.hold.isSome then t.holds.dec p else t.holds)).setCounts
      { t.counts with deferredAbandoned := bumpBy r.deferred t.counts.deferredAbandoned }).putRecord i none := by
  rw [retireRecord, heldBy_eq_isSome own]
  split <;> rfl

section Retire

variable (found : t.findRecord (serialAt body) = some i) (there : t.recordAt i = some r)

include found there

theorem trainRetire_of_not_closed (active : r.phase ≠ .closed) : t.trainRetire p body = t.refuse .notClosed :=
  (withRecord_of_some found there _).trans (if_pos active)

variable (closed : r.phase = .closed)

include closed

theorem trainRetire_of_other {h : Hold} (hold : r.hold = some h) (other : h.port ≠ p) :
    t.trainRetire p body = t.refuse .heldByOther := by
  rw [trainRetire, withRecord_of_some found there, if_neg (not_not_intro closed), if_pos (heldByOther_of_port hold other)]

theorem trainRetire_of_own (own : ∀ h, r.hold = some h → h.port = p) :
    t.trainRetire p body = (t.retireRecord i r p).answerOk [] := by
  rw [trainRetire, withRecord_of_some found there, if_neg (not_not_intro closed),
    if_neg (Bool.eq_false_iff.1 (heldByOther_of_own own))]

end Retire

end Site

namespace Machine

/-- Settles O47: a resolution is answered by the finding it names (`Site.resolveNumber_of_deferred` and its neighbours) and takes the
grades again (`Verdict.resolve_vehicle`); its key is that of `Verdict.keyOf_of_tagged`. A retirement frees the slot
(`Site.retireRecord_of_own`). -/
theorem trainSettling : Obligations.TrainSettling := by
  intro s p tag body t n
  refine ⟨fun takes => ?_, fun takes => ?_, fun v k g => ?_, fun v f => ?_⟩
  · intro k refuses bad
    have refused {st : Status} (h : t.trainResolve p body = t.refuse st) : refuses st := request_refused takes tag h
    refine ⟨fun out => refused (Site.trainResolve_of_bad out), fun good absent => ?_, fun good i r found there => ?_⟩
    · obtain ⟨g, -, resolve⟩ := Site.trainResolve_of_good (t := t) (p := p) good
      exact refused (resolve.trans (Site.withRecord_of_none absent _))
    · obtain ⟨g, code, resolve⟩ := Site.trainResolve_of_good (t := t) (p := p) good
      replace resolve := resolve.trans (Site.withRecord_of_some found there _)
      refine ⟨fun active => refused (resolve.trans (if_pos active)), fun h closed hold other => refused ?_,
        fun v closed own verdict => ?_⟩
      · rw [resolve, if_neg (not_not_intro closed), if_pos (heldByOther_of_port hold other)]
      · rw [if_neg (not_not_intro closed), if_neg (Bool.eq_false_iff.1 (heldByOther_of_own own))] at resolve
        refine ⟨fun past => refused (resolve.trans ?_), fun f kth settled => refused (resolve.trans ?_),
          fun f g' kth deferred code' => ?_⟩
        · exact Site.resolveNumber_of_past verdict (List.getElem?_eq_none (show v.findings.length ≤ k - 1 by omega)) g
        · exact Site.resolveNumber_of_settled verdict kth settled g
        · intro w t1 rises t2 t3
          have same : g = g' := Option.some.inj
            ((Grade.ofCode_eq_some_iff.2 code).symm.trans (Grade.ofCode_eq_some_iff.2 code'.symm))
          rw [same, Site.resolveNumber_of_deferred verdict kth deferred, Site.resolveFinding] at resolve
          simp only [Site.raiseIf_gradeRises] at resolve
          exact request_granted takes tag resolve
  · intro refuses
    have refused {st : Status} (h : t.trainRetire p body = t.refuse st) : refuses st := request_refused takes tag h
    refine ⟨fun absent => refused (Site.withRecord_of_none absent _), fun i r found there => ?_⟩
    refine ⟨fun active => refused (Site.trainRetire_of_not_closed found there active),
      fun h closed hold other => refused (Site.trainRetire_of_other found there closed hold other), fun closed own => ?_⟩
    rw [← Site.retireRecord_of_own own]
    exact request_granted takes tag (Site.trainRetire_of_own found there closed own)
  · refine ⟨rfl, rfl, rfl, rfl, rfl, fun i c there => ⟨fun named => ?_, fun unnamed => ?_⟩⟩
    · rw [Verdict.resolve_vehicle there, if_pos named]
      rfl
    · rw [Verdict.resolve_vehicle there, if_neg unnamed]
  · intro criterion keyed
    have key {c : VehicleCopy} {x : TagCode} (kind : criterion) (k : keyed c x) :
        v.keyOf f = f.keyIndex.map (fun i => { tag := x, index := i }) := by
      obtain ⟨n, kind⟩ := kind
      obtain ⟨copy, vehicle, tagged, code⟩ := k
      exact Verdict.keyOf_of_tagged kind copy vehicle tagged code
    refine ⟨fun c x i kind k axle index => ?_, fun c x i kind k axle index => ?_, fun c x kind k whole => ?_, ?_⟩
    · obtain ⟨o, axle⟩ := Option.isSome_iff_exists.1 axle
      simp only [key kind k, Finding.keyIndex, axle, index, Option.map_some]
    · obtain ⟨o, axle⟩ := Option.isSome_iff_exists.1 axle
      simp only [key kind k, Finding.keyIndex, axle, index, Option.map_none]
    · simp only [key kind k, Finding.keyIndex, whole, Option.map_some]
    · rintro (nowhere | untagged | watched)
      · exact Verdict.keyOf_of_no_vehicle nowhere
      · exact Verdict.keyOf_of_untagged untagged
      · exact Verdict.keyOf_of_watched watched

end Machine

end Sys2Proof
end

section
/-! PROOF. The reads of the train table. -/

namespace Sys2Proof

/-! ### The fields of the answers (R152 to R156) -/

theorem holderField_eq (h : Option Hold) : holderField h = leBytes 1 (match h with | none => 0 | some h => h.port.code + 1) := by
  cases h <;> rfl

theorem FindingKind.field_eq (k : FindingKind) : k.field =
    match k with | .criterion n => leBytes 1 (n.val + 1) | .watchedVehicle => [Config.watchedVehicleCode] := by
  cases k <;> rfl

/-! ### The part and range of a TRAIN_READ (R153) -/

namespace RecordPart

theorem ofCode_of_past {k : Nat} (past : 2 < k) : ofCode k = none := by
  match k with
  | k + 3 => rfl

theorem ofCode_eq_summary {k : Nat} (named : ofCode k = some .summary) : k = 0 := by
  unfold ofCode at named
  split at named
  · rfl
  all_goals cases named

theorem vehicles_rangeOk_iff {first count : Nat} : vehicles.rangeOk first count = true ↔
    ¬(first < 1 ∨ 256 < first ∨ count < 1 ∨ 32 < count) := by
  simp only [rangeOk, Bool.and_eq_true, decide_eq_true_eq]
  omega

theorem findings_rangeOk_iff {first count : Nat} : findings.rangeOk first count = true ↔
    ¬(first < 1 ∨ 96 < first ∨ count < 1 ∨ 24 < count) := by
  simp only [rangeOk, Bool.and_eq_true, decide_eq_true_eq]
  omega

/-- The part and range that R153 refuses with BAD_VALUE. -/
def Bad (part first count : Nat) : Prop :=
  2 < part ∨ (part = 1 ∧ (first < 1 ∨ 256 < first ∨ count < 1 ∨ 32 < count)) ∨
    (part = 2 ∧ (first < 1 ∨ 96 < first ∨ count < 1 ∨ 24 < count))

/-- A request that is not refused so names a part, whose range it keeps. -/
theorem exists_of_not_bad {part first count : Nat} (good : ¬Bad part first count) :
    ∃ q, ofCode part = some q ∧ q.rangeOk first count = true := by
  obtain ⟨known, vehiclesRange, findingsRange⟩ : ¬2 < part ∧ _ := by simpa only [Bad, not_or] using good
  interval_cases part
  · exact ⟨.summary, rfl, rfl⟩
  · exact ⟨.vehicles, rfl, vehicles_rangeOk_iff.2 (fun out => vehiclesRange ⟨rfl, out⟩)⟩
  · exact ⟨.findings, rfl, findings_rangeOk_iff.2 (fun out => findingsRange ⟨rfl, out⟩)⟩

theorem not_rangeOk_of_bad {part first count : Nat} {q : RecordPart} (named : ofCode part = some q)
    (bad : Bad part first count) : q.rangeOk first count = false := by
  rcases bad with past | ⟨rfl, out⟩ | ⟨rfl, out⟩
  · rw [ofCode_of_past past] at named
    cases named
  · cases named
    exact Bool.eq_false_iff.2 (fun ok => vehicles_rangeOk_iff.1 ok out)
  · cases named
    exact Bool.eq_false_iff.2 (fun ok => findings_rangeOk_iff.1 ok out)

end RecordPart

namespace Site

variable {t : Site} {i : Fin 4} {r : TrainRecord} {body : List Byte}

/-! ### TRAIN_READ (R153) -/

theorem trainRead_of_bad (bad : RecordPart.Bad (natAt body 4 1) (natAt body 5 2) (natAt body 7 1)) :
    t.trainRead body = t.refuse .badValue := by
  unfold trainRead
  dsimp only
  split
  · rfl
  · next q named => exact if_pos (RecordPart.not_rangeOk_of_bad named bad)

/-- The part and range in order, the record decides. -/
theorem trainRead_of_good (good : ¬RecordPart.Bad (natAt body 4 1) (natAt body 5 2) (natAt body 7 1)) :
    ∃ q, RecordPart.ofCode (natAt body 4 1) = some q ∧ t.trainRead body = t.withRecord (serialAt body) (fun i r =>
      if r.phase = .closing then t.refuse .notReady else t.readPart i r q (natAt body 5 2) (natAt body 7 1)) := by
  obtain ⟨q, named, range⟩ := RecordPart.exists_of_not_bad good
  refine ⟨q, named, ?_⟩
  simp only [trainRead, named, range, Bool.true_eq_false, if_false]

section Found

variable {q : RecordPart} (good : ¬RecordPart.Bad (natAt body 4 1) (natAt body 5 2) (natAt body 7 1))
  (found : t.findRecord (serialAt body) = some i) (there : t.recordAt i = some r)

include good found there

theorem trainRead_of_closing (closing : r.phase = .closing) : t.trainRead body = t.refuse .notReady := by
  obtain ⟨q, -, read⟩ := trainRead_of_good good
  rw [read, withRecord_of_some found there, if_pos closing]

theorem trainRead_of_part (standing : r.phase ≠ .closing) (named : RecordPart.ofCode (natAt body 4 1) = some q) :
    t.trainRead body = t.readPart i r q (natAt body 5 2) (natAt body 7 1) := by
  obtain ⟨q', named', read⟩ := trainRead_of_good good
  cases named.symm.trans named'
  rw [read, withRecord_of_some found there, if_neg standing]

end Found

/-- An OPEN record shows no part but its SUMMARY (R153). -/
theorem readPart_of_opened (opened : r.phase = .opened) {q : RecordPart} (other : q ≠ .summary) (first count : Nat) :
    t.readPart i r q first count = t.refuse .notReady := by
  have unseen : r.shownVerdict = none := if_pos opened
  cases q with
  | summary => exact absurd rfl other
  | vehicles => simp only [readPart, unseen]
  | findings => simp only [readPart, unseen]

theorem readPart_vehicles {v : Verdict} (seen : r.shownVerdict = some v) (first count : Nat) :
    t.readPart i r .vehicles first count = t.answerOk (r.vehiclesBody v first count) := by
  simp only [readPart, seen]

theorem readPart_findings {v : Verdict} (seen : r.shownVerdict = some v) (first count : Nat) :
    t.readPart i r .findings first count = t.answerOk (r.findingsBody v first count) := by
  simp only [readPart, seen]

theorem shownVerdict_of_closed (closed : r.phase = .closed) : r.shownVerdict = r.verdict := if_neg (by rw [closed]; decide)

/-! ### What SUMMARY shows (R154) -/

/-- The fields with which every SUMMARY opens. -/
def summaryHead (r : TrainRecord) : List Byte :=
  longField r.serial ++ byteField (slotStateCode (some r.phase)) ++ byteField r.direction.code ++ dateTimeField r.opened

/-- The SUMMARY of an OPEN record: the speeds and the net count as they stand, every field of the close and of composition
absent. -/
theorem summaryBody_of_opened (opened : r.phase = .opened) : t.summaryBody r =
    let a := t.passage.tally
    summaryHead r ++ optField 8 none ++ optNat 1 none ++ leBytes 2 t.gateNet ++ optNat 2 none ++ optNat 2 none ++
      optNat 2 none ++ optNat 2 (a.figure a.least) ++ optNat 2 (a.figure a.greatest) ++ optNat 2 (a.figure (a.sum / a.count)) ++
      optField 5 none ++ optInt 2 none ++ optInt 2 none ++ optInt 2 none ++ optNat 1 none ++ causeField r.causes ++
      optNat 1 none ++ optNat 2 none ++ optNat 1 none ++ yesNo r.readMark ++ (holderField r.hold ++ t.leaseField r.hold) ++
      wordField r.generation := by
  have close : r.shownClose = none := if_pos opened
  have seen : r.shownVerdict = none := if_pos opened
  have net : t.summaryNet r = t.gateNet := by
    unfold summaryNet
    cases r.close with
    | none => rfl
    | some f => exact if_pos opened
  have speeds : t.summarySpeeds r = optNat 2 (t.passage.tally.figure t.passage.tally.least) ++
      optNat 2 (t.passage.tally.figure t.passage.tally.greatest) ++
      optNat 2 (t.passage.tally.figure (t.passage.tally.sum / t.passage.tally.count)) := by
    simp only [summarySpeeds, opened]
  unfold summaryBody
  rw [close, seen, net, speeds]
  simp only [List.append_assoc]
  rfl

/-- The SUMMARY of a CLOSED record: the figures of its close, and its verdict. -/
theorem summaryBody_of_closed {f : CloseFigures} {v : Verdict} (closed : r.phase = .closed) (close : r.close = some f)
    (verdict : r.verdict = some v) : t.summaryBody r =
    summaryHead r ++ optField 8 (some (dateTimeField f.closed)) ++ optNat 1 (some f.outcome.code) ++ leBytes 2 f.net ++
      optNat 2 (some v.rosterLength) ++ optNat 2 (some v.retracted) ++ optNat 2 (some v.vehicleCount) ++
      optNat 2 f.speedMin ++ optNat 2 f.speedMax ++ optNat 2 f.speedMean ++ optField 5 (some (measureField 4 v.trainLoad)) ++
      optInt 2 v.mean1 ++ optInt 2 v.mean2 ++ optInt 2 f.ambient ++ optNat 1 (some v.grade.code) ++ causeField r.causes ++
      optNat 1 (some v.findings.length) ++ optNat 2 (some v.overflow) ++ optNat 1 (some v.deferred) ++ yesNo r.readMark ++
      (holderField r.hold ++ t.leaseField r.hold) ++ wordField r.generation := by
  have past : r.phase ≠ .opened := by rw [closed]; decide
  have shown : r.shownClose = some f := (if_neg past).trans close
  have seen : r.shownVerdict = some v := (shownVerdict_of_closed closed).trans verdict
  have net : t.summaryNet r = f.net := by simp only [summaryNet, close, if_neg past]
  have speeds : t.summarySpeeds r = optNat 2 f.speedMin ++ optNat 2 f.speedMax ++ optNat 2 f.speedMean := by
    simp only [summarySpeeds, close, closed]
  unfold summaryBody
  rw [shown, seen, net, speeds]
  simp only [List.append_assoc]
  rfl

end Site

namespace Machine

/-- Settles O45: TRAIN_READ is refused by its part and range (`Site.trainRead_of_bad`), by its serial, or by the record's phase
(`Site.trainRead_of_closing`, `Site.readPart_of_opened`); else its bytes are those of the fields, of a SUMMARY by
`Site.summaryBody_of_opened` and `Site.summaryBody_of_closed`. -/
theorem trainReads : Obligations.TrainReads := by
  intro s p tag body t n part first count bad slot holder tally shown top closed opened vehicle vehicles finding findings
    gives refuses
  have granted {b : List Byte} {u : Site} (h : t.trainRead body = u.answerOk b) (takes : s.Takes p .trainRead body) :
      gives b u := request_granted takes tag h
  have refused {st : Status} (h : t.trainRead body = t.refuse st) (takes : s.Takes p .trainRead body) :
      refuses st := request_refused takes tag h
  have fields : finding = Finding.field := funext fun f => by
    rw [Finding.field, FindingKind.field_eq]
    rfl
  refine ⟨fun takes => ?_, fun takes => ⟨fun out => ?_, fun good absent => ?_, fun good i r found there => ?_⟩,
    Site.findRecord_eq_none_iff, fun i => Site.recordAt_of_findRecord⟩
  · have slots : slot = t.slotField := funext fun x => by
      rcases x with _ | r
      · rfl
      · rw [Site.slotField, holderField_eq]
        rfl
    rw [slots]
    exact request_granted takes tag rfl
  · exact refused (Site.trainRead_of_bad out) takes
  · obtain ⟨q, -, read⟩ := Site.trainRead_of_good (t := t) good
    exact refused (read.trans (Site.withRecord_of_none absent _)) takes
  · have asked {q : RecordPart} (standing : r.phase ≠ .closing) (named : RecordPart.ofCode part = some q) :
        t.trainRead body = t.readPart i r q first count := Site.trainRead_of_part good found there standing named
    have ofClosed (h : r.phase = .closed) : r.phase ≠ .closing := by rw [h]; decide
    have ofOpened (h : r.phase = .opened) : r.phase ≠ .closing := by rw [h]; decide
    refine ⟨fun closing => refused (Site.trainRead_of_closing good found there closing) takes, fun open_ zero => ?_,
      fun done zero => ?_, fun open_ other => ?_, fun v done verdict one => ?_, fun v done verdict two => ?_⟩
    · have read := asked (q := .summary) (ofOpened open_) (by rw [zero]; rfl)
      have unread : r.markRead = r := if_neg (by rw [open_]; decide)
      have bytes : t.summaryBody r = opened r := by
        rw [Site.summaryBody_of_opened open_, holderField_eq]
        rfl
      rw [Site.readPart, unread, bytes] at read
      exact granted read takes
    · have read := asked (q := .summary) (ofClosed done) (by rw [zero]; rfl)
      have marked : r.markRead = { r with readMark := true } := if_pos done
      rw [Site.readPart, marked] at read
      refine ⟨_, granted read takes, fun f v close verdict => ?_⟩
      rw [Site.summaryBody_of_closed (r := { r with readMark := true }) done close verdict, holderField_eq]
      rfl
    · obtain ⟨q, named, -⟩ := Site.trainRead_of_good (t := t) good
      have item : q ≠ .summary := fun summary => other (RecordPart.ofCode_eq_summary (summary ▸ named))
      exact refused ((asked (ofOpened open_) named).trans (Site.readPart_of_opened open_ item _ _)) takes
    · have read := asked (q := .vehicles) (ofClosed done) (by rw [one]; rfl)
      rw [Site.readPart_vehicles ((Site.shownVerdict_of_closed done).trans verdict)] at read
      have bytes : r.vehiclesBody v first count = vehicles r v := by
        rw [TrainRecord.vehiclesBody, listField_map, ← List.append_assoc]
        rfl
      exact granted (read.trans (congrArg _ bytes)) takes
    · have read := asked (q := .findings) (ofClosed done) (by rw [two]; rfl)
      rw [Site.readPart_findings ((Site.shownVerdict_of_closed done).trans verdict)] at read
      have bytes : r.findingsBody v first count = findings r v := by
        rw [TrainRecord.findingsBody, listField_map, ← List.append_assoc, ← fields]
        rfl
      exact granted (read.trans (congrArg _ bytes)) takes

end Machine

end Sys2Proof
end

section
/-! PROOF. Contributions at the watch table: taken by key, raised, pended, applied. -/

namespace Sys2Proof

/-! ### Grades (conventions, the grade scale) -/

theorem Grade.atLeast_caution_iff_code (g : Grade) : g.atLeast .caution = true ↔ 2 ≤ g.code := decide_eq_true_iff

/-! ### The slots of the watch table (R165, R167) -/

namespace Site

variable {t : Site} {i : Fin 512} {e : WatchEntry} {c : Contribution} {k : WatchKey} {g : Grade}

/-- No slot is found exactly where no entry has the key. -/
theorem findKey_eq_none_iff : t.findKey k = none ↔ ∀ i e, t.watchEntry i = some e → e.key ≠ k := by
  simp only [findKey, watchIds, List.find?_eq_none, List.mem_finRange, Option.any_eq_true, beq_iff_eq, not_exists, not_and,
    forall_const]

/-- The slot found holds an entry of the key. -/
theorem watchEntry_of_findKey (found : t.findKey k = some i) : ∃ e, t.watchEntry i = some e ∧ e.key = k := by
  obtain ⟨e, there, key⟩ := (Option.any_eq_true _ _).1 (List.find?_some found :)
  exact ⟨e, there, beq_iff_eq.1 key⟩

theorem lowestFree_eq_some_iff : t.lowestFree = some i ↔ t.watchEntry i = none ∧ ∀ j, j < i → t.watchEntry j ≠ none := by
  simp only [lowestFree, watchIds, List.find?_eq_some_iff_getElem, List.getElem_finRange, List.length_finRange, Fin.cast_mk,
    Option.isNone_iff_eq_none, Bool.not_eq_true', Option.isNone_eq_false_iff, Option.isSome_iff_ne_none]
  refine and_congr_right fun _ => ⟨?_, fun below => ⟨i.val, i.isLt, rfl, fun j hj => below ⟨j, _⟩ hj⟩⟩
  rintro ⟨n, hn, rfl, below⟩ j hj
  exact below j.val hj

/-- The slots in order, by their numbers. -/
theorem slots_eq_map (t : Site) : t.watch.slots.toList = (List.finRange 512).map t.watchSlot := by
  refine List.ext_getElem (by simp) (fun n h _ => ?_)
  simp [watchSlot]

theorem freeCount_eq (t : Site) : t.freeCount = ((List.finRange 512).filter (fun i => (t.watchEntry i).isNone)).length := by
  rw [freeCount, slots_eq_map, List.countP_map, List.countP_eq_length_filter]
  rfl

/-! ### A contribution applied at a slot (R166, R169) -/

theorem applyAt_of_some {a : Applied} (there : t.watchEntry i = some e)
    (applied : e.apply t.settings t.watch.sweepSerial c = some a) : t.applyAt i c = t.putApplied i a := by
  simp only [applyAt, there, applied]

theorem applyAt_of_none (there : t.watchEntry i = some e) (idle : e.apply t.settings t.watch.sweepSerial c = none) :
    t.applyAt i c = t := by
  simp only [applyAt, there, idle]

theorem putApplied_of_entry {a : Applied} (stays : a.entry = some e) :
    t.putApplied i a = ((t.putEntry i e).enqueue (.slot i)).raiseIf a.escalated .watchEscalated := by
  simp only [putApplied, stays]

theorem putApplied_of_retired {a : Applied} (retired : a.entry = none) : t.putApplied i a = t.freeSlot i := by
  simp only [putApplied, retired]

/-! ### An entry raised (R171) -/

theorem admitted_iff : t.admitted g = true ↔ t.setting .admissionReserve < t.freeCount ∨ (3 ≤ g.code ∧ 1 ≤ t.freeCount) := by
  simp only [admitted, Bool.or_eq_true, Bool.and_eq_true, decide_eq_true_eq, Grade.atLeast_alarm_iff_code]

theorem raiseEntry_of_low (low : g.code < 2) : t.raiseEntry k g c = t :=
  if_neg (mt g.atLeast_caution_iff_code.1 (Nat.not_le.2 low))

theorem raiseEntry_of_no_room (high : 2 ≤ g.code) (full : ¬t.admitted g = true) : t.raiseEntry k g c = t.refuseRaise := by
  rw [raiseEntry, if_pos (g.atLeast_caution_iff_code.2 high)]
  split
  · exact if_neg full
  · rfl

theorem raiseEntry_of_room (high : 2 ≤ g.code) (room : t.admitted g = true) (free : t.lowestFree = some i) :
    t.raiseEntry k g c = ((t.putEntry i (newRaised k t.watch.sweepSerial)).applyAt i c).raise .watchRaised := by
  simp only [raiseEntry, g.atLeast_caution_iff_code.2 high, free, room, if_true]

/-! ### A contribution for an entry (R167, R175, R176) -/

theorem endHold_of_held {h : Hold} (there : t.watchEntry i = some e) (held : e.hold = some h) :
    t.endHold i = (t.putEntry i { e with hold := none, pending := [] }).loseHold h.port := by
  simp only [endHold, there, held]

theorem takeAt_of_free (there : t.watchEntry i = some e) (free : e.hold = none) : t.takeAt i c = t.applyAt i c := by
  simp only [takeAt, there, free]

theorem takeAt_of_held {h : Hold} (there : t.watchEntry i = some e) (held : e.hold = some h) :
    t.takeAt i c = t.pend i e h c := by
  simp only [takeAt, there, held]

end Site

/-! ### A contribution of a key (R167, R177) -/

/-- The contribution is a PASSAGE or a RESOLUTION of the key and grade. -/
abbrev Contribution.Of (c : Contribution) (k : WatchKey) (g : Grade) : Prop :=
  (∃ n d f v, c = .passage k n d g f v) ∨ c = .resolution k g

namespace Site

variable {t : Site} {i : Fin 512} {c : Contribution} {k : WatchKey} {g : Grade}

theorem contribute_of_key (keyed : c.Of k g) : t.contribute c = t.takeKeyed k g c := by
  rcases keyed with ⟨n, d, f, v, rfl⟩ | rfl <;> rfl

theorem contribute_of_found (keyed : c.Of k g) (found : t.findKey k = some i) : t.contribute c = t.takeAt i c := by
  rw [contribute_of_key keyed]
  unfold takeKeyed
  rw [found]

theorem contribute_of_absent (keyed : c.Of k g) (absent : t.findKey k = none) : t.contribute c = t.raiseEntry k g c := by
  rw [contribute_of_key keyed]
  unfold takeKeyed
  rw [absent]

/-- A contribution of a key whose entry no port holds: applied to its entry, or raising one (R177). -/
theorem takeUnheld_of_key (keyed : c.Of k g) :
    t.takeUnheld c = (t.findKey k).elim (t.raiseEntry k g c) (fun j => t.applyAt j c) := by
  rcases keyed with ⟨n, d, f, v, rfl⟩ | rfl <;> dsimp only [takeUnheld] <;> cases t.findKey k <;> rfl

theorem takeUnheld_of_found (keyed : c.Of k g) (found : t.findKey k = some i) : t.takeUnheld c = t.applyAt i c := by
  rw [takeUnheld_of_key keyed, found, Option.elim_some]

theorem takeUnheld_of_absent (keyed : c.Of k g) (absent : t.findKey k = none) : t.takeUnheld c = t.contribute c := by
  rw [takeUnheld_of_key keyed, contribute_of_absent keyed absent, absent, Option.elim_none]

end Site

namespace Machine

/-- Settles O52: a contribution is taken by its key (`Site.contribute_of_found`, `Site.contribute_of_absent`), raises an entry by
grade and room (`Site.raiseEntry_of_room` and its neighbours), and at an entry is applied or pended by its hold
(`Site.takeAt_of_free`, `Site.takeAt_of_held`). -/
theorem contributionsTaken : Obligations.ContributionsTaken := by
  refine ⟨fun t i => Site.lowestFree_eq_some_iff, fun t k => Site.findKey_eq_none_iff, Site.freeCount_eq,
    fun t k g c keyed => ?_, fun t i e c there => ⟨fun free => Site.takeAt_of_free there free, fun h held few => ?_,
      fun h held full => ?_⟩⟩
  · intro r refusal fresh room
    refine ⟨fun absent low => ?_, fun absent high full => ?_, fun absent high admits i free => ?_,
      fun i found => Site.contribute_of_found keyed found⟩
    · exact (Site.contribute_of_absent keyed absent).trans (Site.raiseEntry_of_low low)
    · exact (Site.contribute_of_absent keyed absent).trans (Site.raiseEntry_of_no_room high (mt Site.admitted_iff.1 full))
    · exact (Site.contribute_of_absent keyed absent).trans (Site.raiseEntry_of_room high (Site.admitted_iff.2 admits) free)
  · rw [Site.takeAt_of_held there held]
    exact if_pos few
  · rw [Site.takeAt_of_held there held, Site.pend, if_neg (Nat.not_lt.2 full), Site.breakHold,
      Site.endHold_of_held there held]
    rfl

end Machine

end Sys2Proof
end

section
/-! PROOF. A contribution applied to an entry: counts, lists and trend, the level, the pending ones in arrival order. -/

namespace Sys2Proof

/-! ### A trend (R170) -/

/-- The head of a list, newest first, rises twice by the step. -/
abbrev Rises (step : Int) (l : List Int) : Prop := ∃ p q r rest, l = p :: q :: r :: rest ∧ step ≤ p - q ∧ step ≤ q - r

theorem risingTrend_iff {step : Int} {l : List Int} : risingTrend step l = true ↔ Rises step l := by
  match l with
  | [] | [_] | [_, _] => simp [risingTrend, Rises]
  | p :: q :: r :: rest =>
    rw [risingTrend, Bool.and_eq_true, decide_eq_true_eq, decide_eq_true_eq]
    refine ⟨fun ⟨up, upAgain⟩ => ⟨p, q, r, rest, rfl, up, upAgain⟩, ?_⟩
    rintro ⟨p', q', r', rest', same, up, upAgain⟩
    cases same
    exact ⟨up, upAgain⟩

theorem trendAfter_iff {step : Int} {v : Option Int} {l : List Int} :
    trendAfter step v l = true ↔ v.isSome = true ∧ Rises step l := by
  rw [trendAfter, Bool.and_eq_true, risingTrend_iff]

namespace WatchEntry

variable {e : WatchEntry} {b : SettingsBlock} {g : Grade}

/-! ### The counts (R168, R172) -/

theorem countGrade_of_high (high : 2 ≤ g.code) (deferred : Bool) :
    e.countGrade g deferred = { e with exceedances := bump e.exceedances, cleanRun := 0 } :=
  if_pos (g.atLeast_caution_iff_code.2 high)

theorem countGrade_of_deferred (low : g.code < 2) : e.countGrade g true = e :=
  (if_neg (mt g.atLeast_caution_iff_code.1 (Nat.not_le.2 low))).trans (if_pos rfl)

theorem countGrade_of_low (low : g.code < 2) : e.countGrade g false = { e with cleanRun := min 31 (e.cleanRun + 1) } :=
  (if_neg (mt g.atLeast_caution_iff_code.1 (Nat.not_le.2 low))).trans (if_neg Bool.false_ne_true)

/-- A grade counted touches the exceedances and the clean run alone. -/
theorem countGrade_eq (e : WatchEntry) (g : Grade) (deferred : Bool) :
    ∃ n k, e.countGrade g deferred = { e with exceedances := n, cleanRun := k } := by
  rcases Nat.lt_or_ge g.code 2 with low | high
  · cases deferred
    · exact ⟨_, _, countGrade_of_low low⟩
    · exact ⟨_, _, countGrade_of_deferred low⟩
  · exact ⟨_, _, countGrade_of_high high _⟩

/-- The entry with the fields of a PASSAGE placed, before its counts (R168). -/
def placed (e : WatchEntry) (w : Word16) (n : Serial) (d : Date) (v : SideValues) : WatchEntry :=
  { e with
    passages := bump e.passages
    lastSerial := some n
    lastDate := some d
    unseen := 0
    stale := false
    sweepStamp := w
    rise1 := placeValue v.rise1 e.rise1
    rise2 := placeValue v.rise2 e.rise2
    excess1 := placeValue v.excess1 e.excess1
    excess2 := placeValue v.excess2 e.excess2 }

theorem takePassage_eq (e : WatchEntry) (w : Word16) (n : Serial) (d : Date) (g : Grade) (deferred : Bool) (v : SideValues) :
    e.takePassage w n d g deferred v = (e.placed w n d v).countGrade g deferred := rfl

/-- The counts of a grade that is not deferred (R172). -/
theorem countGrade_false (e : WatchEntry) (g : Grade) : e.countGrade g false =
    { e with
      exceedances := if 2 ≤ g.code then bump e.exceedances else e.exceedances
      cleanRun := if 2 ≤ g.code then 0 else min 31 (e.cleanRun + 1) } := by
  by_cases high : 2 ≤ g.code
  · rw [countGrade_of_high high, if_pos high, if_pos high]
  · rw [countGrade_of_low (Nat.not_le.1 high), if_neg high, if_neg high]

/-! ### A SWEEP contribution (R186) -/

theorem takeSweep_of_short {n : Word16} (short : ¬b.nat .forgetSweeps ≤ min 999 (e.unseen + 1)) :
    e.takeSweep b n = some { e with unseen := min 999 (e.unseen + 1), sweepStamp := n } :=
  if_neg short

theorem takeSweep_of_dropped {n : Word16} (long : b.nat .forgetSweeps ≤ min 999 (e.unseen + 1))
    (dropped : e.origin = .raised ∧ e.level = .observe) : e.takeSweep b n = none :=
  (if_pos long).trans (if_pos dropped)

theorem takeSweep_of_stale {n : Word16} (long : b.nat .forgetSweeps ≤ min 999 (e.unseen + 1))
    (stays : ¬(e.origin = .raised ∧ e.level = .observe)) :
    e.takeSweep b n = some { e with unseen := min 999 (e.unseen + 1), sweepStamp := n, stale := true } :=
  (if_pos long).trans (if_neg stays)

theorem apply_sweep_of_new {w n : Word16} {left : Option WatchEntry} (new : e.sweepStamp ≠ n)
    (swept : e.revise.takeSweep b n = left) : e.apply b w (.sweep n) = some ⟨left, false⟩ := by
  rw [← swept]
  exact if_neg new

/-! ### The level reconsidered (R169) -/

theorem raiseLevel_of_same {l : WatchLevel} (same : e.level = l) : e.raiseLevel l = ⟨some e, false⟩ := if_pos same

theorem raiseLevel_of_other {l : WatchLevel} (other : e.level ≠ l) :
    e.raiseLevel l = ⟨some { e with level := l, cleanRun := 0 }, true⟩ := if_neg other

theorem reconsider_of_stop (trend : Bool) : e.reconsider b .stop trend = e.raiseLevel .withdraw := if_pos rfl

theorem reconsider_of_alarm (restricted : e.level = .restrict) (trend : Bool) :
    e.reconsider b .alarm trend = e.raiseLevel .withdraw :=
  (if_neg (by decide)).trans (if_pos ⟨restricted, rfl⟩)

/-- The exceedances or a trend that raise an entry from OBSERVE (R169). -/
abbrev Escalates (e : WatchEntry) (b : SettingsBlock) (trend : Bool) : Prop :=
  b.nat .escalateCount ≤ e.exceedances.toNat ∨ trend = true

theorem reconsider_of_many {trend : Bool} (below : g ≠ .stop) (observed : e.level = .observe) (many : e.Escalates b trend) :
    e.reconsider b g trend = e.raiseLevel .restrict := by
  have free : ¬(e.level = .restrict ∧ g = .alarm) := fun restricted => by rw [observed] at restricted; exact nomatch restricted.1
  rw [reconsider, if_neg below, if_neg free, if_pos ⟨observed, many⟩]

/-- With no rise, the clean run decides. -/
theorem reconsider_of_no_rise {trend : Bool} (below : g ≠ .stop) (eased : g ≠ .alarm ∨ e.level ≠ .restrict)
    (few : e.level ≠ .observe ∨ ¬e.Escalates b trend) : e.reconsider b g trend =
      if b.nat .clearRun ≤ e.cleanRun ∧ e.floorLevel.code < e.level.code then
        ⟨some { e with level := e.level.lower, cleanRun := 0, exceedances := 0#16 }, false⟩
      else if b.nat .clearRun ≤ e.cleanRun ∧ e.origin = .raised ∧ e.level = .observe then ⟨none, false⟩
      else ⟨some e, false⟩ := by
  have calm : ¬(e.level = .restrict ∧ g = .alarm) := fun rise => eased.elim (· rise.2) (· rise.1)
  have still : ¬(e.level = .observe ∧ e.Escalates b trend) := fun rise => few.elim (· rise.1) (· rise.2)
  have gone : (e.origin = .raised ∧ e.level = .observe ∧ b.nat .clearRun ≤ e.cleanRun) ↔
      (b.nat .clearRun ≤ e.cleanRun ∧ e.origin = .raised ∧ e.level = .observe) := by tauto
  rw [reconsider, if_neg below, if_neg calm, if_neg still]
  simp only [gone, WatchLevel.above, decide_eq_true_eq]

end WatchEntry

/-! ### Pending contributions in arrival order (R177) -/

namespace Site

variable {t : Site} {i : Fin 512} {c : Contribution}

theorem applyPending_of_stands (cs : List Contribution) (stands : (t.applyAt i c).watchEntry i ≠ none) :
    applyPending i (c :: cs) true t = applyPending i cs true (t.applyAt i c) := by
  rw [applyPending, Option.isSome_iff_ne_none.2 stands]

theorem applyPending_of_retired (cs : List Contribution) (retired : (t.applyAt i c).watchEntry i = none) :
    applyPending i (c :: cs) true t = applyPending i cs false (t.applyAt i c) := by
  rw [applyPending, retired, Option.isSome_none]

end Site

namespace Machine

/-- Settles O53: what is written is `Site.putApplied`; the counts are those of `WatchEntry.countGrade`, the trend is
`trendAfter_iff`, the level is reconsidered case by case (`WatchEntry.reconsider_of_stop` to `WatchEntry.reconsider_of_no_rise`),
and pending contributions follow one another by `Site.applyPending_of_stands` and `Site.applyPending_of_retired`. -/
theorem contributionsApplied : Obligations.ContributionsApplied := by
  refine ⟨fun t i e c there => ?_, fun t i c cs => ?_, fun e b w k g => ?_, fun e b w n => ?_, fun x b v => ?_,
    fun e b w k n d g f v => ?_, fun e b g trend => ?_⟩
  · refine ⟨fun a applied => ⟨fun x stays => ?_, fun retired => ?_⟩, fun idle => Site.applyAt_of_none there idle⟩
    · exact (Site.applyAt_of_some there applied).trans (Site.putApplied_of_entry stays)
    · exact (Site.applyAt_of_some there applied).trans (Site.putApplied_of_retired retired)
  · refine ⟨rfl, Site.applyPending_of_stands cs, Site.applyPending_of_retired cs, rfl, fun n => rfl,
      fun k g keyed => ⟨fun j found => ?_, fun absent => ?_⟩⟩
    · rw [Site.applyPending, Site.takeUnheld_of_found keyed found]
    · rw [Site.applyPending, Site.takeUnheld_of_absent keyed absent]
  · rw [WatchEntry.apply, WatchEntry.countGrade_false]
    rfl
  · intro x long dropped
    refine ⟨fun seen => if_pos seen, fun new short => ?_, fun new old drop => ?_, fun new old stays => ?_⟩
    · exact WatchEntry.apply_sweep_of_new new (WatchEntry.takeSweep_of_short short)
    · exact WatchEntry.apply_sweep_of_new new (WatchEntry.takeSweep_of_dropped old drop)
    · exact WatchEntry.apply_sweep_of_new new (WatchEntry.takeSweep_of_stale old stays)
  · simp only [WatchEntry.trend, Bool.or_eq_true, trendAfter_iff, or_assoc]
  · intro x
    obtain ⟨m, run, counted⟩ := (e.placed w n d v).countGrade_eq g f
    have fields : x = { e.placed w n d v with exceedances := m, cleanRun := run, revision := e.revision + 1#16 } :=
      congrArg WatchEntry.revise ((e.takePassage_eq w n d g f v).trans counted)
    have counts {y : WatchEntry} (h : (e.placed w n d v).countGrade g f = y) :
        x.exceedances = y.exceedances ∧ x.cleanRun = y.cleanRun := by rw [← h]; exact ⟨rfl, rfl⟩
    have applied : e.apply b w (.passage k n d g f v) = some (x.reconsider b g (x.trend b v)) := rfl
    clear_value x
    subst fields
    refine ⟨applied, rfl, rfl, rfl, rfl, rfl, rfl, rfl, rfl, rfl, rfl, rfl, rfl, rfl, rfl, rfl, rfl, rfl, rfl,
      fun high => counts (WatchEntry.countGrade_of_high high f), fun low deferred => ?_, fun low sure => ?_⟩
    · subst deferred
      exact counts (y := e.placed w n d v) (WatchEntry.countGrade_of_deferred low)
    · subst sure
      exact counts (WatchEntry.countGrade_of_low low)
  · intro r up many still
    refine ⟨fun stop other => ?_, fun stop same => ?_, fun alarm restricted => ?_, fun below observed rise => ?_,
      fun below eased few => ?_⟩
    · subst stop
      exact (WatchEntry.reconsider_of_stop trend).trans (WatchEntry.raiseLevel_of_other other)
    · subst stop
      exact (WatchEntry.reconsider_of_stop trend).trans (WatchEntry.raiseLevel_of_same same)
    · subst alarm
      exact (WatchEntry.reconsider_of_alarm restricted trend).trans
        (WatchEntry.raiseLevel_of_other (by rw [restricted]; decide))
    · exact (WatchEntry.reconsider_of_many below observed rise).trans
        (WatchEntry.raiseLevel_of_other (by rw [observed]; decide))
    · intro low long down gone
      have decided := WatchEntry.reconsider_of_no_rise below eased few
      refine ⟨fun falls => decided.trans (if_pos falls), fun stands leaves => ?_, fun stands stays => ?_⟩
      · exact decided.trans ((if_neg stands).trans (if_pos leaves))
      · exact decided.trans ((if_neg stands).trans (if_neg stays))

end Machine

end Sys2Proof
end

section
/-! PROOF. The sweep: its starts and its visits; a second of the clock. -/

namespace Sys2Proof

namespace Site

variable {t : Site} {i : Fin 512}

/-! ### A sweep start (R187) -/

theorem takeSweepStart_of_busy (busy : t.watch.sweepState ≠ .idle) : t.takeSweepStart = t := if_neg busy

theorem takeSweepStart_of_open (idle : t.watch.sweepState = .idle) (isOpen : t.passageOpen = true) :
    t.takeSweepStart = t.setStartPending true :=
  (if_pos idle).trans (if_pos isOpen)

theorem takeSweepStart_of_quiet (idle : t.watch.sweepState = .idle) (quiet : t.passageOpen = false) :
    t.takeSweepStart = t.startSweep :=
  (if_pos idle).trans (if_neg (Bool.eq_false_iff.1 quiet))

/-! ### SWEEP_NOW (R188) -/

theorem sweepOutcome_of_busy (busy : t.watch.sweepState ≠ .idle) : t.sweepOutcome = 2 := if_pos busy

theorem sweepOutcome_of_open (idle : t.watch.sweepState = .idle) (isOpen : t.passageOpen = true) : t.sweepOutcome = 1 :=
  (if_neg (not_not_intro idle)).trans (if_pos isOpen)

theorem sweepOutcome_of_quiet (idle : t.watch.sweepState = .idle) (quiet : t.passageOpen = false) : t.sweepOutcome = 0 :=
  (if_neg (not_not_intro idle)).trans (if_neg (Bool.eq_false_iff.1 quiet))

theorem sweepNow_of_unset (unset : t.clock.isSet = false) : t.sweepNow = t.refuse .wrongState := if_pos unset

/-- SWEEP_NOW answers its outcome and the sweep serial that it leaves. -/
theorem sweepNow_of_set {k : Nat} {u : Site} (isSet : t.clock.isSet = true) (outcome : t.sweepOutcome = k)
    (taken : t.takeSweepStart = u) : t.sweepNow = u.answerOk (byteField k ++ wordField u.watch.sweepSerial) := by
  rw [← outcome, ← taken]
  exact if_neg (by rw [isSet]; decide)

/-! ### A visit (R189) -/

theorem endHold_cursor (t : Site) (i : Fin 512) : (t.endHold i).watch.cursor = t.watch.cursor := by
  unfold endHold
  split
  · split <;> rfl
  · rfl

theorem breakHold_cursor (t : Site) (i : Fin 512) (h : Hold) (cs : List Contribution) :
    (t.breakHold i h cs).watch.cursor = t.watch.cursor :=
  (AppliedOnly.applyPending i cs true _ (.refl _)).cursor.trans (t.endHold_cursor i)

theorem takeAt_cursor (t : Site) (i : Fin 512) (c : Contribution) : (t.takeAt i c).watch.cursor = t.watch.cursor := by
  unfold takeAt
  split
  · split
    · unfold pend
      split
      · rfl
      · exact t.breakHold_cursor _ _ _
    · exact ((AppliedOnly.refl t).applyAt i c).cursor
  · rfl

/-- What a visit does at its slot leaves the cursor where it was. -/
theorem visit_cursor (t : Site) (i : Fin 512) : (t.visit i).watch.cursor = t.watch.cursor := by
  unfold visit
  split
  · split
    · rfl
    · exact t.takeAt_cursor _ _
  · rfl

theorem sweepVisit_of_other (still : t.watch.sweepState ≠ .running) : t.sweepVisit = t := if_neg still

theorem sweepVisit_of_running (running : t.watch.sweepState = .running) (here : i.val = t.watch.cursor) :
    t.sweepVisit = (t.visit i).advanceCursor := by
  have inside : t.watch.cursor < 512 := here ▸ i.isLt
  rw [sweepVisit, if_pos running, dif_pos inside]
  congr 2
  exact Fin.ext here.symm

theorem advanceCursor_of_lt (before : t.watch.cursor < 511) :
    t.advanceCursor = t.setWatch { t.watch with cursor := t.watch.cursor + 1 } := if_pos before

theorem advanceCursor_of_last (last : ¬t.watch.cursor < 511) :
    t.advanceCursor = (t.setWatch { t.watch with cursor := 0, sweepState := .idle }).raise .sweepDone := if_neg last

end Site

/-! ### The calendar (R212) -/

theorem monthLength_eq (y m : Nat) : monthLength y m =
    if m = 2 then (if y % 4 = 0 then 29 else 28) else if m = 4 ∨ m = 6 ∨ m = 9 ∨ m = 11 then 30 else 31 := by
  unfold monthLength
  split
  · simp only [leapYear, beq_iff_eq, if_true]
  all_goals simp_all

/-! ### A second of the clock (R212, R213, R216) -/

namespace Site

variable {t : Site} {d : DateTime}

/-- The site with the clock at a reading. -/
def atReading (t : Site) (d : DateTime) : Site := t.setClock { t.clock with reading := d }

/-- The reading is a scheduled sweep start of the set clock (R216). -/
abbrev Schedules (t : Site) (d : DateTime) : Prop :=
  t.clock.isSet = true ∧ d.second = 0 ∧ 60 * d.hour + d.minute = t.setting .sweepTime ∧
    (BitVec.ofNat 7 (t.setting .sweepDays)).getLsbD d.weekday = true

theorem schedules_iff : ((t.atReading d).clock.isSet && (t.atReading d).scheduledNow) = true ↔ t.Schedules d := by
  have minute : d.hour * 60 + d.minute = 60 * d.hour + d.minute := by omega
  show (t.clock.isSet && (d.second == 0 && d.hour * 60 + d.minute == t.setting .sweepTime &&
    (BitVec.ofNat 7 (t.setting .sweepDays)).getLsbD d.weekday)) = true ↔ _
  simp only [Bool.and_eq_true, beq_iff_eq, minute, and_assoc]

theorem advanceReading_of_past (past : 2099 < t.clock.reading.nextSecond.year) : t.advanceReading = t.clockWrap := if_pos past

theorem advanceReading_of_other (within : t.clock.reading.nextSecond.year ≤ 2099)
    (unscheduled : ¬t.Schedules t.clock.reading.nextSecond) : t.advanceReading = t.atReading t.clock.reading.nextSecond :=
  (if_neg (Nat.not_lt.2 within)).trans (if_neg (mt schedules_iff.1 unscheduled))

theorem advanceReading_of_scheduled (within : t.clock.reading.nextSecond.year ≤ 2099)
    (scheduled : t.Schedules t.clock.reading.nextSecond) :
    t.advanceReading = (t.atReading t.clock.reading.nextSecond).takeSweepStart :=
  (if_neg (Nat.not_lt.2 within)).trans (if_pos (schedules_iff.2 scheduled))

theorem clockSecond_of_held (held : t.mode = .held) : t.clockSecond = t := if_pos held

theorem clockSecond_of_powered (powered : t.mode ≠ .held) : t.clockSecond = t.nextSpan.advanceReading := if_neg powered

end Site

namespace Machine

theorem exec_sweepVisit {s : State} {r : Site} (running : s.Running) (h : s.site.sweepVisit = r) :
    exec .sweepVisit s = .next (s.setSite r) := by
  rw [← h, ← Site.whenRunning_of_running running Site.sweepVisit]
  rfl

theorem exec_clockSecond {s : State} {r : Site} (h : s.site.clockSecond = r) : exec .clockSecond s = .next (s.setSite r) := by
  rw [← h]
  rfl

/-- Settles O51: SWEEP_NOW answers by its outcome (`Site.sweepNow_of_set`), and a visit by its cursor, which what it does at its
slot leaves alone (`Site.visit_cursor`). -/
theorem sweepRows : Obligations.SweepRows := by
  refine ⟨fun s p tag body takes => ?_, fun s running => ⟨fun still => ?_, fun i sweeping here => ?_⟩⟩
  · intro t w gives started
    have granted {k : Nat} {u : Site} (h : t.sweepNow = u.answerOk (byteField k ++ wordField u.watch.sweepSerial)) :
        gives k u.watch.sweepSerial u := request_granted takes tag h
    refine ⟨fun unset => request_refused takes tag (Site.sweepNow_of_unset unset), fun isSet busy => ?_,
      fun isSet idle isOpen => ?_, fun isSet idle quiet => ?_⟩
    · exact granted (Site.sweepNow_of_set isSet (Site.sweepOutcome_of_busy busy) (Site.takeSweepStart_of_busy busy))
    · exact granted
        (Site.sweepNow_of_set isSet (Site.sweepOutcome_of_open idle isOpen) (Site.takeSweepStart_of_open idle isOpen))
    · exact granted
        (Site.sweepNow_of_set isSet (Site.sweepOutcome_of_quiet idle quiet) (Site.takeSweepStart_of_quiet idle quiet))
  · exact exec_sweepVisit running (Site.sweepVisit_of_other still)
  · intro visited
    have slot : visited = s.site.visit i := by
      dsimp only [visited, Site.visit]
      cases s.site.watchEntry i <;> rfl
    have cursor : visited.watch.cursor = i.val := by rw [slot, Site.visit_cursor, here]
    have visit : s.site.sweepVisit = visited.advanceCursor := by rw [Site.sweepVisit_of_running sweeping here, slot]
    refine ⟨fun before => ?_, fun last => ?_⟩
    · exact exec_sweepVisit running (visit.trans (Site.advanceCursor_of_lt (by omega)))
    · exact exec_sweepVisit running (visit.trans (Site.advanceCursor_of_last (by omega)))

/-- Settles O54: the next reading by the calendar (`monthLength_eq`), then whether it lies past 2099 or is a scheduled start
(`Site.advanceReading_of_past` and its neighbours), which is taken as any sweep start is. -/
theorem clockSecondRows : Obligations.ClockSecondRows := by
  intro s t c d w k length days midnight next reads starts gives
  have reading : next = d.nextSecond := by
    rw [DateTime.nextSecond, DateTime.nextDay, monthLength_eq]
  have second {r : Site} (powered : t.mode ≠ .held) (h : t.nextSpan.advanceReading = r) : gives r :=
    exec_clockSecond ((Site.clockSecond_of_powered powered).trans h)
  have read : reads next c.isSet = t.nextSpan.atReading d.nextSecond := by rw [reading]; rfl
  have scheduled : starts ↔ t.nextSpan.Schedules d.nextSecond := by rw [← reading]; exact Iff.rfl
  have start (within : next.year ≤ 2099) (due : starts) : t.nextSpan.advanceReading = (reads next c.isSet).takeSweepStart := by
    rw [read]
    exact Site.advanceReading_of_scheduled (reading ▸ within) (scheduled.1 due)
  refine ⟨fun held => ?_, fun powered past => ?_, fun powered within undue => ?_, fun powered within due busy => ?_,
    fun powered within due idle isOpen => ?_, fun powered within due idle quiet => ?_⟩
  · exact exec_clockSecond (Site.clockSecond_of_held held)
  · exact second powered (Site.advanceReading_of_past (reading ▸ past))
  · rw [read]
    exact second powered (Site.advanceReading_of_other (reading ▸ within) (mt scheduled.2 undue))
  · exact second powered ((start within due).trans (Site.takeSweepStart_of_busy busy))
  · exact second powered ((start within due).trans (Site.takeSweepStart_of_open idle isOpen))
  · exact second powered ((start within due).trans (Site.takeSweepStart_of_quiet idle quiet))

end Machine

end Sys2Proof
end

section
/-! PROOF. The reads of the watch table. -/

namespace Sys2Proof

/-! ### Watch levels of a request (R182 to R184) -/

namespace WatchLevel

theorem ofCode_eq_some_iff {n : Nat} {l : WatchLevel} : ofCode n = some l ↔ l.code = n := by
  refine ⟨fun h => ?_, fun h => by rw [← h]; cases l <;> rfl⟩
  unfold ofCode at h
  split at h <;> cases h <;> rfl

theorem code_le_two (l : WatchLevel) : l.code ≤ 2 := by cases l <;> decide

theorem ofCode_of_past {n : Nat} (past : 2 < n) : ofCode n = none := by
  refine Option.eq_none_iff_forall_not_mem.2 (fun l named => ?_)
  have code : l.code = n := ofCode_eq_some_iff.1 named
  have := l.code_le_two
  omega

theorem exists_ofCode {n : Nat} (inside : ¬2 < n) : ∃ l, ofCode n = some l := by
  interval_cases n <;> exact ⟨_, rfl⟩

end WatchLevel

namespace Site

variable {t : Site} {i : Fin 512} {e : WatchEntry} {l : WatchLevel} {body : List Byte}

/-! ### The forms of an entry (R180) -/

/-- A lease remaining in whole seconds, rounded up (log 51). -/
theorem leaseLeft_eq (t : Site) (h : Hold) : t.leaseLeft h = (h.expiry - t.now + 9999) / 10000 := by
  rw [leaseLeft, ceilDiv, Nat.add_sub_assoc (by decide)]

/-- The fields that both forms open with. -/
def entryHead (i : Fin 512) (e : WatchEntry) : List Byte :=
  leBytes 2 i.val ++ leBytes 8 e.key.tag.toNat ++ leBytes 1 e.key.index ++ leBytes 1 e.origin.code ++ leBytes 1 e.level.code ++
    optNat 1 (e.floor.map WatchLevel.code)

theorem entryHolder_eq (t : Site) (h : Option Hold) : t.entryHolder h =
    optField 3 (h.map (fun h => leBytes 1 h.port.code ++ leBytes 2 ((h.expiry - t.now + 9999) / 10000))) := by
  simp only [entryHolder, leaseLeft_eq, byteField]

theorem fullForm_eq (t : Site) (i : Fin 512) (e : WatchEntry) : t.fullForm i e =
    entryHead i e ++ valuesField e.rise1 ++ valuesField e.rise2 ++ valuesField e.excess1 ++ valuesField e.excess2 ++
      wordField e.passages ++ wordField e.exceedances ++ byteField e.cleanRun ++ optField 4 (e.lastSerial.map longField) ++
      optField 4 (e.lastDate.map dateField) ++ leBytes 2 e.unseen ++ yesNo e.stale ++ wordField e.sweepStamp ++
      wordField e.revision ++ byteField e.note.length ++ e.note ++ t.entryHolder e.hold ++ byteField e.pending.length := by
  unfold fullForm entryHead WatchKey.field noteField tagField byteField
  simp only [List.append_assoc]

theorem shortForm_eq (i : Fin 512) (e : WatchEntry) : e.shortForm i =
    entryHead i e ++ wordField e.revision ++ yesNo e.stale ++ optNat 1 (e.hold.map (fun h => h.port.code)) ++
      wordField e.passages ++ wordField e.exceedances ++ byteField e.cleanRun ++ leBytes 2 e.unseen ++
      byteField e.pending.length := by
  unfold WatchEntry.shortForm entryHead WatchKey.field tagField byteField
  simp only [List.append_assoc]

/-! ### WATCH_FIND (R181) -/

theorem watchFind_of_bad (past : 12 < natAt body 8 1) (single : natAt body 8 1 ≠ 255) :
    t.watchFind body = t.refuse .badValue :=
  (if_neg single).trans (if_pos past)

theorem watchFind_of_index (inside : natAt body 8 1 ≤ 12) :
    t.watchFind body = t.findOne { tag := tagAt body, index := natAt body 8 1 } :=
  (if_neg (by omega)).trans (if_neg (Nat.not_lt.2 inside))

theorem watchFind_of_all (all : natAt body 8 1 = 255) : t.watchFind body = t.findAll (tagAt body) := if_pos all

theorem findOne_of_absent {k : WatchKey} (absent : t.findKey k = none) : t.findOne k = t.refuse .notFound := by
  unfold findOne
  rw [absent]

theorem findOne_of_found {k : WatchKey} (found : t.findKey k = some i) (there : t.watchEntry i = some e) :
    t.findOne k = t.answerOk (t.fullForm i e) := by
  unfold findOne
  rw [found]
  dsimp only
  rw [there]

/-- The short forms of the entries of a tag code. -/
def shortForms (t : Site) (tag : TagCode) : List (List Byte) :=
  (List.range 13).filterMap (fun i => t.shortOf { tag := tag, index := i })

theorem findAll_of_none {tag : TagCode} (empty : t.shortForms tag = []) : t.findAll tag = t.refuse .notFound := by
  unfold findAll
  split
  · rfl
  · next nonempty => exact absurd empty nonempty

theorem findAll_of_some {tag : TagCode} (nonempty : t.shortForms tag ≠ []) :
    t.findAll tag = t.answerOk (listField (t.shortForms tag)) := by
  unfold findAll
  split
  · next empty => exact absurd empty nonempty
  · rfl

/-! ### WATCH_SCAN (R182) -/

/-- The slots from one on and below another whose entries a scan takes. -/
def taken (t : Site) (l : WatchLevel) (first n : Nat) : List (Fin 512) :=
  ((List.finRange 512).drop first).filter (fun i =>
    decide (i.val < n) && (t.watchEntry i).any (fun e => decide (l.code ≤ e.level.code)))

/-- The full form of what a slot holds. -/
def formAt (t : Site) (i : Fin 512) : List Byte :=
  match t.watchEntry i with
  | some e => t.fullForm i e
  | none => []

theorem drop_watchIds {first : Nat} (inside : first < 512) :
    watchIds.drop first = ⟨first, inside⟩ :: watchIds.drop (first + 1) := by
  rw [List.drop_eq_getElem_cons (by simpa [watchIds] using inside)]
  simp [watchIds]

/-- A slot is taken where it holds an entry at or above the level. -/
theorem atLevel_isSome (t : Site) (l : WatchLevel) (i : Fin 512) :
    (t.atLevel l i).isSome = (t.watchEntry i).any (fun e => decide (l.code ≤ e.level.code)) := by
  have level (e : WatchEntry) : (!l.above e.level) = decide (l.code ≤ e.level.code) := by
    rw [WatchLevel.above, Bool.eq_iff_iff, Bool.not_eq_true', decide_eq_false_iff_not, Nat.not_lt, decide_eq_true_iff]
  simp only [atLevel, Option.isSome_filter, level]

theorem taken_eq {first : Nat} (inside : first < 512) (n : Nat) : t.taken l first n =
    if first < n ∧ (t.atLevel l ⟨first, inside⟩).isSome = true then ⟨first, inside⟩ :: t.taken l (first + 1) n
    else t.taken l (first + 1) n := by
  have run : (List.finRange 512).drop first = ⟨first, inside⟩ :: (List.finRange 512).drop (first + 1) := drop_watchIds inside
  simp only [taken, run, List.filter_cons, atLevel_isSome, Bool.and_eq_true, decide_eq_true_eq]

/-- A slot passed by is not among those taken. -/
theorem taken_of_passed {first : Nat} (inside : first < 512) (passed : t.atLevel l ⟨first, inside⟩ = none) (n : Nat) :
    t.taken l first n = t.taken l (first + 1) n := by
  rw [taken_eq inside, passed]
  exact if_neg (fun h => Bool.false_ne_true h.2)

theorem taken_of_atLevel {first n : Nat} (inside : first < 512) (here : t.atLevel l ⟨first, inside⟩ = some e) (below : first < n) :
    t.taken l first n = ⟨first, inside⟩ :: t.taken l (first + 1) n := by
  rw [taken_eq inside, here]
  exact if_pos ⟨below, rfl⟩

/-- Below its first slot a scan takes nothing. -/
theorem taken_self {first n : Nat} (le : n ≤ first) : t.taken l first n = [] := by
  rw [taken, List.filter_eq_nil_iff]
  intro i mem
  obtain ⟨k, hk, rfl⟩ := List.mem_drop_iff_getElem.1 mem
  have far : ¬first + k < n := by omega
  simp [far]

/-- A scan from a slot on has taken `count` entries and stopped behind the last of them, or has come to the end of the table; its
forms are those of the entries below its next slot. -/
structure ScannedFrom (t : Site) (l : WatchLevel) (first count : Nat) (r : Scan) : Prop where
  forms : r.forms = (t.taken l first r.next).map t.formAt
  first_le : first ≤ r.next
  next_le : r.next ≤ 512
  stops : r.next = 512 ∧ (t.taken l first 512).length < count ∨
    (t.taken l first r.next).length = count ∧ (count = 0 → r.next = first) ∧
      (0 < count → first < r.next ∧ (t.taken l first (r.next - 1)).length < count)

/-- A scan of no entry stops at once. -/
theorem scannedFrom_zero {first : Nat} (inside : first ≤ 512) (t : Site) (l : WatchLevel) :
    t.ScannedFrom l first 0 { forms := [], next := first } := by
  have nothing : t.taken l first first = [] := taken_self le_rfl
  exact ⟨by simp only [nothing, List.map_nil], le_rfl, inside,
    .inr ⟨congrArg List.length nothing, fun _ => rfl, fun more => absurd more (Nat.lt_irrefl 0)⟩⟩

/-- At the end of the table a scan finds no more. -/
theorem scannedFrom_end (t : Site) (l : WatchLevel) (count : Nat) :
    t.ScannedFrom l 512 (count + 1) { forms := [], next := 512 } := by
  have nothing : t.taken l 512 512 = [] := taken_self le_rfl
  exact ⟨by simp only [nothing, List.map_nil], le_rfl, le_rfl, .inl ⟨rfl, by rw [nothing]; exact Nat.succ_pos count⟩⟩

/-- A slot passed by leaves the scan to the slots behind it. -/
theorem ScannedFrom.pass {first count : Nat} {r : Scan} (inside : first < 512)
    (passed : t.atLevel l ⟨first, inside⟩ = none) (rest : t.ScannedFrom l (first + 1) (count + 1) r) :
    t.ScannedFrom l first (count + 1) r := by
  have same := taken_of_passed (t := t) inside passed
  have past : first < r.next := rest.first_le
  refine ⟨by rw [same]; exact rest.forms, past.le, rest.next_le, ?_⟩
  refine rest.stops.imp (fun ⟨last, few⟩ => ⟨last, by rw [same]; exact few⟩)
    (fun ⟨full, _, stop⟩ => ⟨by rw [same]; exact full, fun zero => absurd zero (Nat.succ_ne_zero count), fun _ => ⟨past, ?_⟩⟩)
  rw [same]
  exact (stop (Nat.succ_pos count)).2

/-- A slot taken, the slots behind it give the rest. -/
theorem ScannedFrom.take {first count : Nat} {r : Scan} (inside : first < 512)
    (here : t.atLevel l ⟨first, inside⟩ = some e) (rest : t.ScannedFrom l (first + 1) count r) :
    t.ScannedFrom l first (count + 1) { r with forms := t.fullForm ⟨first, inside⟩ e :: r.forms } := by
  have joins {n : Nat} (below : first < n) := taken_of_atLevel (t := t) inside here below
  have form : t.formAt ⟨first, inside⟩ = t.fullForm ⟨first, inside⟩ e := by
    rw [formAt, (Option.filter_eq_some_iff.1 here).1]
  have past : first < r.next := rest.first_le
  refine ⟨?_, past.le, rest.next_le, ?_⟩
  · show _ = (t.taken l first r.next).map t.formAt
    rw [joins past, List.map_cons, form, rest.forms]
  · refine rest.stops.imp (fun ⟨last, few⟩ => ⟨last, ?_⟩)
      (fun ⟨full, nextSlot, more⟩ => ⟨?_, fun zero => absurd zero (Nat.succ_ne_zero count), fun _ => ⟨past, ?_⟩⟩)
    · rw [joins inside, List.length_cons]
      omega
    · show (t.taken l first r.next).length = count + 1
      rw [joins past, List.length_cons, full]
    · show (t.taken l first (r.next - 1)).length < count + 1
      rcases Nat.eq_zero_or_pos count with zero | pos
      · rw [taken_self (by rw [nextSlot zero, Nat.add_sub_cancel])]
        exact Nat.succ_pos count
      · obtain ⟨behind, few⟩ := more pos
        rw [joins (by omega), List.length_cons]
        omega

theorem scanSlots_scannedFrom (t : Site) (l : WatchLevel) {first : Nat} (inside : first ≤ 512) (count : Nat) :
    t.ScannedFrom l first count (t.scanSlots l count (watchIds.drop first)) := by
  induction left : 512 - first generalizing first count with
  | zero =>
    have last : first = 512 := by omega
    subst last
    have empty : watchIds.drop 512 = [] := List.drop_of_length_le (by simp [watchIds])
    rw [empty]
    cases count with
    | zero => exact scannedFrom_zero inside t l
    | succ k => exact t.scannedFrom_end l k
  | succ d ih =>
    have before : first < 512 := by omega
    rw [drop_watchIds before]
    cases count with
    | zero => exact scannedFrom_zero inside t l
    | succ k =>
      unfold scanSlots
      split
      · next e here => exact (ih (by omega) k (by omega)).take before here
      · next passed => exact (ih (by omega) (k + 1) (by omega)).pass before passed

/-- The level and range that R182 refuses with BAD_VALUE. -/
abbrev BadScan (body : List Byte) : Prop :=
  511 < natAt body 0 2 ∨ natAt body 2 1 < 1 ∨ 8 < natAt body 2 1 ∨ 2 < natAt body 3 1

theorem watchScan_of_bad (bad : BadScan body) : t.watchScan body = t.refuse .badValue := by
  unfold watchScan
  dsimp only
  split
  · rfl
  · next l named =>
    have inside : ¬2 < natAt body 3 1 := fun past => by rw [WatchLevel.ofCode_of_past past] at named; cases named
    exact if_pos (by omega)

theorem watchScan_of_good (good : ¬(511 < natAt body 0 2 ∨ natAt body 2 1 < 1 ∨ 8 < natAt body 2 1))
    (named : l.code = natAt body 3 1) :
    let r := t.scanSlots l (natAt body 2 1) (watchIds.drop (natAt body 0 2))
    t.watchScan body = t.answerOk (t.scanHeading ++ listField r.forms ++ leBytes 2 r.next) := by
  simp only [watchScan, WatchLevel.ofCode_eq_some_iff.2 named, if_neg good]

end Site

namespace Machine

/-- Settles O48: WATCH_FIND by its index and the entries of the key or tag code (`Site.findOne_of_found`, `Site.findAll_of_some`),
WATCH_SCAN by what it takes from its first slot on (`Site.scanSlots_scannedFrom`); the bytes are those of the forms
(`Site.fullForm_eq`, `Site.shortForm_eq`). -/
theorem watchReads : Obligations.WatchReads := by
  intro s p tag body t code index key count1 place values full brief short all
  have fullForm : full = t.fullForm := funext fun i => funext fun e => by
    rw [Site.fullForm_eq, Site.entryHolder_eq]
    unfold valuesField
    rw [listField_map, listField_map, listField_map, listField_map]
    rfl
  have shortForm : brief = fun i e => e.shortForm i := funext fun i => funext fun e => by
    rw [Site.shortForm_eq]
    rfl
  have forms : all = t.shortForms (tagAt body) := by
    show List.filterMap short _ = _
    simp only [short, shortForm]
    rfl
  refine ⟨fun takes => ?_, fun takes => ?_, fun i e => by rw [fullForm], fun k i => Site.watchEntry_of_findKey⟩
  · intro refuses gives
    have refused {st : Status} (h : t.watchFind body = t.refuse st) : refuses st := request_refused takes tag h
    have granted {b : List Byte} (h : t.watchFind body = t.answerOk b) : gives b := request_granted takes tag h
    refine ⟨fun past single => ?_, fun inside absent => ?_, fun i e inside found => ?_, fun every empty => ?_,
      fun every nonempty => ?_⟩
    · exact refused (Site.watchFind_of_bad past single)
    · exact refused ((Site.watchFind_of_index inside).trans (Site.findOne_of_absent (Site.findKey_eq_none_iff.2 absent)))
    · rw [fullForm]
      exact granted ((Site.watchFind_of_index inside).trans (Site.findOne_of_found found.1 found.2))
    · exact refused ((Site.watchFind_of_all every).trans (Site.findAll_of_none (forms ▸ empty)))
    · rw [forms] at nonempty ⊢
      exact granted ((Site.watchFind_of_all every).trans (Site.findAll_of_some nonempty))
  · intro first count refuses
    refine ⟨fun bad => request_refused takes tag (Site.watchScan_of_bad bad), fun l low least most named => ?_⟩
    intro found
    have scanned := t.scanSlots_scannedFrom l (first := first) (by omega) count
    have answer := Site.watchScan_of_good (t := t) (l := l) (body := body) (by omega) named
    dsimp only at answer
    refine ⟨(t.scanSlots l count (watchIds.drop first)).next, ?_, ?_⟩
    · refine scanned.stops.imp id (fun ⟨full, _, stop⟩ => ?_)
      obtain ⟨past, before⟩ := stop least
      exact ⟨past, scanned.next_le, full, before⟩
    · rw [scanned.forms, listField_map, ← List.append_assoc] at answer
      rw [fullForm]
      exact request_granted takes tag answer

end Machine

end Sys2Proof
end

section
/-! PROOF. WATCH_ENROL, WATCH_AMEND and WATCH_RETIRE. -/

namespace Sys2Proof

/-! ### The bytes of a request (R183 to R185) -/

theorem natAt_one_lt (body : List Byte) (i : Nat) : natAt body i 1 < 256 := by
  rcases bytes : body.drop i with _ | ⟨b, bs⟩
  · simp [natAt, bytes, leValue]
  · simpa [natAt, bytes, leValue] using b.isLt

theorem slotOf_of_past {n : Nat} (past : 511 < n) : slotOf n = none := dif_neg (by omega)

theorem slotOf_of_val {n : Nat} {i : Fin 512} (here : i.val = n) : slotOf n = some i := by
  subst here
  exact dif_pos i.isLt

/-- A note's length byte that R183 refuses: above 16, or not the number of bytes that follow (log 23). -/
abbrev BadNote (body : List Byte) (i : Nat) : Prop := 16 < natAt body i 1 ∨ body.length ≠ i + 1 + natAt body i 1

theorem readNote_of_bad {body : List Byte} {i : Nat} (bad : BadNote body i) : readNote body i = none :=
  if_neg (fun good => bad.elim (Nat.not_lt.2 good.1) (· good.2))

theorem readNote_of_good {body : List Byte} {i : Nat} (good : ¬BadNote body i) :
    readNote body i = some (body.drop (i + 1)) := by
  obtain ⟨short, long⟩ := not_or.1 good
  exact if_pos ⟨Nat.not_lt.1 short, not_not.1 long⟩

theorem readNote_eq_none_iff {body : List Byte} {i : Nat} : readNote body i = none ↔ BadNote body i := by
  refine ⟨fun h => by_contra fun good => ?_, readNote_of_bad⟩
  rw [readNote_of_good good] at h
  cases h

theorem readNote_eq_some {body note : List Byte} {i : Nat} (read : readNote body i = some note) : note = body.drop (i + 1) := by
  by_cases bad : BadNote body i
  · rw [readNote_of_bad bad] at read
    cases read
  · rw [readNote_of_good bad] at read
    exact (Option.some.inj read).symm

/-! ### An answer with a status and a body -/

theorem Machine.request_answered {s : State} {p : Port} {k : RequestKind} {body b : List Byte} {t : Site} {st : Status}
    {owner : Site → Handled} (takes : s.Takes p k body) (tag : Byte)
    (answer : owner s.site = t.answer { status := st, body := b }) :
    request k p tag body owner s = .next (s.after p tag k st b t) := by
  rw [request_of_takes takes, answer]
  rfl

namespace Site

variable {t : Site} {i : Fin 512} {e : WatchEntry} {p : Port} {body : List Byte} {k : WatchKey} {l : WatchLevel}

/-! ### A slot written twice -/

theorem watchSlot_putWatchSlot (t : Site) (i : Fin 512) (w : WatchSlot) : (t.putWatchSlot i w).watchSlot i = w := by
  simp [watchSlot, putWatchSlot]

theorem putWatchSlot_putWatchSlot (t : Site) (i : Fin 512) (w v : WatchSlot) :
    (t.putWatchSlot i w).putWatchSlot i v = t.putWatchSlot i v := by
  simp [putWatchSlot, setWatch]

/-- What a slot held does not matter once it is FREE. -/
theorem freeSlot_putEntry (t : Site) (i : Fin 512) (e : WatchEntry) : (t.putEntry i e).freeSlot i = t.freeSlot i := by
  rw [freeSlot, putEntry, watchSlot_putWatchSlot, putWatchSlot_putWatchSlot]
  rfl

/-! ### WATCH_ENROL (R183) -/

theorem enrol_of_found (note : List Byte) (found : t.findKey k = some i) (there : t.watchEntry i = some e) :
    t.enrol k l note = t.answer { status := .exists, body := slotRevision i e.revision } := by
  unfold enrol
  rw [found]
  dsimp only [revisionAt]
  rw [there]

theorem enrol_of_full (note : List Byte) (absent : t.findKey k = none) (full : t.lowestFree = none) :
    t.enrol k l note = t.refuse .full := by
  unfold enrol
  rw [absent, full]

theorem enrol_of_free (note : List Byte) (absent : t.findKey k = none) (free : t.lowestFree = some i) : t.enrol k l note =
    ((t.putEntry i (newEnrolled k l note t.watch.sweepSerial)).enqueue (.slot i)).answerOk (slotRevision i 0#16) := by
  unfold enrol
  rw [absent, free]

/-- The index, level and note that R183 refuses with BAD_VALUE. -/
abbrev BadEnrolment (body : List Byte) : Prop := 12 < natAt body 8 1 ∨ 2 < natAt body 9 1 ∨ BadNote body 10

theorem watchEnrol_of_bad (bad : BadEnrolment body) : t.watchEnrol body = t.refuse .badValue := by
  unfold watchEnrol
  dsimp only
  split
  · next l note named read =>
    have known : ¬2 < natAt body 9 1 := fun past => by rw [WatchLevel.ofCode_of_past past] at named; cases named
    have fits : ¬BadNote body 10 := fun out => by rw [readNote_of_bad out] at read; cases read
    exact if_pos (bad.resolve_right (not_or.2 ⟨known, fits⟩))
  · rfl

theorem exists_level_of_good (good : ¬BadEnrolment body) : ∃ l : WatchLevel, l.code = natAt body 9 1 := by
  obtain ⟨-, known, -⟩ : _ ∧ ¬2 < natAt body 9 1 ∧ _ := by simpa only [BadEnrolment, not_or] using good
  obtain ⟨l, named⟩ := WatchLevel.exists_ofCode known
  exact ⟨l, WatchLevel.ofCode_eq_some_iff.1 named⟩

theorem watchEnrol_of_good (good : ¬BadEnrolment body) (named : l.code = natAt body 9 1) :
    t.watchEnrol body = t.enrol { tag := tagAt body, index := natAt body 8 1 } l (body.drop 11) := by
  obtain ⟨index, -, fits⟩ : _ ∧ ¬2 < natAt body 9 1 ∧ _ := by simpa only [BadEnrolment, not_or] using good
  simp only [watchEnrol, WatchLevel.ofCode_eq_some_iff.2 named, readNote_of_good (not_or.2 fits), if_neg index]

/-! ### The checks by slot, notice, holder and revision (R184, R185) -/

section Revision

variable {expected : Word16} {f : WatchEntry → Handled}

theorem withRevision_of_told (told : (t.watchSlot i).notice p = true) :
    t.withRevision p i expected f = t.tellBroken i p := if_pos told

variable (quiet : (t.watchSlot i).notice p = false)

include quiet

theorem withRevision_of_absent (absent : t.watchEntry i = none) :
    t.withRevision p i expected f = t.refuse .notFound := by
  unfold withRevision
  rw [if_neg (Bool.eq_false_iff.1 quiet), absent]

theorem withRevision_of_other {h : Hold} (there : t.watchEntry i = some e) (held : e.hold = some h) (other : h.port ≠ p) :
    t.withRevision p i expected f = t.refuse .heldByOther := by
  unfold withRevision
  rw [if_neg (Bool.eq_false_iff.1 quiet), there]
  exact if_pos (heldByOther_of_port held other)

variable (there : t.watchEntry i = some e) (own : ∀ h, e.hold = some h → h.port = p)

include there own

theorem withRevision_of_stale (changed : e.revision ≠ expected) :
    t.withRevision p i expected f = t.answer { status := .stale, body := t.fullForm i e } := by
  unfold withRevision
  rw [if_neg (Bool.eq_false_iff.1 quiet), there]
  exact (if_neg (Bool.eq_false_iff.1 (heldByOther_of_own own))).trans (if_pos changed)

theorem withRevision_of_current (current : e.revision = expected) : t.withRevision p i expected f = f e := by
  unfold withRevision
  rw [if_neg (Bool.eq_false_iff.1 quiet), there]
  exact (if_neg (Bool.eq_false_iff.1 (heldByOther_of_own own))).trans (if_neg (not_not_intro current))

end Revision

end Site

/-! ### The changes a body names (R184) -/

theorem named_eq_none_iff {α : Type} {b : Bool} {v : Option α} : named b v = none ↔ b = true ∧ v = none := by
  cases b <;> cases v <;> simp [named]

/-- A change is read exactly where it is named. -/
theorem named_eq_some {α : Type} {b : Bool} {v x : Option α} (read : named b v = some x) :
    (x.isSome = true ↔ b = true) ∧ ∀ y, x = some y → v = some y := by
  cases b with
  | false =>
    cases read
    exact ⟨Iff.rfl, fun y none => nomatch none⟩
  | true =>
    obtain ⟨y, rfl, rfl⟩ := Option.map_eq_some_iff.1 read
    exact ⟨Iff.rfl, fun _ same => same⟩

/-- The change set of a body names a change. -/
abbrev NamesChange (body : List Byte) (k : Nat) : Prop := natAt body 4 1 / 2 ^ k % 2 = 1

theorem changeSet_getLsbD (body : List Byte) {k : Nat} (inside : k < 8) :
    (BitVec.ofNat 8 (natAt body 4 1)).getLsbD k = true ↔ NamesChange body k := by
  rw [BitVec.getLsbD_ofNat, Nat.testBit_eq_decide_div_mod_eq, Bool.and_eq_true, decide_eq_true_eq, decide_eq_true_eq]
  exact and_iff_right inside

theorem changeSet_bad_iff (body : List Byte) :
    (BitVec.ofNat 8 (natAt body 4 1) = 0#8 ∨ 16 ≤ (BitVec.ofNat 8 (natAt body 4 1)).toNat) ↔
      natAt body 4 1 = 0 ∨ 16 ≤ natAt body 4 1 := by
  have small := natAt_one_lt body 4
  rw [← BitVec.toNat_inj, BitVec.toNat_ofNat, BitVec.toNat_ofNat, Nat.mod_eq_of_lt small]

/-- The changes that R184 refuses with BAD_VALUE: none named, an unknown one (log 24), or a named field out of range. -/
abbrev BadAmendment (body : List Byte) : Prop :=
  natAt body 4 1 = 0 ∨ 16 ≤ natAt body 4 1 ∨ (NamesChange body 0 ∧ 2 < natAt body 5 1) ∨
    (NamesChange body 1 ∧ 2 < natAt body 6 1) ∨ (NamesChange body 2 ∧ BadNote body 7)

theorem WatchLevel.ofCode_eq_none_iff {n : Nat} : WatchLevel.ofCode n = none ↔ 2 < n := by
  refine ⟨fun h => by_contra fun inside => ?_, WatchLevel.ofCode_of_past⟩
  obtain ⟨l, named⟩ := WatchLevel.exists_ofCode inside
  rw [named] at h
  cases h

theorem readAmendment_of_some {body : List Byte} {a : Amendment} (read : readAmendment body = some a) :
    named ((BitVec.ofNat 8 (natAt body 4 1)).getLsbD 0) (WatchLevel.ofCode (natAt body 5 1)) = some a.level ∧
      named ((BitVec.ofNat 8 (natAt body 4 1)).getLsbD 1) (WatchLevel.ofCode (natAt body 6 1)) = some a.floor ∧
      named ((BitVec.ofNat 8 (natAt body 4 1)).getLsbD 2) (readNote body 7) = some a.note ∧
      (BitVec.ofNat 8 (natAt body 4 1)).getLsbD 3 = a.clear := by
  unfold readAmendment at read
  dsimp only at read
  split at read
  · cases read
  · split at read
    · next l f n level floor note =>
      cases read
      exact ⟨level, floor, note, rfl⟩
    · cases read

theorem readAmendment_eq_none_iff {body : List Byte} : readAmendment body = none ↔ BadAmendment body := by
  have fields : readAmendment body = none ↔
      (BitVec.ofNat 8 (natAt body 4 1) = 0#8 ∨ 16 ≤ (BitVec.ofNat 8 (natAt body 4 1)).toNat) ∨
        named ((BitVec.ofNat 8 (natAt body 4 1)).getLsbD 0) (WatchLevel.ofCode (natAt body 5 1)) = none ∨
        named ((BitVec.ofNat 8 (natAt body 4 1)).getLsbD 1) (WatchLevel.ofCode (natAt body 6 1)) = none ∨
        named ((BitVec.ofNat 8 (natAt body 4 1)).getLsbD 2) (readNote body 7) = none := by
    unfold readAmendment
    dsimp only
    split
    · next out => simp only [out, true_or]
    · next inside =>
      rw [or_iff_right inside]
      split
      · next level floor note => simp only [level, floor, note, reduceCtorEq, or_self]
      · next missing =>
        refine iff_of_true rfl (by_contra fun present => ?_)
        simp only [not_or, ← ne_eq, Option.ne_none_iff_exists'] at present
        obtain ⟨⟨l, level⟩, ⟨f, floor⟩, n, note⟩ := present
        exact missing l f n level floor note
  rw [fields, changeSet_bad_iff, named_eq_none_iff, named_eq_none_iff, named_eq_none_iff, changeSet_getLsbD body (by decide),
    changeSet_getLsbD body (by decide), changeSet_getLsbD body (by decide), WatchLevel.ofCode_eq_none_iff,
    WatchLevel.ofCode_eq_none_iff, readNote_eq_none_iff, or_assoc]

/-! ### What an amendment leaves (R184, R185) -/

namespace Amendment

variable {a : Amendment} {e : WatchEntry}

theorem floorAfter_eq (a : Amendment) (e : WatchEntry) :
    a.floorAfter e = if e.origin = .raised then a.level else a.floor.or e.floor := by
  unfold floorAfter
  cases e.origin <;> rfl

theorem floorTooHigh_iff : a.floorTooHigh e = true ↔ ∃ f, a.floorAfter e = some f ∧ (a.levelAfter e).code < f.code := by
  simp only [floorTooHigh, Option.any_eq_true, WatchLevel.above, decide_eq_true_eq]

/-- The entry with the changes of level, floor and note, before a clear of counts. -/
def changed (a : Amendment) (e : WatchEntry) : WatchEntry :=
  { e with
    level := a.levelAfter e
    floor := a.floorAfter e
    origin := if a.level.isSome then .enrolled else e.origin
    cleanRun := if a.level.isSome then 0 else e.cleanRun
    note := a.note.getD e.note }

end Amendment

theorem WatchEntry.amend_eq (e : WatchEntry) (a : Amendment) :
    e.amend a = if a.clear then (a.changed e).clearCounts else a.changed e := rfl

theorem WatchEntry.amend_revision (e : WatchEntry) (a : Amendment) : (e.amend a).revision = e.revision := by
  rw [WatchEntry.amend_eq]
  split <;> rfl

namespace Site

variable {t : Site} {i : Fin 512} {e : WatchEntry} {p : Port} {body : List Byte} {a : Amendment}

/-! ### WATCH_AMEND (R184) -/

theorem watchAmend_of_bad (bad : readAmendment body = none) : t.watchAmend p body = t.refuse .badValue := by
  unfold watchAmend
  rw [bad]
  cases slotOf (natAt body 0 2) <;> rfl

theorem watchAmend_of_past (past : 511 < natAt body 0 2) : t.watchAmend p body = t.refuse .badValue := by
  unfold watchAmend
  rw [slotOf_of_past past]

theorem watchAmend_of_slot (here : i.val = natAt body 0 2) (read : readAmendment body = some a) :
    t.watchAmend p body = t.withRevision p i (revisionIn body) (t.amendEntry i a) := by
  unfold watchAmend
  rw [slotOf_of_val here, read]

theorem amendEntry_of_raised (raised : e.origin = .raised) (floor : a.floor.isSome = true) :
    t.amendEntry i a e = t.refuse .wrongState := if_pos ⟨raised, floor⟩

/-- A RAISED entry whose floor is not named may be amended. -/
theorem floor_unnamed (free : e.origin = .raised → a.floor = none) : ¬(e.origin = .raised ∧ a.floor.isSome = true) := by
  rintro ⟨raised, named⟩
  rw [free raised] at named
  exact Bool.false_ne_true named

theorem amendEntry_of_tooHigh (free : e.origin = .raised → a.floor = none) (high : a.floorTooHigh e = true) :
    t.amendEntry i a e = t.refuse .badValue :=
  (if_neg (floor_unnamed free)).trans (if_pos high)

theorem amendEntry_of_fits (free : e.origin = .raised → a.floor = none) (fits : ¬a.floorTooHigh e = true) :
    t.amendEntry i a e = ((t.putEntry i (e.amend a).revise).enqueue (.slot i)).answerOk (wordField (e.revision + 1#16)) := by
  rw [← WatchEntry.amend_revision e a]
  exact (if_neg (floor_unnamed free)).trans (if_neg fits)

/-! ### WATCH_RETIRE (R185) -/

theorem watchRetire_of_past (past : 511 < natAt body 0 2) : t.watchRetire p body = t.refuse .badValue := by
  unfold watchRetire
  rw [slotOf_of_past past]

theorem watchRetire_of_slot (here : i.val = natAt body 0 2) : t.watchRetire p body =
    t.withRevision p i (revisionIn body) (fun e => (t.retireEntry i e).answerOk []) := by
  unfold watchRetire
  rw [slotOf_of_val here]

theorem endHold_of_free (there : t.watchEntry i = some e) (free : e.hold = none) : t.endHold i = t := by
  simp only [endHold, there, free]

/-- The site with an entry's pending contributions counted as discarded. -/
def discarding (t : Site) (e : WatchEntry) : Site :=
  t.setCounts { t.counts with contributionsDiscarded := bumpBy e.pending.length t.counts.contributionsDiscarded }

theorem retireEntry_eq (t : Site) (i : Fin 512) (e : WatchEntry) :
    t.retireEntry i e = ((t.discarding e).endHold i).freeSlot i := rfl

/-- An entry that none but the port holds, retired: its contributions counted, its slot FREE, the port's hold ended. -/
theorem retireEntry_of_own (there : t.watchEntry i = some e) (own : ∀ h, e.hold = some h → h.port = p) :
    t.retireEntry i e = ((t.discarding e).freeSlot i).setHolds (if e.hold.isSome then t.holds.dec p else t.holds) := by
  have stands : (t.discarding e).watchEntry i = some e := there
  rcases hold : e.hold with _ | h
  · rw [retireEntry_eq, endHold_of_free stands hold]
    rfl
  · rw [retireEntry_eq, endHold_of_held stands hold, own h hold]
    exact congrArg (fun u => loseHold u p) (freeSlot_putEntry _ i _)

/-! ### The checks that both share -/

/-- A request looks at its slot's number, and then at notice, holder and revision. -/
def ChecksRevision (t : Site) (p : Port) (body : List Byte) (h : Handled) : Prop :=
  (511 < natAt body 0 2 → h = t.refuse .badValue) ∧
    ∀ i : Fin 512, i.val = natAt body 0 2 → ∃ f, h = t.withRevision p i (revisionIn body) f

theorem watchAmend_checksRevision (readable : (readAmendment body).isSome = true) :
    t.ChecksRevision p body (t.watchAmend p body) := by
  obtain ⟨a, read⟩ := Option.isSome_iff_exists.1 readable
  exact ⟨watchAmend_of_past, fun i here => ⟨_, watchAmend_of_slot here read⟩⟩

theorem watchRetire_checksRevision : t.ChecksRevision p body (t.watchRetire p body) :=
  ⟨watchRetire_of_past, fun _ here => ⟨_, watchRetire_of_slot here⟩⟩

end Site

namespace Machine

/-- Settles O49: WATCH_ENROL by its body, its key and the free slots (`Site.watchEnrol_of_bad`, `Site.enrol_of_found` and their
neighbours); WATCH_AMEND and WATCH_RETIRE by the checks they share (`Site.ChecksRevision`), the changes a body names
(`readAmendment_eq_none_iff`, `readAmendment_of_some`) and what they leave (`WatchEntry.amend_eq`, `Site.retireEntry_of_own`). -/
theorem watchEdits : Obligations.WatchEdits := by
  intro s p tag body t
  refine ⟨fun takes => ?_, fun c k which takes => ?_, ?_, fun i e a takes here read quiet there own current => ?_,
    fun i e takes here quiet there own current => ?_⟩
  · intro k size bad entry
    refine ⟨fun out => ?_, fun good i e found => ?_, fun good absent full => ?_, fun good absent i l free named => ?_⟩
    · exact request_refused takes tag (Site.watchEnrol_of_bad out)
    · obtain ⟨l, named⟩ := Site.exists_level_of_good good
      exact request_answered takes tag ((Site.watchEnrol_of_good good named).trans (Site.enrol_of_found _ found.1 found.2))
    · obtain ⟨l, named⟩ := Site.exists_level_of_good good
      exact request_refused takes tag ((Site.watchEnrol_of_good good named).trans (Site.enrol_of_full _ absent full))
    · exact request_granted takes tag ((Site.watchEnrol_of_good good named).trans (Site.enrol_of_free _ absent free))
  · intro n
    obtain ⟨owner, run, past, slot⟩ :
        ∃ owner, exec c s = request k p tag body owner s ∧ t.ChecksRevision p body (owner t) := by
      rcases which with ⟨rfl, rfl, readable⟩ | ⟨rfl, rfl⟩
      · exact ⟨fun t => t.watchAmend p body, rfl, Site.watchAmend_checksRevision readable⟩
      · exact ⟨fun t => t.watchRetire p body, rfl, Site.watchRetire_checksRevision⟩
    rw [run]
    refine ⟨fun out => request_refused takes tag (past out), fun i here => ?_⟩
    obtain ⟨f, checked⟩ := slot i here
    refine ⟨fun told => ?_, fun quiet absent => ?_, fun e h quiet there held other => ?_, fun e quiet there own changed => ?_⟩
    · exact request_answered takes tag (checked.trans (Site.withRevision_of_told told))
    · exact request_refused takes tag (checked.trans (Site.withRevision_of_absent quiet absent))
    · exact request_refused takes tag (checked.trans (Site.withRevision_of_other quiet there held other))
    · exact request_answered takes tag (checked.trans (Site.withRevision_of_stale quiet there own changed))
  · intro set names size bad
    refine ⟨readAmendment_eq_none_iff.symm, fun a read => ?_, fun takes out => ?_⟩
    · obtain ⟨level, floor, note, clear⟩ := readAmendment_of_some read
      have bit {k : Nat} (inside : k < 8) := changeSet_getLsbD body inside
      obtain ⟨levelNamed, levelRead⟩ := named_eq_some level
      obtain ⟨floorNamed, floorRead⟩ := named_eq_some floor
      obtain ⟨noteNamed, noteRead⟩ := named_eq_some note
      exact ⟨levelNamed.trans (bit (by decide)), fun l h => WatchLevel.ofCode_eq_some_iff.1 (levelRead l h),
        floorNamed.trans (bit (by decide)), fun l h => WatchLevel.ofCode_eq_some_iff.1 (floorRead l h),
        noteNamed.trans (bit (by decide)), fun x h => readNote_eq_some (noteRead x h), clear ▸ bit (by decide)⟩
    · exact request_refused takes tag (Site.watchAmend_of_bad (readAmendment_eq_none_iff.2 out))
  · intro raised level floor tooHigh counts e1 e2
    have amended : t.watchAmend p body = t.amendEntry i a e :=
      (Site.watchAmend_of_slot here read).trans (Site.withRevision_of_current quiet there own current)
    have high : a.floorTooHigh e = true ↔ tooHigh := by
      rw [Amendment.floorTooHigh_iff, Amendment.floorAfter_eq]
      exact Iff.rfl
    refine ⟨fun isRaised named => ?_, fun free above => ?_, fun free fits => ?_⟩
    · exact request_refused takes tag (amended.trans (Site.amendEntry_of_raised isRaised named))
    · exact request_refused takes tag (amended.trans (Site.amendEntry_of_tooHigh free (high.2 above)))
    · have changed : a.changed e = e1 := by
        rw [Amendment.changed, Amendment.floorAfter_eq]
        rfl
      have cleared : e.amend a = counts e1 := by
        rw [WatchEntry.amend_eq, changed]
        rfl
      have entry : (e.amend a).revise = e2 := by
        rw [WatchEntry.revise, WatchEntry.amend_revision, cleared]
      rw [← entry]
      exact request_granted takes tag (amended.trans (Site.amendEntry_of_fits free (mt high.1 fits)))
  · refine ⟨t.retireEntry i e, request_granted takes tag ((Site.watchRetire_of_slot here).trans
      (Site.withRevision_of_current quiet there own current)), ?_⟩
    rw [Site.retireEntry_of_own there own]
    exact ⟨rfl, rfl, rfl, rfl, rfl, rfl⟩

end Machine

end Sys2Proof
end

section
/-! PROOF. WATCH_HOLD, WATCH_RELEASE and the end of a watch lease. -/

namespace Sys2Proof

namespace Site

variable {t : Site} {i : Fin 512} {e : WatchEntry} {h : Hold} {p : Port} {body : List Byte}

/-! ### WATCH_HOLD (R173) -/

theorem watchHold_of_past (past : 511 < natAt body 0 2) : t.watchHold p body = t.refuse .badValue := by
  unfold watchHold
  rw [slotOf_of_past past]

theorem watchHold_of_slot (here : i.val = natAt body 0 2) : t.watchHold p body = t.holdSlot p i := by
  unfold watchHold
  rw [slotOf_of_val here]

/-- A hold granted shows the entry with its new holder, and the whole of HOLD_LEASE. -/
theorem grantWatchHold_eq (t : Site) (i : Fin 512) (e : WatchEntry) (p : Port) : t.grantWatchHold i e p =
    (t.putEntry i { e with hold := some (t.newHold p) }).answerOk
      ((t.putEntry i { e with hold := some (t.newHold p) }).fullForm i { e with hold := some (t.newHold p) } ++
        leBytes 2 (t.setting .holdLease)) := by
  rw [grantWatchHold, leaseLeft_newHold]

theorem holdSlot_of_told (told : (t.watchSlot i).notice p = true) : t.holdSlot p i = t.tellBroken i p := if_pos told

theorem releaseSlot_of_told (told : (t.watchSlot i).notice p = true) : t.releaseSlot p i = t.tellBroken i p := if_pos told

section Quiet

variable (quiet : (t.watchSlot i).notice p = false)

include quiet

theorem holdSlot_of_absent (absent : t.watchEntry i = none) : t.holdSlot p i = t.refuse .notFound := by
  unfold holdSlot
  rw [if_neg (Bool.eq_false_iff.1 quiet), absent]

/-- The holder alone renews its lease. -/
theorem holdSlot_of_held (there : t.watchEntry i = some e) (held : e.hold = some h) :
    t.holdSlot p i = if h.port = p then t.grantWatchHold i e p else t.refuse .heldByOther := by
  unfold holdSlot
  rw [if_neg (Bool.eq_false_iff.1 quiet), there]
  dsimp only
  rw [held]

theorem holdSlot_of_free (there : t.watchEntry i = some e) (free : e.hold = none) : t.holdSlot p i =
    if 4 ≤ t.holds.get p then t.refuse .holdLimit else (t.gainHold p).grantWatchHold i e p := by
  unfold holdSlot
  rw [if_neg (Bool.eq_false_iff.1 quiet), there]
  dsimp only
  rw [free]

/-! ### WATCH_RELEASE (R178) -/

theorem releaseSlot_of_others (others : ∀ e h, t.watchEntry i = some e → e.hold = some h → h.port ≠ p) :
    t.releaseSlot p i = t.refuse .notHeld := by
  unfold releaseSlot
  rw [if_neg (Bool.eq_false_iff.1 quiet)]
  split
  · next e there => exact if_neg (Bool.eq_false_iff.1 (heldBy_of_others (fun h held => others e h there held)))
  · rfl

theorem releaseSlot_of_own (there : t.watchEntry i = some e) (held : e.hold = some h) (own : h.port = p) :
    t.releaseSlot p i = t.releaseHeld i e := by
  unfold releaseSlot
  rw [if_neg (Bool.eq_false_iff.1 quiet), there]
  exact if_pos (heldBy_of_port held own)

end Quiet

theorem watchRelease_of_past (past : 511 < natAt body 0 2) : t.watchRelease p body = t.refuse .badValue := by
  unfold watchRelease
  rw [slotOf_of_past past]

theorem watchRelease_of_slot (here : i.val = natAt body 0 2) : t.watchRelease p body = t.releaseSlot p i := by
  unfold watchRelease
  rw [slotOf_of_val here]

/-- The end of a hold, then what was pending in its order (R174, R177). -/
theorem releaseEntry_of_held (there : t.watchEntry i = some e) (held : e.hold = some h) : t.releaseEntry i e =
    applyPending i e.pending true ((t.putEntry i { e with hold := none, pending := [] }).loseHold h.port) := by
  rw [releaseEntry, endHold_of_held there held]

/-- An entry that stands is answered with its revision (log 22). -/
theorem releaseHeld_of_stands {r : Site × Bool} {x : WatchEntry} (ended : t.releaseEntry i e = r) (stands : r.2 = true)
    (left : r.1.watchEntry i = some x) : t.releaseHeld i e = r.1.answerOk (1#8 :: leBytes 2 x.revision.toNat) := by
  simp only [releaseHeld, ended, stands, revisionAt, left, if_true]
  rfl

theorem releaseHeld_of_retired {r : Site × Bool} (ended : t.releaseEntry i e = r) (retired : r.2 = false) :
    t.releaseHeld i e = r.1.answerOk [0#8, 0#8, 0#8] := by
  simp only [releaseHeld, ended, retired, Bool.false_eq_true, if_false]
  rfl

/-! ### A lease at its end (R177) -/

theorem watchLeaseExpiry_of_due (there : t.watchEntry i = some e) (held : e.hold = some h) (due : h.expiry ≤ t.now) :
    t.watchLeaseExpiry i = ((t.raise .leaseExpired).releaseEntry i e).1 := by
  simp only [watchLeaseExpiry, watchLeaseDue, there, held, Option.any_some, due, decide_true, if_true]

/-- No lease at its end, no effect (log 10). -/
theorem watchLeaseExpiry_of_not_due (early : ∀ e h, t.watchEntry i = some e → e.hold = some h → t.now < h.expiry) :
    t.watchLeaseExpiry i = t := by
  have notDue : t.watchLeaseDue i = none := by
    unfold watchLeaseDue
    split
    · next e there =>
      refine if_neg (fun due => ?_)
      obtain ⟨h, held, past⟩ := (Option.any_eq_true _ _).1 due
      exact absurd (of_decide_eq_true past) (Nat.not_le.2 (early e h there held))
    · rfl
  unfold watchLeaseExpiry
  rw [notDue]

end Site

namespace Machine

theorem exec_watchLeaseExpiry {s : State} {i : Fin 512} {r : Site} (running : s.Running) (h : s.site.watchLeaseExpiry i = r) :
    exec (.watchLeaseExpiry i) s = .next (s.setSite r) := by
  rw [← h, ← Site.whenRunning_of_running running (fun t => t.watchLeaseExpiry i)]
  rfl

/-- Settles O50: WATCH_HOLD and WATCH_RELEASE by the slot's notice, entry and holder (`Site.holdSlot_of_held`,
`Site.releaseSlot_of_own` and their neighbours); a hold that ends, by release or by its lease, has its pending contributions
applied (`Site.releaseEntry_of_held`). -/
theorem watchHolds : Obligations.WatchHolds := by
  intro s p tag body i t here lease hold told quiet held ended
  refine ⟨fun takes => ?_, fun takes => ?_, fun running => ⟨fun e h there own due => ?_, fun early => ?_⟩⟩
  · intro refuses
    have refused {st : Status} (h : t.watchHold p body = t.refuse st) : refuses st := request_refused takes tag h
    have granted {e : WatchEntry} {u : Site} (h : t.watchHold p body = u.grantWatchHold i e p)
        (sameLease : u.setting .holdLease = lease) (sameHold : u.newHold p = hold) :
        exec (.watchHold p tag body) s = .next (held e u) := by
      rw [Site.grantWatchHold_eq, sameLease, sameHold] at h
      exact request_granted takes tag h
    refine ⟨fun past => refused (Site.watchHold_of_past past), fun slot loud => ?_, fun slot calm absent => ?_,
      fun e h slot calm there own other => ?_, fun e h slot calm there own same => ?_, fun e slot calm there free full => ?_,
      fun e slot calm there free room => ?_⟩
    · exact request_answered takes tag
        ((Site.watchHold_of_slot slot).trans (Site.holdSlot_of_told (Bool.of_not_eq_false loud)))
    · exact refused ((Site.watchHold_of_slot slot).trans (Site.holdSlot_of_absent calm absent))
    · exact refused ((Site.watchHold_of_slot slot).trans ((Site.holdSlot_of_held calm there own).trans (if_neg other)))
    · exact granted ((Site.watchHold_of_slot slot).trans ((Site.holdSlot_of_held calm there own).trans (if_pos same))) rfl rfl
    · exact refused ((Site.watchHold_of_slot slot).trans ((Site.holdSlot_of_free calm there free).trans (if_pos full)))
    · exact granted ((Site.watchHold_of_slot slot).trans
        ((Site.holdSlot_of_free calm there free).trans (if_neg (Nat.not_le.2 room)))) rfl rfl
  · intro refuses
    have refused {st : Status} (h : t.watchRelease p body = t.refuse st) : refuses st := request_refused takes tag h
    refine ⟨fun past => refused (Site.watchRelease_of_past past), fun slot loud => ?_, fun slot calm others => ?_,
      fun e h slot calm there own same => ?_⟩
    · exact request_answered takes tag
        ((Site.watchRelease_of_slot slot).trans (Site.releaseSlot_of_told (Bool.of_not_eq_false loud)))
    · exact refused ((Site.watchRelease_of_slot slot).trans (Site.releaseSlot_of_others calm others))
    · intro r
      have released : t.watchRelease p body = t.releaseHeld i e :=
        (Site.watchRelease_of_slot slot).trans (Site.releaseSlot_of_own calm there own same)
      have ends : t.releaseEntry i e = r := Site.releaseEntry_of_held there own
      exact ⟨fun x stands left => request_granted takes tag (released.trans (Site.releaseHeld_of_stands ends stands left)),
        fun retired => request_granted takes tag (released.trans (Site.releaseHeld_of_retired ends retired))⟩
  · refine exec_watchLeaseExpiry running ((Site.watchLeaseExpiry_of_due there own due).trans ?_)
    exact congrArg Prod.fst (Site.releaseEntry_of_held (t := t.raise .leaseExpired) there own)
  · exact exec_watchLeaseExpiry running (Site.watchLeaseExpiry_of_not_due early)

end Machine

end Sys2Proof
end

section
/-! PROOF. The frames of the two ports: the checks of a request, the answer queue, the line events, and the attention line. -/

namespace Sys2Proof

/-! ### The request catalogue (R199, R200) -/

theorem RequestKind.mem_all (k : RequestKind) : k ∈ RequestKind.all := by cases k <;> decide

/-- A kind byte is in the catalogue exactly when some request has that code. -/
theorem inCatalogue_iff {kind : Byte} : inCatalogue kind = true ↔ ∃ k : RequestKind, k.code = kind := by
  simp only [inCatalogue, List.any_eq_true, beq_iff_eq]
  exact ⟨fun ⟨k, _, code⟩ => ⟨k, code⟩, fun ⟨k, code⟩ => ⟨k, k.mem_all, code⟩⟩

/-- A SETTING_WRITE is of the site class exactly when it names setting 27 (R200, R217). -/
theorem privilegeOf_settingWrite (body : List Byte) :
    privilegeOf .settingWrite body = if natAt body 0 1 = 27 then .site else .write := by
  have names : Setting.ofCode (natAt body 0 1) = some .serviceWrites ↔ natAt body 0 1 = 27 :=
    Setting.ofCode_eq_some_iff.trans eq_comm
  simp only [privilegeOf, names, true_and]
  rfl

/-- Every other request is of the class that the catalogue gives it (R200). -/
theorem privilegeOf_of_ne {k : RequestKind} (other : k ≠ .settingWrite) (body : List Byte) :
    privilegeOf k body = k.privilege := if_neg (fun h => other h.1)

/-! ### The checks of a request, in their order (R199) -/

namespace Site

variable {t : Site} {p : Port} {k : RequestKind} {body : List Byte}

theorem portCheck_of_not_ready (idle : t.mode ≠ .running) (kind : ¬(k = .identify ∨ k = .status ∨ k = .clockRead)) :
    t.portCheck p k body = some .notReady :=
  if_pos ⟨idle, Bool.eq_false_iff.2 (kind ∘ k.anyState_iff.1)⟩

/-- The check of the site's state passes (R199, row 2). -/
theorem portCheck_of_ready (ready : t.mode = .running ∨ k = .identify ∨ k = .status ∨ k = .clockRead) :
    t.portCheck p k body =
      if lengthFits k body.length = false then some .badLength
      else if t.permits p (privilegeOf k body) = false then some .denied else none :=
  if_neg (fun ⟨idle, fixed⟩ => ready.elim idle (fun kind => Bool.eq_false_iff.1 fixed (k.anyState_iff.2 kind)))

theorem portCheck_of_bad_length (ready : t.mode = .running ∨ k = .identify ∨ k = .status ∨ k = .clockRead)
    (long : ¬(k.bodyBytes.1 ≤ body.length ∧ body.length ≤ k.bodyBytes.2)) : t.portCheck p k body = some .badLength :=
  (portCheck_of_ready ready).trans (if_pos (Bool.eq_false_iff.2 (long ∘ (lengthFits_iff k _).1)))

/-- The service port may not make a request of the site class, nor one of the write class while SERVICE_WRITES is off (R200). -/
theorem permits_servicePort_of_denied {c : Privilege} (denied : c = .site ∨ (c = .write ∧ t.setting .serviceWrites ≠ 1)) :
    t.permits .servicePort c = false := by
  obtain rfl | ⟨rfl, off⟩ := denied
  · rfl
  · exact beq_eq_false_iff_ne.2 off

theorem portCheck_of_denied (ready : t.mode = .running ∨ k = .identify ∨ k = .status ∨ k = .clockRead)
    (fits : k.bodyBytes.1 ≤ body.length ∧ body.length ≤ k.bodyBytes.2)
    (denied : privilegeOf k body = .site ∨ (privilegeOf k body = .write ∧ t.setting .serviceWrites ≠ 1)) :
    t.portCheck .servicePort k body = some .denied := by
  rw [portCheck_of_ready ready, (lengthFits_iff k _).2 fits, permits_servicePort_of_denied denied]
  rfl

end Site

namespace Machine

variable {s : State} {p : Port} {tag kind : Byte} {c : Instr}

/-- The command of a request is that request, handed to some owner. -/
theorem exec_of_requestOf {r : Request} (h : requestOf c = some r) :
    ∃ owner : Site → Handled, ∀ s, exec c s = request r.kind r.port r.tag r.body owner s := by
  cases c <;> cases h <;> exact ⟨_, fun _ => rfl⟩

/-- Settles O6: the catalogue row by row, and each check of `Site.portCheck` once those before it pass. -/
theorem portChecksInOrder : Obligations.PortChecksInOrder := by
  refine ⟨?_, fun c r s named short opened => ?_⟩
  · intro rows
    have listed : ∀ k : RequestKind, (k, k.code, k.privilege, k.bodyBytes) ∈ rows := fun k => by cases k <;> decide
    have coded : ∀ row ∈ rows, row.1.code = row.2.1 := by decide
    refine ⟨by decide, listed, fun kind => inCatalogue_iff.trans ⟨fun ⟨k, code⟩ => ⟨_, listed k, code⟩, ?_⟩,
      fun body at27 => ?_, fun body other => ?_, fun k body other => privilegeOf_of_ne other body⟩
    · exact fun ⟨row, mem, code⟩ => ⟨row.1, (coded row mem).trans code⟩
    · exact (privilegeOf_settingWrite body).trans (if_pos at27)
    · exact (privilegeOf_settingWrite body).trans (if_neg other)
  · obtain ⟨owner, run⟩ := exec_of_requestOf named
    intro ready fits c0
    have refused {st : Status} (check : s.site.portCheck r.port r.kind r.body = some st) :
        exec c s = .next (s.refused r.port r.tag r.kind st) := (run s).trans (request_of_refused opened short check _ _)
    refine ⟨fun idle => refused ?_, fun awake long => refused (Site.portCheck_of_bad_length awake long),
      fun awake whole service denied => refused ?_⟩
    · exact Site.portCheck_of_not_ready (fun on => idle (.inl on)) (fun kind => idle (.inr kind))
    · rw [service]
      exact Site.portCheck_of_denied awake whole denied

/-! ### A full answer queue, and a request in progress (R197, R198) -/

/-- The places taken: the answers, and on the site link the one kept for a waiting STORE_SAVE. -/
theorem State.placesTaken_of_waiting (s : State) (p : Port) : s.placesTaken p =
    (s.line p).answers.length + (if p = .siteLink ∧ s.site.store.waiting.isSome then 1 else 0) := by
  cases p with
  | siteLink => by_cases saving : s.site.store.waiting.isSome = true <;> simp [State.placesTaken, State.inProgress, saving]
  | servicePort => rfl

theorem State.takeFrame_of_full (awake : s.site.mode ≠ .held) (full : 4 ≤ s.placesTaken p) (take : Site → Handled) :
    s.takeFrame p tag kind take = (s.receive p .hunting).dropAnswer p :=
  (if_neg awake).trans (if_pos full)

theorem State.takeFrame_of_busy (awake : s.site.mode ≠ .held) (room : s.placesTaken p < 4) (busy : s.inProgress p = true)
    (take : Site → Handled) : s.takeFrame p tag kind take = s.answered p tag kind .busy [] s.site := by
  have taken : s.takeFrame p tag kind take = (s.receive p .hunting).pushReply p tag kind (some (.bare .busy)) :=
    (if_neg awake).trans ((if_neg (Nat.not_le.2 room)).trans (if_pos busy))
  rw [taken, State.answered, ← s.receive_site p .hunting, State.setSite_self]
  rfl

/-- A frame of a kind outside the catalogue is handed to R199's first row. -/
theorem exec_unknownRequest {body : List Byte} (short : bodyFits body = true) (unknown : inCatalogue kind = false) (s : State) :
    exec (.unknownRequest p tag kind body) s = .next (s.takeFrame p tag kind unknownKind) :=
  if_pos (by rw [unknownWf, short, unknown]; rfl)

/-- A frame of either sort, of the catalogue or not, is handed to a taker. -/
theorem exec_frame (h : (∃ r, requestOf c = some r ∧ bodyFits r.body = true ∧ r.port = p ∧ r.tag = tag ∧ r.kind.code = kind) ∨
    (∃ body, c = .unknownRequest p tag kind body ∧ bodyFits body = true ∧ inCatalogue kind = false)) :
    ∃ take : Site → Handled, ∀ s, exec c s = .next (s.takeFrame p tag kind take) := by
  obtain ⟨r, named, short, rfl, rfl, rfl⟩ | ⟨body, rfl, short, unknown⟩ := h
  · obtain ⟨owner, run⟩ := exec_of_requestOf named
    exact ⟨_, fun s => (run s).trans (request_of_fits short _ _ _ _)⟩
  · exact ⟨unknownKind, exec_unknownRequest short unknown⟩

/-- Settles O7: each frame is handed to a taker (`exec_frame`), and the queue and the request in progress are looked at first
(`State.takeFrame_of_full`, `State.takeFrame_of_busy`). -/
theorem busyAndFullQueue : Obligations.BusyAndFullQueue := by
  intro c p tag kind s awake frame taken
  obtain ⟨take, run⟩ := exec_frame frame
  have places : s.placesTaken p = taken := s.placesTaken_of_waiting p
  have dropped (full : 4 ≤ taken) : exec c s = .next ((s.receive p .hunting).dropAnswer p) :=
    (run s).trans (congrArg _ (State.takeFrame_of_full awake (places ▸ full) take))
  refine ⟨?_, ?_, ?_⟩
  · rintro full rfl
    exact dropped full
  · rintro full rfl
    exact dropped full
  · rintro room rfl saving
    exact (run s).trans (congrArg _ (State.takeFrame_of_busy (p := .siteLink) awake (places ▸ room) saving take))

/-! ### Gaps, discarded frames, answers sent, kinds outside the catalogue (R196, R198, R199) -/

theorem State.discardFrame_of_awake (awake : s.site.mode ≠ .held) (r : Receiver) :
    s.discardFrame p r = (s.frameError p).receive p r := if_neg awake

theorem portHunt_start : portHunt 0xA5#8 = .inFrame := rfl

theorem portHunt_of_ne {b : Byte} (other : b ≠ 0xA5#8) : portHunt b = .hunting := if_neg other

/-- A byte of a length is a start byte by its value. -/
theorem ofNat_eq_start_iff (n : Nat) : BitVec.ofNat 8 n = 0xA5#8 ↔ n % 256 = 0xA5 := by
  rw [← BitVec.toNat_inj, BitVec.toNat_ofNat]
  rfl

/-- A length above 1,000 with a start byte among its two bytes leaves the port inside a frame (R196). -/
theorem receiverAfter_of_starts {n : Word16} (starts : n.toNat % 256 = 0xA5 ∨ n.toNat / 256 = 0xA5) :
    receiverAfter (.length n) = .inFrame := by
  by_cases low : n.toNat % 256 = 0xA5
  · rw [receiverAfter, (ofNat_eq_start_iff _).2 low]
    rfl
  · have high := starts.resolve_left low
    rw [receiverAfter, portHunt_of_ne (low ∘ (ofNat_eq_start_iff _).1), high]
    rfl

theorem receiverAfter_of_not_starts {n : Word16} (quiet : ¬(n.toNat % 256 = 0xA5 ∨ n.toNat / 256 = 0xA5)) :
    receiverAfter (.length n) = .hunting := by
  obtain ⟨low, high⟩ := not_or.1 quiet
  have past : ¬n.toNat / 256 % 256 = 0xA5 := by
    have := n.isLt
    omega
  rw [receiverAfter, portHunt_of_ne (low ∘ (ofNat_eq_start_iff _).1), portHunt_of_ne (past ∘ (ofNat_eq_start_iff _).1)]
  rfl

theorem receiverAfter_of_whole {w : RequestDiscard} (whole : ∀ n, w ≠ .length n) : receiverAfter w = .hunting := by
  cases w with
  | length n => exact absurd rfl (whole n)
  | stopBit => rfl
  | frame => rfl

/-- Settles O8: a gap and a discarded frame by what their bytes leave of the hunting (`receiverAfter_of_starts` and its
neighbours); an unknown kind is taken by an open port (`State.takeFrame_open`). -/
theorem portLineEvents : Obligations.PortLineEvents := by
  intro s p awake counted starts
  have error : s.frameError p = counted := by cases p <;> rfl
  have gap {b : Byte} {r : Receiver} (hunt : portHunt b = r) : exec (.portByteGap p b) s = .next (counted.receive p r) := by
    rw [← hunt, ← error, ← State.discardFrame_of_awake awake]
    rfl
  have discard {w : RequestDiscard} {r : Receiver} (fault : w.wf = true) (after : receiverAfter w = r) :
      exec (.requestFrameDiscard p w) s = .next (counted.receive p r) := by
    rw [← after, ← error, ← State.discardFrame_of_awake awake]
    exact if_pos fault
  exact ⟨gap portHunt_start, fun b other => gap (portHunt_of_ne other),
    fun n long start => discard (decide_eq_true long) (receiverAfter_of_starts start),
    fun n long quiet => discard (decide_eq_true long) (receiverAfter_of_not_starts quiet),
    fun w fault whole => discard fault (receiverAfter_of_whole whole), congrArg _ (if_neg awake),
    fun tag kind body short unknown opened => (exec_unknownRequest short unknown s).trans
      (congrArg _ (State.takeFrame_open opened tag kind unknownKind))⟩

end Machine

/-! ### The attention line (R207) -/

/-- Every bit of a flag set is some flag's (R204). -/
theorem Flag.exists_bit (i : Fin 18) : ∃ f : Flag, f.bit = i.val := ⟨Flag.ofNat i.val, by revert i; decide⟩

/-- Two sets of flags have a member in common exactly when some flag is in both. -/
theorem and_ne_zero_iff (a b : BitVec 18) :
    a &&& b ≠ 0#18 ↔ ∃ f : Flag, setHas a f.bit = true ∧ setHas b f.bit = true := by
  constructor
  · intro some
    by_contra none
    refine some (BitVec.eq_of_getLsbD_eq fun i below => ?_)
    obtain ⟨f, bit⟩ := Flag.exists_bit ⟨i, below⟩
    have := not_exists.1 none f
    simp only [setHas, bit] at this
    simpa using this
  · rintro ⟨f, inA, inB⟩ empty
    have := congrArg (BitVec.getLsbD · f.bit) empty
    simp only [setHas] at inA inB
    simp [inA, inB] at this

/-- Settles O13: the line is a mode that is not HELD and a member common to the flags and the enables (`and_ne_zero_iff`). -/
theorem attentionLine : Obligations.AttentionLine := by
  have asserted (t : Site) : t.attention = true ↔ t.mode ≠ .held ∧ t.flags &&& t.enables ≠ 0#18 := by
    simp only [Site.attention, Bool.and_eq_true, bne_iff_ne]
  refine ⟨fun t => (asserted t).trans (and_congr_right fun _ => and_ne_zero_iff _ _), fun t _ quiet => ?_⟩
  refine Bool.eq_false_iff.2 fun on => ((asserted t).1 on).2 ?_
  rw [quiet, BitVec.and_zero]

end Sys2Proof
end

section
/-! PROOF. The requests of chapter 10 but SITE_RESET: STATUS, IDENTIFY, the flags and enables, the counters. -/

namespace Sys2Proof

/-! ### STATUS and IDENTIFY (R202, R203) -/

theorem SiteMode.code_of_awake {m : SiteMode} (awake : m ≠ .held) : m.code = if m = .loading then 0 else 1 := by
  cases m with
  | loading => rfl
  | running => rfl
  | held => exact absurd rfl awake

theorem StoreState.code_eq (v : StoreState) : v.code = if v = .online then 0 else 1 := by cases v <;> rfl

/-! ### The set that a body carries (R205, R206) -/

theorem readFlagSet_of_past {body : List Byte} (past : 2 ^ 18 ≤ natAt body 0 4) : readFlagSet body = none :=
  if_neg (Nat.not_lt.2 past)

theorem readFlagSet_of_lt {body : List Byte} (inside : natAt body 0 4 < 2 ^ 18) :
    readFlagSet body = some (BitVec.ofNat 18 (natAt body 0 4)) := if_pos inside

namespace Site

variable {t : Site} {body : List Byte}

theorem identify_of_leaf_0 (leaf : natAt body 0 1 = 0) : t.identify body = t.answerOk
    [2#8, 0x4F#8, 0x53#8, 0x50#8, 0x52#8, 0x41#8, 0x54#8, 0x48#8, 0x57#8, 0x58#8, 0x34#8, 0x38#8] := by
  rw [identify, leaf]
  rfl

theorem identify_of_leaf_1 (leaf : natAt body 0 1 = 1) :
    t.identify body = t.answerOk ([1#8, 0#8] ++ leBytes 1 (t.setting .modulesFitted)) := by
  rw [identify, leaf]
  rfl

/-- Leaf 2 lists the eight capacities, each as its number and two bytes (R202). -/
theorem identify_of_leaf_2 (leaf : natAt body 0 1 = 2) : t.identify body = t.answerOk
    [8#8, 1#8, 0#8, 4#8, 2#8, 0#8, 1#8, 3#8, 4#8, 0#8, 4#8, 96#8, 0#8, 5#8, 0#8, 2#8, 6#8, 24#8, 0#8, 7#8, 4#8, 0#8,
     8#8, 4#8, 0#8] := by
  rw [identify, leaf]
  rfl

theorem identify_of_past (past : 2 < natAt body 0 1) : t.identify body = t.refuse .badValue := by
  obtain ⟨n, leaf⟩ := Nat.exists_eq_add_of_lt past
  rw [identify, leaf, show 2 + n + 1 = n + 3 by omega]
  rfl

/-! ### A flag cleared (R204, R205) -/

/-- The flag of an unset clock is put back whatever was named; where it was not named it had stayed (R204, R205). -/
theorem clearFlags_of_sound (sound : t.ClockFlagSound) (named : BitVec 18) :
    let left := t.flags &&& ~~~ named
    t.clearFlags named = t.setFlags
      (if named.getLsbD 17 = true ∧ t.clock.isSet = false then left ||| BitVec.twoPow 18 17 else left) := by
  intro left
  cases clock : t.clock.isSet with
  | true => simp [clearFlags, keepClockUnset, clock, left]
  | false =>
    have again : t.clearFlags named = t.setFlags (left ||| BitVec.twoPow 18 17) := by
      rw [clearFlags, keepClockUnset, setFlags_clock, clock]
      rfl
    by_cases bit : named.getLsbD 17 = true
    · rw [again, if_pos ⟨bit, rfl⟩]
    · have stays : left ||| BitVec.twoPow 18 17 = left := by
        have stood : t.flags.getLsbD 17 = true := sound clock
        ext i below
        by_cases at17 : i = 17
        · subst at17
          simp [left, ← BitVec.getLsbD_eq_getElem, stood, Bool.eq_false_iff.2 bit]
        · simp [at17]
      rw [again, stays, if_neg (fun h => bit h.1)]

/-! ### The counters (R208, R209) -/

theorem counters_length (t : Site) : t.counters.length = 67 := by
  simp only [counters, toList_eight, List.flatMap_cons, List.flatMap_nil]
  rfl

/-- What a clear of the counters changes, block by block (R209). -/
theorem clearCounters_eq (t : Site) : t.clearCounters =
    { t with
      counts := .zero
      points := t.points.clearCounters
      passage := { t.passage with falseApproaches := 0#16 }
      roster := { t.roster with earlyTags := 0#16, lateTags := 0#16, unplacedTags := 0#16, failedReads := 0#16 }
      modules := { t.modules with lines := tableMapIdx (fun _ l => l.clearCounters) t.modules.lines }
      store := { t.store with faults := 0#16, entriesLost := 0#16 } } := by
  simp only [clearCounters, mapLines, setCounts, setPoints, setPassage, setRoster, setModules, setStore]

theorem clearCounters_setFlags (t : Site) (f : BitVec 18) : t.clearCounters.setFlags f = (t.setFlags f).clearCounters := by
  simp only [clearCounters_eq, setFlags]

end Site

namespace Machine

/-- Settles O9: STATUS is its fourteen fields as they stand in `Site.statusBody`; IDENTIFY leaf by leaf. -/
theorem statusAndIdentifyRead : Obligations.StatusAndIdentifyRead := by
  refine ⟨fun s p tag body takes => ?_, fun s p tag body takes => ?_⟩
  · intro t
    refine request_granted takes tag (owner := fun t => t.status) ?_
    rw [Site.status, Site.statusBody, SiteMode.code_of_awake takes.1.1, StoreState.code_eq]
    rfl
  · intro leaf
    have granted {b : List Byte} (h : s.site.identify body = s.site.answerOk b) :
        exec (.identify p tag body) s = .next (s.granted p tag .identify b s.site) :=
      request_granted takes tag (owner := fun t => t.identify body) h
    exact ⟨granted ∘ Site.identify_of_leaf_0, granted ∘ Site.identify_of_leaf_1, granted ∘ Site.identify_of_leaf_2,
      fun past => request_refused takes tag (owner := fun t => t.identify body) (Site.identify_of_past past)⟩

/-- Settles O10: the counters are `Site.counters`, and the site after the clear is `Site.clearCounters`, whose counters are all 0
(`Site.clearCounters_counters`). -/
theorem countersReadAndClear : Obligations.CountersReadAndClear := by
  intro s p tag body t all cleared
  have gathered : t.counters = all := by
    simp only [Site.counters, List.append_assoc]
    rfl
  have read : t.countersBody = all.flatMap (fun c => leBytes 2 c.toNat) := by
    rw [← gathered]
    rfl
  have clears : t.clearCounters = cleared := s.site.clearCounters_eq
  have answer : t.countersClear = cleared.answerOk (all.flatMap (fun c => leBytes 2 c.toNat)) := by
    rw [Site.countersClear, clears, read]
  refine ⟨fun takes => ?_, fun takes => ?_, (congrArg List.length gathered).symm.trans s.site.counters_length,
    (congrArg Site.counters clears).symm.trans s.site.clearCounters_counters, rfl, privilegeOf_of_ne (by decide) body⟩
  · exact request_granted takes tag (owner := fun t => t.countersRead) (congrArg t.answerOk read)
  · exact request_granted takes tag (owner := fun t => t.countersClear) answer

/-- Settles O11: a set past bit 17 is not read (`readFlagSet_of_past`); what a clear leaves is `Site.clearFlags_of_sound`. -/
theorem flagsClearNamed : Obligations.FlagsClearNamed := by
  intro s p tag body sound takes set named left after
  have clears : s.site.clearFlags named = s.site.setFlags after := Site.clearFlags_of_sound sound named
  refine ⟨fun past => ?_, fun inside => ?_, rfl⟩
  · refine request_refused takes tag (owner := fun t => t.flagsClear body) ?_
    simp only [Site.flagsClear, readFlagSet_of_past past]
  · refine request_granted takes tag (owner := fun t => t.flagsClear body) ?_
    simp only [Site.flagsClear, readFlagSet_of_lt inside]
    rw [show s.site.clearFlags (BitVec.ofNat 18 (natAt body 0 4)) = s.site.setFlags after from clears]
    rfl

end Machine

end Sys2Proof
end

section
/-! PROOF. A site reset, block by block, and the enables that it clears. -/

namespace Sys2Proof

/-! ### The points and the lines at a site reset (R1, R3, R8, R71, R78) -/

/-- A head at a site reset: IN_SERVICE, its level as it was (R1, R3). -/
theorem Point.atReset_head (q : Point) (now : Nat) (n : HeadNo) :
    (q.atReset now).head n = { level := (q.head n).level, health := .inService, lastChange := now } := by cases n <;> rfl

theorem Point.clearCounter_head (q : Point) (n : HeadNo) : q.clearCounter.head n = q.head n := by cases n <;> rfl

/-- With both heads IN_SERVICE the machine restarts by their levels alone (R8). -/
theorem Point.atReset_machine (q : Point) (now : Nat) : (q.atReset now).machine =
    if q.head1.level = .occupied ∨ q.head2.level = .occupied then .settling else .idle := by
  simp [Point.atReset, Point.restart, Head.seenOccupied]

namespace Site

/-- A line after the module line controller is reset: STAND_DOWN sent first where its module was armed (R71, R78). -/
theorem resetModules_line (t : Site) (n : Fin 8) :
    t.resetModules.line n =
      (if (t.line n).inPassage then (t.line n).give n t.passageWord standDownCode [] else t.line n).atReset (t.fittedNow n) :=
  tableMapIdx_getElem _ _ _

/-! ### The steps before the watch table's, and those after it -/

/-- The first five steps of a site reset: the passage, the composition, the train table, the roster, the points (R210). -/
def resetTrack (t : Site) : Site := t.resetPassage.stopComposition.resetTrain.resetRoster.resetPoints

/-- What the first five steps change. -/
theorem resetTrack_eq (t : Site) : t.resetTrack =
    ((((((t.setModules t.resetModules.modules).setPassage (.atRest t.passage.latched t.passage.falseApproaches)).setComposition
      none).setTrain (Vector.replicate 4 none)).setRoster t.roster.atReset).setPoints (t.points.atReset t.now)) := by
  simp only [resetTrack, resetPassage, resetModules, clearDirection, updatePassage, stopComposition, resetTrain, resetRoster,
    resetPoints, setPassage, setModules, setPoints, setComposition, setTrain, setRoster]
  rfl

@[simp] theorem resetTrack_mode (t : Site) : t.resetTrack.mode = t.mode := by simp [resetTrack_eq]
@[simp] theorem resetTrack_now (t : Site) : t.resetTrack.now = t.now := by simp [resetTrack_eq]
@[simp] theorem resetTrack_pins (t : Site) : t.resetTrack.pins = t.pins := by simp [resetTrack_eq]
@[simp] theorem resetTrack_points (t : Site) : t.resetTrack.points = t.points.atReset t.now := by simp [resetTrack_eq]
@[simp] theorem resetTrack_settings (t : Site) : t.resetTrack.settings = t.settings := by simp [resetTrack_eq]
@[simp] theorem resetTrack_clock (t : Site) : t.resetTrack.clock = t.clock := by simp [resetTrack_eq]
@[simp] theorem resetTrack_watch (t : Site) : t.resetTrack.watch = t.watch := by simp [resetTrack_eq]
@[simp] theorem resetTrack_store (t : Site) : t.resetTrack.store = t.store := by simp [resetTrack_eq]

/-- The last step, written as one change of the flags: CLOCK_UNSET alone stands, while the clock is unset (R204, R210). -/
theorem resetIndications_eq (t : Site) : t.resetIndications =
    ((t.setFlags (if t.clock.isSet then 0#18 else BitVec.twoPow 18 17)).setEnables 0#18).clearCounters := by
  have clock : ((t.setFlags 0#18).setEnables 0#18).clearCounters.clock = t.clock := clearCounters_clock _
  rw [resetIndications, keepClockUnset, clock]
  cases t.clock.isSet with
  | true => rw [Bool.not_true, raiseIf_false]; rfl
  | false =>
    rw [Bool.not_false, raiseIf_true, raise, clearCounters_flags, setEnables_flags, setFlags_flags, setAdd, BitVec.zero_or,
      clearCounters_setFlags]
    exact congrArg clearCounters rfl

theorem siteReset_eq (t : Site) : t.siteReset =
    ((t.resetTrack.resetWatch.setFlags (if t.clock.isSet then 0#18 else BitVec.twoPow 18 17)).setEnables 0#18).clearCounters := by
  have clock : t.resetTrack.resetWatch.clock = t.clock :=
    t.resetTrack.resetWatch_applied.clock.trans t.resetTrack_clock
  rw [siteReset, ← resetTrack, resetIndications_eq, clock]

/-! ### The watch table at a site reset (R179) -/

/-- What was pending at a slot's entry in `t`, applied to `v` in its order (R177, R179). -/
def applyHeld (t v : Site) (i : Fin 512) : Site :=
  match t.watchEntry i with
  | some e => (applyPending i e.pending true v).1
  | none => v

/-- The watch table's part: the holds ended, then what was pending applied in slot order (R179). -/
theorem resetWatch_eq (t : Site) : t.resetWatch = (List.finRange 512).foldl t.applyHeld t.watchCleared := by
  have applied : t.applyHeld = fun v i => (applyPending i t.watch.slots[i].pendings true v).1 := by
    funext v i
    have pendings : (t.watchSlot i).pendings = ((t.watchEntry i).map WatchEntry.pending).getD [] := by
      unfold WatchSlot.pendings watchEntry
      cases (t.watchSlot i).entry <;> rfl
    show t.applyHeld v i = (applyPending i (t.watchSlot i).pendings true v).1
    rw [pendings, applyHeld]
    cases t.watchEntry i <;> rfl
  rw [applied]
  rfl

@[simp] theorem watchCleared_store (t : Site) : t.watchCleared.store = t.store := rfl
@[simp] theorem watchCleared_sweepSerial (t : Site) : t.watchCleared.watch.sweepSerial = t.watch.sweepSerial := rfl
@[simp] theorem watchCleared_settings (t : Site) : t.watchCleared.settings = t.settings := rfl

/-- A slot once the holds have ended: no holder, nothing pending, no notice (R179). -/
theorem watchCleared_watchSlot (t : Site) (i : Fin 512) : t.watchCleared.watchSlot i =
    { t.watchSlot i with
      entry := (t.watchEntry i).map (fun e => { e with hold := none, pending := [] })
      noticeLink := false
      noticeService := false } := tableMap_getElem WatchSlot.atReset t.watch.slots i

theorem resetTrack_watchEntry (t : Site) (i : Fin 512) : t.resetTrack.watchEntry i = t.watchEntry i := by
  simp only [watchEntry, watchSlot, resetTrack_watch]

theorem resetTrack_sweepSerial (t : Site) : t.resetTrack.watchCleared.watch.sweepSerial = t.watch.sweepSerial := by
  rw [watchCleared_sweepSerial, resetTrack_watch]

theorem resetTrack_watchSlot (t : Site) (i : Fin 512) : t.resetTrack.watchSlot i = t.watchSlot i := by
  rw [watchSlot, watchSlot, resetTrack_watch]

theorem resetTrack_applyHeld (t : Site) : t.resetTrack.applyHeld = t.applyHeld := by
  funext v i
  rw [applyHeld, applyHeld, resetTrack_watchEntry]

/-! ### What a site reset leaves, block by block (R210) -/

variable (t : Site)

theorem siteReset_passage : t.siteReset.passage = .atRest t.passage.latched 0#16 := by
  rw [siteReset_eq, clearCounters_passage, setEnables_passage, setFlags_passage, t.resetTrack.resetWatch_applied.passage]
  rfl

theorem siteReset_composition : t.siteReset.composition = none := by
  rw [siteReset_eq, clearCounters_composition, setEnables_composition, setFlags_composition,
    t.resetTrack.resetWatch_applied.composition]
  rfl

theorem siteReset_train : t.siteReset.train = Vector.replicate 4 none := by
  rw [siteReset_eq, clearCounters_train, setEnables_train, setFlags_train, t.resetTrack.resetWatch_applied.train]
  rfl

theorem siteReset_roster : t.siteReset.roster =
    { t.roster.atReset with earlyTags := 0#16, lateTags := 0#16, unplacedTags := 0#16, failedReads := 0#16 } := by
  rw [siteReset_eq, clearCounters_roster, setEnables_roster, setFlags_roster, t.resetTrack.resetWatch_applied.roster]
  rfl

theorem siteReset_points : t.siteReset.points = (t.points.atReset t.now).clearCounters := by
  rw [siteReset_eq, clearCounters_points, setEnables_points, setFlags_points, t.resetTrack.resetWatch_applied.points]
  exact congrArg PointUnit.clearCounters t.resetTrack_points

theorem siteReset_modules : t.siteReset.modules =
    { t.resetModules.modules with lines := tableMapIdx (fun _ l => l.clearCounters) t.resetModules.modules.lines } := by
  rw [siteReset_eq, clearCounters_modules, setEnables_modules, setFlags_modules, t.resetTrack.resetWatch_applied.modules]
  rfl

theorem siteReset_watch : t.siteReset.watch = t.resetTrack.resetWatch.watch := by
  rw [siteReset_eq, clearCounters_watch, setEnables_watch, setFlags_watch]

theorem siteReset_store : t.siteReset.store = { t.resetTrack.resetWatch.store with faults := 0#16, entriesLost := 0#16 } := by
  rw [siteReset_eq, clearCounters_store, setEnables_store, setFlags_store]

theorem siteReset_holds : t.siteReset.holds = { link := 0, service := 0 } := by
  rw [siteReset_eq, clearCounters_holds, setEnables_holds, setFlags_holds, t.resetTrack.resetWatch_applied.holds]
  rfl

theorem siteReset_flags : t.siteReset.flags = if t.clock.isSet then 0#18 else BitVec.twoPow 18 17 := by
  rw [siteReset_eq, clearCounters_flags, setEnables_flags, setFlags_flags]

theorem siteReset_enables : t.siteReset.enables = 0#18 := by
  rw [siteReset_eq, clearCounters_enables, setEnables_enables]

theorem siteReset_counters : t.siteReset.counters = List.replicate 67 0#16 := by
  rw [siteReset_eq, clearCounters_counters]

theorem siteReset_mode : t.siteReset.mode = t.mode := by
  rw [siteReset_eq, clearCounters_mode, setEnables_mode, setFlags_mode, t.resetTrack.resetWatch_applied.mode]
  exact t.resetTrack_mode

theorem siteReset_now : t.siteReset.now = t.now := by
  rw [siteReset_eq, clearCounters_now, setEnables_now, setFlags_now, t.resetTrack.resetWatch_applied.now]
  exact t.resetTrack_now

theorem siteReset_pins : t.siteReset.pins = t.pins := by
  rw [siteReset_eq, clearCounters_pins, setEnables_pins, setFlags_pins, t.resetTrack.resetWatch_applied.pins]
  exact t.resetTrack_pins

theorem siteReset_settings : t.siteReset.settings = t.settings := by
  rw [siteReset_eq, clearCounters_settings, setEnables_settings, setFlags_settings, t.resetTrack.resetWatch_applied.settings]
  exact t.resetTrack_settings

theorem siteReset_clock : t.siteReset.clock = t.clock := by
  rw [siteReset_eq, clearCounters_clock, setEnables_clock, setFlags_clock, t.resetTrack.resetWatch_applied.clock]
  exact t.resetTrack_clock

theorem siteReset_point (q : PointId) : t.siteReset.point q = ((t.point q).atReset t.now).clearCounter := by
  rw [point, siteReset_points]
  cases q <;> rfl

theorem siteReset_head (h : HeadId) :
    t.siteReset.head h = { level := (t.head h).level, health := .inService, lastChange := t.now } := by
  rw [head, siteReset_point]
  exact (Point.clearCounter_head _ _).trans (Point.atReset_head _ _ _)

/-- A line after a site reset: STAND_DOWN sent first where its module was armed, and nothing else of it kept but its send sequence,
its frames to send and its receiver (R71, R78, R90; log 9). -/
theorem siteReset_line (n : Fin 8) :
    let l := t.line n
    let armed := l.arming = .arming ∨ l.arming = .ready ∨ l.arming = .missing
    let standDown := ModuleFrame.make (BitVec.ofNat 8 (lineKind n).frameByte) t.passageWord l.sendSeq standDownCode []
    t.siteReset.line n =
      { ModuleLine.coldStart (if t.fittedNow n then .idle else .notFitted) with
        sendSeq := if armed then l.sendSeq + 1#16 else l.sendSeq
        sending := if armed then l.sending ++ [standDown] else l.sending
        receiver := l.receiver } := by
  intro l armed standDown
  have cleared : t.siteReset.line n = (t.resetModules.line n).clearCounters := by
    rw [line, siteReset_modules]
    exact tableMapIdx_getElem _ _ _
  rw [cleared, resetModules_line]
  by_cases sent : armed
  · rw [if_pos (l.inPassage_iff.2 sent), if_pos sent, if_pos sent]
    rfl
  · rw [if_neg (sent ∘ l.inPassage_iff.1), if_neg sent, if_neg sent]
    rfl

/-- The watch table's part of a site reset, seen from the site before it. -/
theorem resetTrack_resetWatch :
    t.resetTrack.resetWatch = (List.finRange 512).foldl t.applyHeld t.resetTrack.watchCleared := by
  rw [resetWatch_eq, resetTrack_applyHeld]

/-- The store after a site reset: what was pending may change the queue, and the write in flight (R210, R220). -/
theorem siteReset_store_kept : t.siteReset.store =
    { t.store with
      queue := t.resetTrack.resetWatch.store.queue
      inFlight := t.resetTrack.resetWatch.store.inFlight
      faults := 0#16
      entriesLost := 0#16 } := by
  have kept := t.resetTrack.resetWatch_applied.store
  rw [siteReset_store, kept, watchCleared_store, resetTrack_store]

theorem siteReset_inFlight_eq : t.siteReset.store.inFlight = t.resetTrack.resetWatch.store.inFlight := by
  rw [siteReset_store]

/-- Of a write in flight only the changed mark can differ (R210, R220). -/
theorem siteReset_inFlight : t.siteReset.store.inFlight = t.store.inFlight ∨
    ∃ w, t.store.inFlight = some w ∧ t.siteReset.store.inFlight = some { w with changed := true } := by
  have flight := t.resetTrack.resetWatch_applied.flight
  rw [watchCleared_store, resetTrack_store] at flight
  rwa [siteReset_inFlight_eq]

/-- The sweep is abandoned, its serial kept (R186, R210). -/
theorem siteReset_sweep : t.siteReset.watch.sweepState = .idle ∧ t.siteReset.watch.cursor = 0 ∧
    t.siteReset.watch.startPending = false ∧ t.siteReset.watch.sweepSerial = t.watch.sweepSerial := by
  have applied := t.resetTrack.resetWatch_applied
  rw [siteReset_watch, applied.sweepState, applied.cursor, applied.startPending, applied.sweepSerial, watchCleared_sweepSerial,
    resetTrack_watch]
  exact ⟨rfl, rfl, rfl, rfl⟩

theorem siteReset_noHolds : t.siteReset.NoHolds := by
  have cleared : t.resetTrack.resetWatch.NoHolds := t.resetTrack.resetWatch_applied.noHolds t.resetTrack.watchCleared_noHolds
  intro i e stands
  rw [watchEntry, watchSlot, siteReset_watch] at stands
  exact cleared i e stands

end Site

namespace Machine

/-- SITE_RESET taken: the site reset, and OK with an empty body (R210). -/
theorem exec_siteReset {s : State} {p : Port} {tag : Byte} {body : List Byte} (takes : s.Takes p .siteReset body) :
    exec (.siteReset p tag body) s = .next (s.granted p tag .siteReset [] s.site.siteReset) :=
  request_granted takes tag (owner := fun t => t.siteReset.answerOk []) rfl

/-- Settles O12: the set carried is read or refused, and the resets leave no enable (`Site.siteReset_enables`). -/
theorem enablesSetReplaced : Obligations.EnablesSetReplaced := by
  refine ⟨fun s p tag body takes => ?_, fun s a b => ⟨_, rfl, rfl⟩, fun s p tag body takes => ?_, fun t e i => ?_⟩
  · refine ⟨fun past => ?_, fun inside => ?_⟩
    · refine request_refused takes tag (owner := fun t => t.enablesSet body) ?_
      simp only [Site.enablesSet, readFlagSet_of_past past]
    · refine request_granted takes tag (owner := fun t => t.enablesSet body) ?_
      simp only [Site.enablesSet, readFlagSet_of_lt inside, flagField, BitVec.toNat_ofNat, Nat.mod_eq_of_lt inside]
  · exact ⟨_, exec_siteReset takes, (congrArg Site.enables (State.answered_site ..)).trans s.site.siteReset_enables⟩
  · cases i <;> rfl

/-- Settles O14: SITE_RESET is taken (`exec_siteReset`) and the site it leaves is `Site.siteReset`, block by block; the watch table
and the store queue are those of what was pending applied in slot order (`Site.resetTrack_resetWatch`), which touches nothing else
of what the reset left (`Site.resetWatch_applied`). -/
theorem siteResetClears : Obligations.SiteResetClears := by
  intro s p tag body takes applied
  have inOrder : s.site.resetTrack.resetWatch = (List.finRange 512).foldl applied s.site.resetTrack.watchCleared :=
    s.site.resetTrack_resetWatch
  refine ⟨s.site.siteReset, s.site.resetTrack.watchCleared, exec_siteReset takes, s.site.siteReset_passage,
    s.site.siteReset_composition, s.site.siteReset_train, ?_⟩
  rw [← inOrder, s.site.siteReset_roster, s.site.siteReset_points, s.site.siteReset_modules]
  obtain ⟨idle, cursor, quiet, serial⟩ := s.site.siteReset_sweep
  refine ⟨rfl, rfl, rfl, rfl, rfl, rfl, rfl, fun q => ?_, s.site.siteReset_head, rfl, rfl, rfl, fun n => ?_,
    s.site.siteReset_holds, s.site.siteReset_noHolds, fun i => ?_, s.site.resetTrack_settings,
    s.site.resetTrack_sweepSerial, s.site.resetTrack_store, s.site.siteReset_watch,
    s.site.siteReset_store_kept, s.site.siteReset_inFlight, idle, cursor, quiet, serial, s.site.siteReset_flags,
    s.site.siteReset_enables, s.site.siteReset_counters, s.site.siteReset_mode, s.site.siteReset_now, s.site.siteReset_pins,
    s.site.siteReset_settings, s.site.siteReset_clock⟩
  · rw [s.site.siteReset_point]
    exact ⟨rfl, rfl, rfl, rfl, rfl, Point.atReset_machine _ _⟩
  · exact s.site.siteReset_line n
  · rw [Site.watchCleared_watchSlot, s.site.resetTrack_watchEntry, s.site.resetTrack_watchSlot]

end Machine

end Sys2Proof
end

section
/-! PROOF. CLOCK_READ and CLOCK_SET, and the next scheduled sweep start. -/

namespace Sys2Proof

/-! ### The days ahead of a reading (R216) -/

namespace DateTime

variable {days : BitVec 7} {minute k n : Nat} {today : Bool} {d : DateTime}

theorem foldl_nextDay (d : DateTime) (k : Nat) : (List.range k).foldl (fun e _ => e.nextDay) d = nextDay^[k] d := by
  rw [List.foldl_const, List.length_range]

/-- The scheduled second comes `k` days ahead: on a day of the set, and this day's still lies ahead (R216). -/
abbrev Falls (days : BitVec 7) (today : Bool) (d : DateTime) (k : Nat) : Prop :=
  (0 < k ∨ today = true) ∧ days.getLsbD (nextDay^[k] d).weekday = true

theorem scheduleFrom_of_today (falls : Falls days today d 0) :
    d.scheduleFrom days minute (n + 1) today = some (d.atMinute minute) :=
  if_pos (Bool.and_eq_true_iff.2 ⟨falls.1.resolve_left (lt_irrefl 0), falls.2⟩)

theorem scheduleFrom_of_later (later : ¬Falls days today d 0) :
    d.scheduleFrom days minute (n + 1) today = d.nextDay.scheduleFrom days minute n true :=
  if_neg (fun now => later ⟨.inr (Bool.and_eq_true_iff.1 now).1, (Bool.and_eq_true_iff.1 now).2⟩)

/-- From the next day on, each scheduled second lies ahead. -/
theorem falls_succ_iff : Falls days today d (k + 1) ↔ Falls days true d.nextDay k := by
  simp only [Falls, Function.iterate_succ_apply, Nat.succ_pos, true_or, or_true]

/-- The first day on which the scheduled second comes is the day the search finds. -/
theorem scheduleFrom_of_first (inside : k < n) (falls : Falls days today d k) (first : ∀ j, j < k → ¬Falls days today d j) :
    d.scheduleFrom days minute n today = some ((nextDay^[k] d).atMinute minute) := by
  induction n generalizing k d today with
  | zero => exact absurd inside (Nat.not_lt_zero k)
  | succ n ih =>
    cases k with
    | zero => exact scheduleFrom_of_today falls
    | succ k =>
      rw [scheduleFrom_of_later (first 0 k.succ_pos), Function.iterate_succ_apply]
      exact ih (Nat.lt_of_succ_lt_succ inside) (falls_succ_iff.1 falls)
        (fun j before => mt falls_succ_iff.2 (first (j + 1) (Nat.succ_lt_succ before)))

/-- The range of a date-time (R215). -/
theorem valid_iff (d : DateTime) : d.valid = true ↔ 2000 ≤ d.year ∧ d.year ≤ 2099 ∧ 1 ≤ d.month ∧ d.month ≤ 12 ∧ 1 ≤ d.day ∧
    d.day ≤ monthLength d.year d.month ∧ d.hour ≤ 23 ∧ d.minute ≤ 59 ∧ d.second ≤ 59 ∧ d.weekday ≤ 6 := by
  simp only [valid, Bool.and_eq_true, decide_eq_true_eq, and_assoc]

end DateTime

namespace Site

variable {t : Site} {body : List Byte}

/-- No start is scheduled while the clock is unset or no day is in the set (R214). -/
theorem nextSweep_of_none (idle : t.clock.isSet = false ∨ BitVec.ofNat 7 (t.setting .sweepDays) = 0#7) : t.nextSweep = none :=
  if_pos idle

/-- SWEEP_TIME on a day of SWEEP_DAYS comes `k` days ahead of the reading (R216). -/
abbrev StartsIn (t : Site) (k : Nat) : Prop :=
  DateTime.Falls (BitVec.ofNat 7 (t.setting .sweepDays))
    (decide (t.clock.reading.secondOfDay < t.setting .sweepTime * 60)) t.clock.reading k

/-- The next scheduled start, on the first day it falls on; past the end of 2099 a free value (R214, R216; log 16). -/
theorem nextSweep_of_first {k : Nat} (isSet : t.clock.isSet = true) (days : BitVec.ofNat 7 (t.setting .sweepDays) ≠ 0#7)
    (week : k ≤ 7) (falls : t.StartsIn k) (first : ∀ j, j < k → ¬t.StartsIn j) :
    t.nextSweep = some
      (if (DateTime.nextDay^[k] t.clock.reading).year ≤ 2099 then
        (DateTime.nextDay^[k] t.clock.reading).atMinute (t.setting .sweepTime)
      else Config.sweepPastEnd t.clock.reading (BitVec.ofNat 7 (t.setting .sweepDays)) (t.setting .sweepTime)) := by
  have scheduled : ¬(t.clock.isSet = false ∨ BitVec.ofNat 7 (t.setting .sweepDays) = 0#7) := by
    rw [isSet]
    exact fun h => h.elim (by decide) days
  rw [nextSweep, if_neg scheduled, DateTime.scheduleFrom_of_first (Nat.lt_succ_of_le week) falls first]
  rfl

/-! ### CLOCK_SET (R215) -/

theorem clockSet_of_bad (bad : ¬(readDateTime body 0).valid = true) : t.clockSet body = t.refuse .badValue := if_neg bad

theorem clockSet_of_good (good : (readDateTime body 0).valid = true) : t.clockSet body =
    (t.setReading (readDateTime body 0)).noteClockChange.answerOk (dateTimeField (readDateTime body 0)) := if_pos good

theorem noteClockChange_of_open (isOpen : t.passageOpen = true) : t.noteClockChange = t.addRecordCause .clockChanged :=
  if_pos isOpen

/-- An opening that is called for or held notes the change in the pending causes. -/
theorem noteClockChange_of_called (quiet : t.passageOpen = false) (called : t.passage.phase ≠ .idle ∨ t.passage.held = true) :
    t.noteClockChange = t.addPending .clockChanged :=
  (if_neg (Bool.eq_false_iff.1 quiet)).trans (if_pos called)

theorem noteClockChange_of_rest (quiet : t.passageOpen = false) (rest : ¬(t.passage.phase ≠ .idle ∨ t.passage.held = true)) :
    t.noteClockChange = t :=
  (if_neg (Bool.eq_false_iff.1 quiet)).trans (if_neg rest)

end Site

namespace Machine

/-- Settles O55: the next scheduled start is on the first day it falls on (`Site.nextSweep_of_first`); a reading taken is noted by
the state of the passage (`Site.noteClockChange_of_open` and its neighbours). -/
theorem clockReadAndSet : Obligations.ClockReadAndSet := by
  intro s p tag body t c
  refine ⟨fun takes => ?_, ?_, fun takes => ?_⟩
  · exact request_granted takes tag (owner := fun t => t.clockRead) rfl
  · intro days minute day ahead falls
    have reached (k : Nat) : day k = DateTime.nextDay^[k] c.reading := DateTime.foldl_nextDay c.reading k
    have fallsOn (k : Nat) : t.StartsIn k ↔ falls k := by
      simp only [falls, reached]
      exact and_congr_left' (or_congr_right decide_eq_true_iff)
    refine ⟨Site.nextSweep_of_none, fun k isSet some week here first => ?_⟩
    rw [reached]
    exact Site.nextSweep_of_first isSet some week ((fallsOn k).2 here) (fun j before => mt (fallsOn j).1 (first j before))
  · intro d good set gives noted
    have range : (readDateTime body 0).valid = true ↔ good := (readDateTime body 0).valid_iff
    have granted {r : Site} (within : good) (note : set.noteClockChange = r) : gives r :=
      request_granted takes tag (owner := fun t => t.clockSet body)
        (note ▸ Site.clockSet_of_good (range.2 within))
    refine ⟨fun bad => ?_, fun within isOpen => granted within (Site.noteClockChange_of_open isOpen),
      fun within quiet called => granted within (Site.noteClockChange_of_called quiet called),
      fun within quiet rest => granted within (Site.noteClockChange_of_rest quiet rest)⟩
    exact request_refused takes tag (owner := fun t => t.clockSet body) (Site.clockSet_of_bad (mt range.1 bad))

end Machine

end Sys2Proof
end

section
/-! PROOF. The write queue, the writes and their ends, STORE_SAVE and STORE_RETRY. -/

namespace Sys2Proof

/-! ### An item queued (R220) -/

namespace StoreUnit

variable {u : StoreUnit} {i : StoreItem} {w : Write}

theorem enqueue_of_flying (flying : u.inFlight = some w) (same : w.item = i) :
    u.enqueue i = { u with inFlight := some { w with changed := true } } := by
  rw [enqueue, flying]
  exact if_pos same

theorem enqueue_of_other (other : ∀ w, u.inFlight = some w → w.item ≠ i) :
    u.enqueue i = if i ∈ u.queue then u else { u with queue := u.queue ++ [i] } := by
  unfold enqueue
  split
  · next w flying => exact if_neg (other w flying)
  · rfl

/-- The write queue with an item that is not in flight queued: left where it stands, or placed at the tail. -/
def queueWith (u : StoreUnit) (i : StoreItem) : List StoreItem := if i ∈ u.queue then u.queue else u.queue ++ [i]

theorem enqueue_of_landed (landed : u.inFlight = none) : u.enqueue i = { u with queue := u.queueWith i } := by
  rw [enqueue_of_other (fun w flying => by rw [landed] at flying; cases flying), queueWith]
  split <;> rfl

/-- A write ends the STORE_SAVE that waits for SETTINGS with an image built after it (R223). -/
theorem savedBy_eq_some_iff {v : WaitingSave} :
    u.savedBy w = some v ↔ u.waiting = some v ∧ w.item = .settings ∧ v.imageOlder = false := by
  unfold savedBy
  split
  · next settings => simp only [Option.filter_eq_some_iff, settings, true_and, Bool.not_eq_true']
  · next other => simp only [other, false_and, and_false, reduceCtorEq]

end StoreUnit

namespace Site

variable {t : Site} {w : Write}

/-! ### The head of the queue taken for writing (R220) -/

theorem startWrite_of_next {i : StoreItem} {rest : List StoreItem} (running : t.mode = .running) (online : t.store.state = .online)
    (landed : t.store.inFlight = none) (queue : t.store.queue = i :: rest) : t.startWrite = t.setStore
      { t.store with queue := rest, inFlight := some (t.newWrite i), nextStamp := t.store.nextStamp + 1#32 } := by
  rw [startWrite, if_pos ⟨running, online, landed⟩, queue]

theorem startWrite_of_nothing (nothing : t.mode ≠ .running ∨ t.store.state = .offline ∨ t.store.inFlight.isSome = true ∨
    t.store.queue = []) : t.startWrite = t := by
  unfold startWrite
  split
  · next ready =>
    obtain ⟨running, online, landed⟩ := ready
    rw [landed, online] at nothing
    obtain stopped | offline | flying | queue := nothing
    · exact absurd running stopped
    · cases offline
    · cases flying
    · rw [queue]
  · rfl

/-! ### The two ends of a write (R221) -/

/-- An item queued when the write in flight has ended. -/
theorem landWrite_enqueue (t : Site) (w : Write) (i : StoreItem) : (t.landWrite w).enqueue i = t.setStore
    { t.store with
      inFlight := none
      queue := t.store.queueWith i
      waiting := t.store.waiting.map (fun v => v.pass w.item) } := by
  rw [Site.enqueue, StoreUnit.enqueue_of_landed rfl]
  rfl

/-- Stamping a slot and changing the store touch different parts. -/
theorem stampSlot_setStore (t : Site) (w : Write) (v : StoreUnit) : (t.setStore v).stampSlot w = (t.stampSlot w).setStore v := by
  unfold stampSlot
  split <;> rfl

theorem writeSucceeds_eq (t : Site) (w : Write) : t.writeSucceeds w = (t.stampSlot w).setStore
    { t.store with
      inFlight := none
      failures := 0
      queue := if w.changed then t.store.queueWith w.item else t.store.queue
      waiting := t.store.waiting.map (fun v => v.pass w.item) } := by
  rw [writeSucceeds, landWrite, stampSlot_setStore]
  split
  · rw [Site.enqueue, StoreUnit.enqueue_of_landed rfl]
    rfl
  · rfl

theorem writeFails_eq (t : Site) (w : Write) : t.writeFails w = (t.setStore
    { t.store with
      inFlight := none
      failures := min 3 (t.store.failures + 1)
      queue := t.store.queueWith w.item
      faults := bump t.store.faults
      waiting := t.store.waiting.map (fun v => v.pass w.item)
      state := if 2 ≤ t.store.failures then .offline else t.store.state }).raise .storeFault := by
  simp only [writeFails, landWrite_enqueue, setStore_store, Nat.reduceLeDiff]
  rfl

theorem writeFails_offline_iff (t : Site) (w : Write) :
    (t.writeFails w).store.state = .offline ↔ 2 ≤ t.store.failures ∨ t.store.state = .offline := by
  rw [writeFails_eq]
  show (if 2 ≤ t.store.failures then StoreState.offline else t.store.state) = .offline ↔ _
  split
  · next third => simp only [third, true_or]
  · next early => simp only [early, false_or]

theorem writeFails_waiting (t : Site) (w : Write) :
    (t.writeFails w).store.waiting = t.store.waiting.map (fun v => v.pass w.item) := by
  rw [writeFails_eq]
  rfl

/-! ### STORE_SAVE and STORE_RETRY (R222, R223) -/

theorem storeSave_of_offline {tag : Byte} (offline : t.store.state = .offline) : t.storeSave tag = t.refuse .storeOffline :=
  if_pos offline

theorem storeSave_of_online {tag : Byte} (online : t.store.state = .online) :
    t.storeSave tag = { site := t.startSave tag, reply := none } := if_neg (by rw [online]; decide)

theorem retryStore_of_online (online : t.store.state = .online) : t.retryStore = t := if_neg (by rw [online]; decide)

theorem retryStore_of_offline (offline : t.store.state = .offline) :
    t.retryStore = (t.setStore { t.store with state := .online, failures := 0 }).startWrite := if_pos offline

/-- STORE_RETRY answers the store as it leaves it. -/
theorem storeRetry_of_online {r : Site} (after : t.retryStore = r) (online : r.store.state = .online) :
    t.storeRetry = r.answerOk (leBytes 1 0 ++ leBytes 2 r.store.queue.length) := by
  rw [storeRetry, after, online]
  rfl

end Site

theorem WaitingSave.pass_tag (v : WaitingSave) (i : StoreItem) : (v.pass i).tag = v.tag := by
  unfold WaitingSave.pass
  split <;> rfl

namespace Machine

variable {s : State} {w : Write} {v : WaitingSave}

/-- An event that leaves the site as it is has no effect. -/
theorem onSite_of_same {f : Site → Site} (same : f s.site = s.site) : onSite f s = .next s := by
  rw [onSite_next, same, State.setSite_self]

theorem exec_storeWriteStart {r : Site} (h : s.site.startWrite = r) : exec .storeWriteStart s = .next (s.setSite r) := by
  rw [← h]
  rfl

/-! ### The end of the write in flight, and of a STORE_SAVE with it (R221, R223) -/

theorem State.endWrite_of_nothing (nothing : s.site.mode ≠ .running ∨ s.site.store.inFlight = none) (success : Bool) :
    s.endWrite success = s := by
  unfold State.endWrite
  split
  · next w flying => exact if_neg (nothing.resolve_right (by rw [flying]; exact Option.some_ne_none w))
  · rfl

theorem State.endWrite_of_flying (running : s.Running) (flying : s.site.store.inFlight = some w) (success : Bool) :
    s.endWrite success = if success then s.writeDone w else s.writeLost w := by
  rw [State.endWrite, flying]
  exact if_pos running

/-- A STORE_SAVE that ends is answered on the site link and waits no more. -/
theorem State.setSite_endSave {r ended : Site} (cleared : r.endWaiting = ended) (v : WaitingSave) (a : Reply) :
    (s.setSite r).endSave v a = (s.setSite ended).pushAnswer .siteLink
      { tag := v.tag, kind := RequestKind.storeSave.code, status := a.status, body := a.body } := by
  rw [← cleared]
  rfl

theorem State.writeDone_of_saved (saved : s.site.store.savedBy w = some v) :
    s.writeDone w = (s.setSite (s.site.writeSucceeds w)).endSave v (.ok (longField w.stamp)) := by
  rw [State.writeDone, saved]

theorem State.writeDone_of_unsaved (unsaved : s.site.store.savedBy w = none) :
    s.writeDone w = s.setSite (s.site.writeSucceeds w) := by
  rw [State.writeDone, unsaved]

theorem State.failSave_of_offline (offline : s.site.store.state = .offline) (waiting : s.site.store.waiting = some v) :
    s.failSave = s.endSave v (.bare .storeOffline) := by
  rw [State.failSave, offline, waiting]

theorem State.failSave_of_other (other : s.site.store.state ≠ .offline ∨ s.site.store.waiting = none) : s.failSave = s := by
  unfold State.failSave
  split
  · next v offline waiting =>
    rw [waiting] at other
    exact absurd offline (other.resolve_right (Option.some_ne_none v))
  · rfl

theorem State.writeLost_of_offline (offline : 2 ≤ s.site.store.failures ∨ s.site.store.state = .offline)
    (waiting : s.site.store.waiting = some v) :
    s.writeLost w = (s.setSite (s.site.writeFails w)).endSave (v.pass w.item) (.bare .storeOffline) :=
  State.failSave_of_offline ((s.site.writeFails_offline_iff w).2 offline)
    ((s.site.writeFails_waiting w).trans (congrArg (Option.map _) waiting))

theorem State.writeLost_of_other
    (other : ¬(2 ≤ s.site.store.failures ∨ s.site.store.state = .offline) ∨ s.site.store.waiting = none) :
    s.writeLost w = s.setSite (s.site.writeFails w) :=
  State.failSave_of_other (other.imp (mt (s.site.writeFails_offline_iff w).1)
    (fun free => (s.site.writeFails_waiting w).trans (congrArg (Option.map _) free)))

/-- Settles O57: queuing by where the item stands (`StoreUnit.enqueue_of_flying`, `StoreUnit.enqueue_of_other`); the two ends of a
write by what they leave of the site (`Site.writeSucceeds_eq`, `Site.writeFails_eq`) and by the STORE_SAVE that they end;
STORE_RETRY by the write that it starts (`Site.startWrite_of_next`). -/
theorem storeWrites : Obligations.StoreWrites := by
  refine ⟨fun u i => ⟨fun w flying same => ?_, fun other queued => ?_, fun other absent => ?_⟩, fun s p tag body => ?_⟩
  · exact StoreUnit.enqueue_of_flying flying same
  · exact (StoreUnit.enqueue_of_other other).trans (if_pos queued)
  · exact (StoreUnit.enqueue_of_other other).trans (if_neg absent)
  intro t u image writing
  have written (i : StoreItem) : writing i = some (t.newWrite i) := by
    cases i <;> rfl
  refine ⟨fun running online landed i rest queue => ?_, fun nothing => ?_, fun nothing => ⟨?_, fun same => ?_⟩,
    fun w running flying => ?_, fun takes => ⟨fun offline => ?_, fun online => ?_⟩, fun takes => ?_⟩
  · rw [written]
    exact exec_storeWriteStart (Site.startWrite_of_next running online landed queue)
  · exact onSite_of_same (Site.startWrite_of_nothing nothing)
  · exact congrArg _ (State.endWrite_of_nothing nothing false)
  · exact congrArg _ (State.endWrite_of_nothing nothing same)
  · intro wait back answers stamped landed saved offline lost
    have done : t.writeSucceeds w = landed wait := t.writeSucceeds_eq w
    have fails : t.writeFails w = lost wait := t.writeFails_eq w
    have won : exec (.storeWriteEnd true) s = .next (s.writeDone w) :=
      congrArg _ (State.endWrite_of_flying running flying true)
    refine ⟨fun v ends => ?_, fun unsaved => ?_, fun c bad => ?_⟩
    · rw [won, State.writeDone_of_saved (StoreUnit.savedBy_eq_some_iff.2 ends),
        State.setSite_endSave (congrArg Site.endWaiting done)]
      rfl
    · have free : u.savedBy w = none := Option.eq_none_iff_forall_ne_some.2 fun v ends =>
        unsaved v (StoreUnit.savedBy_eq_some_iff.1 ends)
      rw [won, State.writeDone_of_unsaved free]
      exact congrArg (fun r => Host.Outcome.next (s.setSite r)) done
    · have run : exec c s = .next (s.writeLost w) := by
        obtain rfl | rfl := bad <;> exact congrArg _ (State.endWrite_of_flying running flying false)
      refine ⟨fun v off waiting => ?_, fun other => ?_⟩
      · rw [run, State.writeLost_of_offline off waiting, State.setSite_endSave (congrArg Site.endWaiting fails), v.pass_tag]
        rfl
      · rw [run, State.writeLost_of_other other]
        exact congrArg (fun r => Host.Outcome.next (s.setSite r)) fails
  · exact request_refused takes tag (owner := fun t => t.storeSave tag) (Site.storeSave_of_offline offline)
  · refine (request_of_takes takes tag (fun t => t.storeSave tag)).trans ?_
    rw [show s.site.storeSave tag = _ from Site.storeSave_of_online online]
    rfl
  · intro gives again
    have running : s.Running := by
      obtain ⟨-, ready, -⟩ := takes
      exact ready.resolve_right (fun fixed => absurd fixed.2 (by decide))
    have granted {r : Site} {n : Nat} (after : t.retryStore = r) (online : r.store.state = .online)
        (length : r.store.queue.length = n) : gives n r :=
      request_granted takes tag (owner := fun t => t.storeRetry) (length ▸ Site.storeRetry_of_online after online)
    refine ⟨fun online => ?_, fun offline nothing => ?_, fun i rest offline landed queue => ?_⟩
    · exact granted (Site.retryStore_of_online online) online rfl
    · exact granted ((Site.retryStore_of_offline offline).trans (Site.startWrite_of_nothing (.inr (.inr nothing)))) rfl rfl
    · rw [written]
      exact granted ((Site.retryStore_of_offline offline).trans
        (Site.startWrite_of_next running rfl landed queue)) rfl rfl

end Machine

end Sys2Proof
end

section
/-! PROOF. The state after reset, COLD_START, and the part held by RSTN. -/

namespace Sys2Proof

/-! ### The site at the entry to LOADING (R224) -/

namespace Site

variable (pins : HeadLines) (draws : Nat)

@[simp] theorem coldStart_watchEntry (i : Fin 512) : (Site.coldStart pins draws).watchEntry i = none := by
  simp [watchEntry, watchSlot, coldStart, WatchTable.coldStart, WatchSlot.coldStart]

@[simp] theorem coldStart_point (p : PointId) : (Site.coldStart pins draws).point p = Point.coldStart := by
  cases p <;> rfl

end Site

namespace Machine

/-- Settles O60: the parts about the passage and the tables hold after every cold start (`Site.PassageSound.coldStart`,
`Site.TablesSound.coldStart`); the others speak of counts at 0 and of empty queues and slots. -/
theorem invariantsHoldAtReset : Obligations.InvariantsHoldAtReset := by
  obtain ⟨records, verdicts, roster, places⟩ := Site.PassageSound.coldStart HeadLines.allClear 0
  refine
    { queue := StoreUnit.queueSound_empty rfl rfl
      holds := fun p => ?_
      pending := fun i e live => ?_
      nets := fun p => ?_
      clock := fun _ => by decide
      quiet := fun _ => rfl
      answers := fun p => ?_
      tables := Site.TablesSound.coldStart _ _
      records := records
      verdicts := verdicts
      roster := roster
      places := places }
  · cases p <;> exact Nat.zero_le _
  · rw [State.reset, Site.coldStart_watchEntry] at live
    cases live
  · rw [State.reset, Site.coldStart_point]
    exact Nat.zero_le _
  · cases p <;> exact Nat.zero_le _

/-- Settles O3: the fields of `Site.coldStart` one by one; every watch slot is FREE (`Site.coldStart_watchEntry`) and every point
at its start (`Site.coldStart_point`). -/
theorem resetEntersLoading : Obligations.ResetEntersLoading :=
  ⟨rfl, rfl, rfl, rfl, rfl, rfl, rfl, rfl, rfl, rfl, rfl, rfl, rfl, rfl, rfl, rfl, rfl, rfl, rfl, rfl, rfl,
    Site.coldStart_watchEntry _ _, rfl, Site.coldStart_point _ _, rfl, rfl, rfl, fun _ _ _ => rfl⟩

/-! ### A held part (R193, R224) -/

variable {s : State} {c : Instr}

/-- A request of the catalogue spells an event exactly when its body fits a frame (R194; log 3). -/
theorem wf_of_requestOf {r : Request} (named : requestOf c = some r) : c.wf = bodyFits r.body := by
  cases c <;> cases named <;> rfl

section Held

variable (held : s.site.mode = .held)

include held

theorem not_running_of_held : s.site.mode ≠ .running := by rw [held]; decide

theorem not_loading_of_held : s.site.mode ≠ .loading := by rw [held]; decide

theorem onRunning_of_held (f : Site → Site) : onSite (fun t => t.whenRunning f) s = .next s :=
  onSite_of_same (Site.whenRunning_of_not_running (not_running_of_held held) f)

/-- A held part takes no frame of a module line (R69). -/
theorem moduleFrame_of_held (n : Fin 8) (f : ModuleFrame) (take : Site → Site) :
    s.setSite (s.site.takeFrame n f take) = s := by
  rw [Site.takeFrame_of_not_running (not_running_of_held held), State.setSite_self]

/-- A held part takes no frame of a port (R193). -/
theorem takeFrame_of_held (p : Port) (tag kind : Byte) (take : Site → Handled) : s.takeFrame p tag kind take = s := if_pos held

theorem discardFrame_of_held (p : Port) (r : Receiver) : s.discardFrame p r = s := if_pos held

theorem answerSent_of_held (p : Port) : s.answerSent p = s := if_pos held

/-- A command that spells a request has no effect on a held part. -/
theorem exec_request_of_held {r : Request} (named : requestOf c = some r) (spelt : c.wf = true) : exec c s = .next s := by
  obtain ⟨owner, run⟩ := exec_of_requestOf named
  rw [run, request_of_fits ((wf_of_requestOf named).symm.trans spelt), takeFrame_of_held held]

/-- A command that spells an event has no effect on a held part, but for COLD_START, HEAD_CHANGE and RSTN low. -/
theorem exec_of_held (spelt : c.wf = true) (noStart : ∀ a b, c ≠ .coldStart a b) (noHead : ∀ h v, c ≠ .headChange h v)
    (noLow : c ≠ .rstnLowOrPowerLoss) : exec c s = .next s := by
  cases named : requestOf c with
  | some r => exact exec_request_of_held held named spelt
  | none =>
    have stopped := not_running_of_held held
    have loaded := not_loading_of_held held
    cases c with
    | coldStart a b => exact absurd rfl (noStart a b)
    | headChange h v => exact absurd rfl (noHead h v)
    | rstnLowOrPowerLoss => exact absurd rfl noLow
    | loadSettingsImage m => exact onSite_of_same (Site.takeSettingsImage_of_other (.inl loaded) m)
    | loadSerialImage m => exact onSite_of_same (Site.takeSerialImage_of_other (.inl loaded) m)
    | loadSlotImage m => exact onSite_of_same (f := fun t => t.takeSlotImage m) (Site.takeSlotImage_of_other (.inl loaded) m)
    | loadingEnd => exact onSite_of_same (Site.endLoading_of_other (.inl loaded))
    | clockSecond => exact onSite_of_same (Site.clockSecond_of_held held)
    | storeWriteStart => exact onSite_of_same (Site.startWrite_of_nothing (.inl stopped))
    | storeAckTimeout => exact congrArg _ (State.endWrite_of_nothing (.inl stopped) false)
    | storeWriteEnd same => exact congrArg _ (State.endWrite_of_nothing (.inl stopped) same)
    | portByteGap p b => exact congrArg _ (discardFrame_of_held held p _)
    | answerSent p => exact congrArg _ (answerSent_of_held held p)
    | requestFrameDiscard p what => exact (if_pos spelt).trans (congrArg _ (discardFrame_of_held held p _))
    | unknownRequest p tag kind body => exact (if_pos spelt).trans (congrArg _ (takeFrame_of_held held p tag kind _))
    | moduleReady n f | bayScannerReport n f => exact (if_pos spelt).trans (congrArg _ (moduleFrame_of_held held n f _))
    | tagReport f => exact (if_pos spelt).trans (congrArg _ (moduleFrame_of_held held tagLine f _))
    | moduleFrameDiscard n what =>
      exact (if_pos spelt).trans (onRunning_of_held held (fun t => t.discardModuleFrame n what))
    | stuckTimerExpiry | quietTimerExpiry | armTimerExpiry | armTimeoutExpiry | standstillTimerExpiry | clearTimerExpiry
    | passageLimitExpiry | moduleByteGap | composeDerive | composeTestCriteria | composeWatchedVehicles | composeSelect
    | composeVerdict | passageContribution | compositionEnd | trainLeaseExpiry | watchLeaseExpiry | sweepVisit =>
      exact onRunning_of_held held _
    | _ => cases named

end Held

/-- Settles O5: RSTN low is `Site.hold`; on a held part a head line moves its pin (`Site.headChange_of_not_running`), and any other
command but COLD_START has no effect (`exec_of_held`). -/
theorem heldPartTakesNothing : Obligations.HeldPartTakesNothing := by
  refine ⟨fun s => rfl, fun s held => ⟨fun c spelt noStart noHead noLow => ?_, fun h v => ?_⟩⟩
  · exact exec_of_held held spelt noStart noHead noLow
  · rw [exec_headChange, Site.headChange_of_not_running (not_running_of_held held)]

end Machine

end Sys2Proof
end

section
/-! PROOF. A step as the front command's effect, and the commands that complete. -/

namespace Sys2Proof.Machine

/-- Settles O1, by the match of `step` on the queue. -/
theorem stepRunsTheFrontCommand : Obligations.StepRunsTheFrontCommand := by
  intro s c rest queue
  simp only [step, queue]

theorem onWellFormed_of_wf {wf : Bool} (h : wf = true) (f : State → State) (s : State) : onWellFormed wf f s = .next (f s) :=
  if_pos h

theorem onWellFormed_of_not_wf {wf : Bool} (h : wf = false) (f : State → State) (s : State) :
    onWellFormed wf f s = .fault .malformedCommand :=
  if_neg (Bool.eq_false_iff.1 h)

/-- A request is an event exactly when its body fits a frame (R194; log 3). -/
theorem request_eq_onWellFormed (k : RequestKind) (p : Port) (tag : Byte) (body : List Byte) (owner : Site → Handled) (s : State) :
    request k p tag body owner s =
      onWellFormed (bodyFits body) (fun t => t.takeFrame p tag k.code (checked k p body owner)) s :=
  rfl

/-- Every command is a change of the state that is made exactly when the term spells an event (log 3). The commands that test
their own term name `Instr.wf`'s condition; a request tests its body; the others always spell an event. -/
theorem exec_eq_onWellFormed (c : Instr) : ∃ f : State → State, ∀ s, exec c s = onWellFormed c.wf f s := by
  cases named : requestOf c with
  | some r =>
    obtain ⟨owner, run⟩ := exec_of_requestOf named
    rw [wf_of_requestOf named]
    exact ⟨_, fun s => (run s).trans (request_eq_onWellFormed ..)⟩
  | none =>
    cases c with
    | moduleReady | bayScannerReport | tagReport | moduleFrameDiscard | requestFrameDiscard | unknownRequest =>
      exact ⟨_, fun _ => rfl⟩
    | coldStart | loadSettingsImage | loadSerialImage | loadSlotImage | loadingEnd | headChange | stuckTimerExpiry
    | quietTimerExpiry | armTimerExpiry | armTimeoutExpiry | standstillTimerExpiry | clearTimerExpiry | passageLimitExpiry
    | moduleByteGap | composeDerive | composeTestCriteria | composeWatchedVehicles | composeSelect | composeVerdict
    | passageContribution | compositionEnd | trainLeaseExpiry | watchLeaseExpiry | sweepVisit | clockSecond | storeWriteStart
    | storeAckTimeout | storeWriteEnd | portByteGap | answerSent | rstnLowOrPowerLoss =>
      exact ⟨_, fun _ => rfl⟩
    | _ => cases named

/-- Settles O4: the condition on the term is all that stands between a command and its effect (`exec_eq_onWellFormed`), and no
effect touches the queue (`exec_pending`). -/
theorem everyWellFormedCommandCompletes : Obligations.EveryWellFormedCommandCompletes := by
  intro c s
  obtain ⟨f, run⟩ := exec_eq_onWellFormed c
  refine ⟨fun spelt => ?_, fun misspelt => ?_⟩
  · have done : exec c s = .next (f s) := (run s).trans (onWellFormed_of_wf spelt f s)
    exact ⟨f s, done, exec_pending done⟩
  · exact (run s).trans (onWellFormed_of_not_wf misspelt f s)

end Sys2Proof.Machine
end
